-- ==== Sys2Proof/Word.lean ====
section
/-! DEFINITION. The word types of the model and the one container every table of the block is kept in:
an association list by number, which stays plain data. -/
namespace Sys2Proof

abbrev Byte := BitVec 8
abbrev W16 := BitVec 16
abbrev W32 := BitVec 32
abbrev W64 := BitVec 64

/-- A sparse table from numbers (handles, units, registers) to values: plain data, read through the
operations of Machine/Bits.lean, which give an absent key the table's stated default. -/
abbrev Tab (α : Type) := List (Nat × α)

end Sys2Proof
end

