-- ==== Sys2Proof/Syntax.lean ====
section
/-! DEFINITION. The commands of the block: `Instr` has one constructor per row of spec/opcode_table.json.
The types before it are the rows' operands, in the manual's own fields. A command that is an event of an
engine carries what the manual leaves to the world outside (a reading, a disturbance, a test's outcome). -/
namespace Sys2Proof

/-! ### Zuhan operands (06 Tables 6.2 to 6.17) -/

/-- 06 Table 6.4: IALU functions. -/
inductive IaluFn where
  | add | sub | mul | mulhs | mulhu | divs | divu | rems | remu | and | or | xor | shl | shr | sra
  | mins | maxs | minu | maxu | seq | sne | slts | sltu | sles | sleu
deriving DecidableEq, Repr

/-- 06 Table 6.5: FALU functions. -/
inductive FaluFn where
  | fadd | fsub | fmul | fmac | fdiv | fsqrt | fmin | fmax | feq | flt | fle | cvtfi | cvtif | fexp2 | flog2
deriving DecidableEq, Repr

/-- 06 Table 6.9, VFALU column. -/
inductive VfaluFn where
  | fadd | fsub | fmul | fma | fdiv | fsqrt | fmin | fmax | fexp2 | flog2 | fabs | fneg | cvtfi | cvtif
deriving DecidableEq, Repr

/-- 06 Table 6.9, VIALU column. -/
inductive VialuFn where
  | add | sub | mul | and | or | xor | shl | shr | sra | mins | maxs
deriving DecidableEq, Repr

/-- 06 Table 6.9, VCMP column. -/
inductive VcmpFn where
  | feq | flt | fle | fun' | ieq | ilt | ile | ult
deriving DecidableEq, Repr

/-- 06 R163: VRED functions. -/
inductive VredFn where
  | fsum | fmax | fmin | isum | imax | imin
deriving DecidableEq, Repr

/-- 06 Table 6.10: QOP functions. -/
inductive QopFn where
  | and | or | xor | andn | not | ones | zeros
deriving DecidableEq, Repr

/-- 06 Table 6.6: BR conditions. -/
inductive BrCond where
  | always | eq0 | ne0 | lt0 | ge0 | gt0 | le0
deriving DecidableEq, Repr

/-- 06 R154: a 7-bit source field names a scalar or a parameter register. -/
inductive Src where
  | s (n : Fin 32)
  | p (n : Fin 64)
deriving DecidableEq, Repr

/-- 06 Table 6.7: the bound of a LOOP. -/
inductive LoopBound where
  | imm (b : Fin 128)
  | param (n : Fin 64)
deriving DecidableEq, Repr

/-- 06 Table 6.17: KIND of SIGNAL and WAITFOR. -/
inductive SyncKind where
  | fence | sem
deriving DecidableEq, Repr

/-- 06 Table 6.16: source of LTLD. -/
inductive LtSrc where
  | image (idx : BitVec 10)
  | feed (sa : Fin 32)
deriving DecidableEq, Repr

/-- 06 Table 6.14: direction of TMOVE. -/
inductive Dir where
  | memMem | memSlot | slotMem
deriving DecidableEq, Repr

/-- 06 Table 6.15: TSCATTER operations. -/
inductive ScatterOp where
  | store | add | max | min
deriving DecidableEq, Repr

/-- The pair that retires the instruction (unit 16d + u) and the exclusive-or of the two sequencers'
retirement tokens (05 R128): 0 when nothing disturbed them. -/
structure Issue where
  unit : Fin 64
  upset : W64 := 0
deriving DecidableEq, Repr

/-- 06 Table 6.12: MPASS. -/
structure MpassF where
  ln : Fin 16
  cls : BitVec 12
  cont : Bool
  pre : Bool
  skm : Bool
  relA : Bool
  relB : Bool
  relSA : Bool
  relSB : Bool
  rent : Byte
  sk : Fin 32
deriving DecidableEq, Repr

/-- 06 Table 6.14: TMOVE. -/
structure TmoveF where
  dir : Dir
  hd : Fin 32
  hs : Fin 32
  os : Fin 32
  od : Fin 32
  ex : Fin 32
  sc : Fin 32
  slot : BitVec 9
  rel : Bool
deriving DecidableEq, Repr

/-! ### Items of a queue (13 Tables 13.5 to 13.7, 15 Table 15.3) -/

/-- 13 Table 13.5: the item header. `rsv` gathers its reserved bits (0 in a good header). -/
structure Header where
  plen : Nat := 0
  tag : W32 := 0
  wv : Bool := false
  wf : Bool := false
  wsem : Nat := 0
  sv : Bool := false
  ssem : Nat := 0
  wval : W64 := 0
  sval : W64 := 0
  dline : W64 := 0
  rsv : Nat := 0
deriving DecidableEq, Repr

/-- 13 Table 13.6: LAUNCH payload and its parameter values. -/
structure LaunchPl where
  prog : Nat
  count : Nat
  ireg : Fin 64
  iv : Bool
  dies : BitVec 4
  pv : Bool
  pin : Nat
  params : List W64
  rsv : Nat := 0
deriving DecidableEq, Repr

/-- 05 R149, 06 R160, 07 R178: a program image, by its parts (log 19: the manual gives no container). -/
structure Image where
  isa : Nat := 2
  rsv : Nat := 0
  slots : Nat := 0
  code : List W32
  est : List (W32 × W32) := []
  ltabs : List (BitVec 1024) := []
  stages : List (BitVec 256) := []
  pmax : List W64 := []
deriving DecidableEq, Repr

/-- 06 Tables 6.21, 6.22: a patch table as its 8-byte words. -/
structure Patch where
  h0 : W64
  h1 : W64
  entries : List (W64 × W64)
deriving DecidableEq, Repr

/-- 08 Table 8.9: KV-OPEN operands. -/
structure KvOpenPl where
  alloc : Nat
  off : Nat
  limit : Nat
  ring : Nat
  model : W64
  domain : W32
  layers : Nat
  heads : Nat
  hdim : Nat
  et : Nat
  entries : List (W64 × W64)
deriving DecidableEq, Repr

/-- 13 Table 13.4 and 09 Table 9.4: queue attributes. AGE is in ns. -/
structure QAttrs where
  cls : Nat := 1
  level : Nat := 0
  age : Nat := 10000000
  dpol : Nat := 0
  fpol : Nat := 0
  bt : Nat := 128
  bw : Nat := 2
  skmode : Nat := 1
  budget : W32 := 0x3B800000#32
  truen : Nat := 8
  tinit : Nat := 24
  tmin : Nat := 12
  depth : Nat := 256
deriving DecidableEq, Repr

/-- 16 Table 16.5: queue transport block, its four words. -/
structure Transport where
  w0 : W64 := 0
  w1 : W64 := 0
  w2 : W64 := 0
  w3 : W64 := 0
deriving DecidableEq, Repr

/-- 13 Table 13.7: kind of a MEM-ALLOC. -/
inductive AllocKind where
  | device (hbm : BitVec 32)
  | host (port : Nat) (addr : Nat)
  | slice (die : Nat) (slice : Nat)
deriving DecidableEq, Repr

/-- The payload of every item a queue can carry. -/
inductive ItemBody where
  | launch (p : LaunchPl)
  | replay (list : Nat) (patch : Option Patch)
  | listBegin
  | listEnd
  | spindleRun (rec : BitVec 512)
  | nop
  | descCreate (image : BitVec 1024)
  | descDestroy (h : Nat)
  | descStatus (h : Nat) (clear : Bool)
  | load (im : Image)
  | unload (h : Nat)
  | kvOpen (p : KvOpenPl)
  | kvExtend (h oldlen newlen : Nat) (entries repl : List (W64 × W64))
  | kvMatch (h tokens count : Nat)
  | kvPublish (h tokens : Nat)
  | kvClose (h : Nat)
  | skimBegin (base : List Byte) (adj : List Byte)
  | skimRec (image : BitVec 256)
  | skimStep (slot : Nat)
  | skimQuery (h : Nat)
  | skimEnd (slot : Nat)
  | rngSeed (slot : Nat) (value : BitVec 96) (rsv : Nat)
  | rngJump (slot : Nat) (stream : W32) (mask : W64) (rsv : Nat)
  | ctxCreate (fsr : List Nat) (slices : List W16)
  | ctxDestroy (c : Nat)
  | ctxSave (c alloc : Nat)
  | ctxRestore (alloc : Nat) (allocCtx : Nat)
  | ctxDisable (c fence : Nat) (value : W64)
  | qCreate (c : Nat) (a : QAttrs) (t : Transport)
  | qSet (q : Nat) (a : QAttrs) (clearHalt : Bool)
  | qDisable (q fence : Nat) (value : W64)
  | qDestroy (q : Nat)
  | memAlloc (c va size page : Nat) (kind : AllocKind) (wr : Bool)
  | memFree (c alloc : Nat)
  | semCreate (v : W64)
  | semDestroy (k : Nat)
  | codecOpen (rec : BitVec 512) (pool : List (W64 × W64))
  | codecFrame (p : BitVec 512)
  | codecRelease (h : Nat) (mask : W16)
  | codecClose (h : Nat)
  /-- An item whose OP names no item of Table 13.7 or Table 15.3 (13 R501). -/
  | unknown (op : Byte)
deriving DecidableEq, Repr

/-! ### Operands of engine events -/

/-- What an operation's words met on their way (01 R18, R26; 12 Table 12.4; 95 ILLEGAL_CODE). -/
inductive Upset where
  | none
  /-- the illegal dual-rail code of Table 1.6 at a channel of a block -/
  | illegal (die block chan : Nat)
  /-- a fabric or SRAM word whose codeword differs by `mask` -/
  | word (die block index : Nat) (mask : BitVec 39)
  /-- HBM bus parity failed so many times running at the address (12 Table 12.4) -/
  | parity (addr times : Nat)
deriving DecidableEq, Repr

/-- An operand of an operation, with what the operation's words met on their way. -/
structure Met (α : Type) where
  of : α
  up : Upset := .none
deriving DecidableEq, Repr

/-- 01 R27: a channel, and the local count of its die's oscillator at which it raised the request that stands. -/
structure Request where
  chan : Nat
  raised : W64
deriving DecidableEq, Repr

/-- A change forced on one physical cell at capture (03 Table 3.2). -/
structure CellUpset where
  row : Nat
  col : Nat
  xor : W32
deriving DecidableEq, Repr

/-- 03 R91: what the members of a batch pass share: the loop table of their bucket with its parameters, and B as the feed store
holds it from byte 0 on (log 96). -/
structure BatchOp where
  tab : BitVec 1024
  params : List W64 := []
  b : List Byte := []
deriving DecidableEq, Repr

/-- A member of a batch by its number, with what it shares. -/
structure BatchMember where
  id : Nat
  op : BatchOp
deriving DecidableEq, Repr

/-- How many rows of A a member has, and their bytes as the feed store holds them from byte 0 on. -/
structure BatchRows where
  n : Nat
  a : List Byte := []
deriving DecidableEq, Repr

/-- 14 R339: what the three channels of one junction sensor read over a gate period: its share of the integral of core
voltage times core current in uJ, and its temperature in units of 0.125 degrees C. -/
structure Sensor where
  energy : Nat × Nat × Nat
  temp : Int × Int × Int
deriving DecidableEq, Repr

/-- 14 Table 14.1 order 2, 01 R36: what one die measures in a gate period: its 64 triplicated sensors and its pace monitors,
16 or 4, in steps/us. -/
structure DieReport where
  sensors : List Sensor
  paces : List Nat
deriving DecidableEq, Repr

/-- 14 R340, R354: why a ladder state is left. -/
inductive Wake where
  | doorbell | ringWrite | codecInput | metWait | deadline | linkLoss
deriving DecidableEq, Repr

/-- 16 Table 16.7 order 1: what declares a loss. -/
inductive LossWhy where
  | detect | dlDown | ideFailure | recovery
deriving DecidableEq, Repr

/-- 12 Table 12.4: severity of an HBM read. `bad` has one bit per 32-byte half (R499). -/
inductive Severity where
  | clean
  | corrected
  | uncorrectable (low high : Bool)
deriving DecidableEq, Repr

/-- A ring frame as received (17 Table 17.3): TYPE is the row's. `crc` is the CRC received. -/
structure Frame where
  dst : Byte
  hops : Byte := 0
  status : Byte := 0xFF#8
  seq : W16 := 0
  payload : List Byte
  crc : W32
deriving DecidableEq, Repr

/-- 17 Table 17.9: the access block. -/
structure Access where
  index : Nat
  sub : Nat
  stg : Bool := false
  rsv : Nat := 0
  off : Nat := 0
  cnt : Nat
  size : Nat := 0
  data : List Byte := []
deriving DecidableEq, Repr

/-- 17 Table 17.11: an authenticated command. -/
structure AuthCmd where
  ctrl : Nat
  kind : Nat
  rsv : Nat := 0
  counter : W64
  body : List Byte
  check : List Byte
deriving DecidableEq, Repr

/-- 18 Table 18.7: one reading of the input and the coolant, in the objects' units, and the hottest
junction (0.125 degrees C). -/
structure EnvReading where
  mv10 : Nat
  ma10 : Nat
  inlet : Int
  outlet : Int
  flow : Nat
  junction : Int := 0
deriving DecidableEq, Repr

/-- 21 R473, Table 21.2: outcome of a die's self test; of an I/O die, of its oscillator's trimming. `cells` lists located cells by unit. -/
structure DieTest where
  ok : Bool := true
  memCtlOk : Bool := true
  spindleOk : Bool := true
  trimOk : Bool := true
  badUnits : List Nat := []
  located : List (Nat × Nat × Nat) := []
deriving DecidableEq, Repr

/-- 21 Tables 21.1, 21.2: what start-up meets. Durations in us. -/
structure ColdReport where
  inputOk : Bool := true
  flashOk : Bool := true
  counterOk : Bool := true
  rootOk : Bool := true
  identityOk : Bool := true
  durations : List Nat := []
  badStacks : List Nat := []
  /-- stacks of another device serial, or whose stored training fails its verification (R471) -/
  retrained : List Nat := []
  badIo : List Nat := []
  badPorts : List Nat := []
  badCodecs : List Nat := []
  rxLock : Bool := true
  dies : List DieTest := []
  /-- a phase that exceeds its bound (Table 21.2, last row) -/
  overrun : Option Nat := none
  /-- expiries of the module controller's watchdog during the start (R476) -/
  watchdog : Nat := 0
deriving DecidableEq, Repr

/-! ### The commands -/

/-- One constructor per row of spec/opcode_table.json, in the table's order. -/
inductive Instr where
  -- Zuhan instructions
  | ialu (i : Issue) (rd : Fin 32) (ra rb : Src) (fn : IaluFn)
  | falu (i : Issue) (rd : Fin 32) (ra rb : Src) (fn : FaluFn)
  | addi (i : Issue) (rd : Fin 32) (ra : Src) (imm : BitVec 12)
  | andi (i : Issue) (rd : Fin 32) (ra : Src) (imm : BitVec 12)
  | ori (i : Issue) (rd : Fin 32) (ra : Src) (imm : BitVec 12)
  | xori (i : Issue) (rd : Fin 32) (ra : Src) (imm : BitVec 12)
  | shli (i : Issue) (rd : Fin 32) (ra : Src) (sh : BitVec 6)
  | shri (i : Issue) (rd : Fin 32) (ra : Src) (sh : BitVec 6)
  | srai (i : Issue) (rd : Fin 32) (ra : Src) (sh : BitVec 6)
  | slti (i : Issue) (rd : Fin 32) (ra : Src) (imm : BitVec 12)
  | movz (i : Issue) (rd : Fin 32) (hw : Fin 4) (imm : W16)
  | movk (i : Issue) (rd : Fin 32) (hw : Fin 4) (imm : W16)
  | br (i : Issue) (cond : BrCond) (ra : Fin 32) (tgt : BitVec 15)
  | loop (i : Issue) (sc : Fin 32) (bound : LoopBound) (off : BitVec 11)
  | endL (i : Issue)
  | part (i : Issue)
  | signal (i : Issue) (kind : SyncKind) (so sv : Fin 32) (sc : Option (Fin 32))
  | waitfor (i : Issue) (kind : SyncKind) (so sv : Fin 32)
  | ltld (i : Issue) (ln : Fin 16) (src : LtSrc)
  | tstat (i : Issue) (sd sh : Fin 32) (clr : Bool)
  | vfalu (i : Issue) (vd va vb : Fin 32) (pred : Option (Fin 8)) (fn : VfaluFn)
  | vialu (i : Issue) (vd va vb : Fin 32) (pred : Option (Fin 8)) (fn : VialuFn)
  | vcmp (i : Issue) (qd : Fin 8) (va vb : Fin 32) (pred : Option (Fin 8)) (fn : VcmpFn)
  | vsel (i : Issue) (vd va vb : Fin 32) (q : Fin 8)
  | vbcast (i : Issue) (vd : Fin 32) (ra : Src)
  | vextr (i : Issue) (sd : Fin 32) (va : Fin 32) (lane : Fin 512)
  | vidx (i : Issue) (vd : Fin 32)
  | vred (i : Issue) (sd : Fin 32) (va : Fin 32) (pred : Option (Fin 8)) (fn : VredFn)
  | vld (i : Issue) (vd : Fin 32) (sa : Fin 32) (et : BitVec 4) (rl : Bool)
  | vst (i : Issue) (va sa vb : Fin 32) (et : BitVec 4) (rm : BitVec 2) (ovf mk : Bool)
  | vrand (i : Issue) (vd va sk sn : Fin 32) (w : Fin 4)
  | vrandj (i : Issue) (vd : Fin 32)
  | qop (i : Issue) (qd qa qb : Fin 8) (fn : QopFn)
  | mpass (i : Issue) (f : MpassF)
  | mpreload (i : Issue) (ax : Bool) (slot : BitVec 9) (rel : Bool)
  | mdrain (i : Issue) (ax : Bool) (slot : BitVec 9) (fent : Byte) (sd : Fin 32)
  | tmove (i : Issue) (f : TmoveF)
  | tgather (i : Issue) (hd hs hi : Fin 32) (axis : Fin 8) (sc : Fin 32)
  | tscatter (i : Issue) (hd hs hi : Fin 32) (axis : Fin 8) (sc : Fin 32) (sop : ScatterOp)
  -- engine events
  | moveComplete (m : Nat) (up : Upset)
  | passIssue (u : Fin 64)
  | passBoundary (u : Fin 64) (ups : List CellUpset)
  | preloadFill (u : Fin 64)
  | tileCheck (u : Fin 64)
  | finishingRun (u : Fin 64) (upset : W64)
  | roughingRun (u : Fin 64) (upset : W64)
  | closingPass (u : Fin 64) (upset : W64)
  | sequencerSelfTest (u : Fin 64) (passed : Bool)
  | stallMonitor (die block : Nat) (chan : Request)
  -- dispatch, governor, ladder
  | dispatch (d : Fin 4) (temps : List Int)
  | urgentPromotion (l : Nat)
  | batchMemberArrival (q : Nat) (member : BatchMember) (rows : BatchRows)
  | gatePulse (rest : Nat) (reports : List (Option DieReport))
  | ladderDescend
  | ladderWake (why : Wake)
  | scrubBurstWake
  | l4Exit (stages : List (List Byte))
  -- items
  | itemStart (q : Nat) (raw : Option (List Byte))
  | deadlineMiss (q : Nat) (item : Nat)
  | launch (q : Nat) (h : Header) (p : LaunchPl)
  | replay (q : Nat) (h : Header) (list : Nat) (patch : Option Patch)
  | listBegin (q : Nat) (h : Header)
  | listEnd (q : Nat) (h : Header)
  | spindleRun (q : Nat) (h : Header) (rec : BitVec 512)
  | spindleRow (d : Met (Fin 4))
  | nop (q : Nat) (h : Header)
  | descCreate (q : Nat) (h : Header) (image : BitVec 1024)
  | descDestroy (q : Nat) (h : Header) (d : Nat)
  | descStatus (q : Nat) (h : Header) (d : Nat) (clear : Bool)
  | load (q : Nat) (h : Header) (im : Image)
  | unload (q : Nat) (h : Header) (p : Nat)
  | kvOpen (q : Nat) (h : Header) (p : KvOpenPl)
  | kvExtend (q : Nat) (h : Header) (r oldlen newlen : Nat) (entries repl : List (W64 × W64))
  | kvMatch (q : Nat) (h : Header) (r tokens count : Nat)
  | kvPublish (q : Nat) (h : Header) (r tokens : Nat)
  | kvClose (q : Nat) (h : Header) (r : Nat)
  | kvRelease (r : Nat)
  | skimBegin (q : Nat) (h : Header) (base adj : List Byte)
  | skimRec (q : Nat) (h : Header) (image : BitVec 256)
  | skimStep (q : Nat) (h : Header) (slot : Nat)
  | skimQuery (q : Nat) (h : Header) (r : Nat)
  | skimEnd (q : Nat) (h : Header) (slot : Nat)
  | rngSeed (q : Nat) (h : Header) (slot : Nat) (value : BitVec 96) (rsv : Nat)
  | rngJump (q : Nat) (h : Header) (slot : Nat) (stream : W32) (mask : W64) (rsv : Nat)
  | ctxCreate (q : Nat) (h : Header) (fsr : List Nat) (slices : List W16)
  | ctxDestroy (q : Nat) (h : Header) (c : Nat)
  | ctxSave (q : Nat) (h : Header) (c alloc : Nat)
  | ctxRestore (q : Nat) (h : Header) (alloc allocCtx : Nat)
  | ctxDisable (q : Nat) (h : Header) (c fence : Nat) (value : W64)
  | qCreate (q : Nat) (h : Header) (c : Nat) (a : QAttrs) (t : Transport)
  | qSet (q : Nat) (h : Header) (target : Nat) (a : QAttrs) (clearHalt : Bool)
  | qDisable (q : Nat) (h : Header) (target fence : Nat) (value : W64)
  | qDestroy (q : Nat) (h : Header) (target : Nat)
  | memAlloc (q : Nat) (h : Header) (c va size page : Nat) (kind : AllocKind) (wr : Bool)
  | memFree (q : Nat) (h : Header) (c alloc : Nat)
  | semCreate (q : Nat) (h : Header) (v : W64)
  | semDestroy (q : Nat) (h : Header) (k : Nat)
  | disableComplete (n : Nat)
  | disableTimeout (n : Nat)
  | codecOpen (q : Nat) (h : Header) (rec : BitVec 512) (pool : List (W64 × W64))
  | codecFrame (q : Nat) (h : Header) (p : BitVec 512)
  | codecRelease (q : Nat) (h : Header) (s : Nat) (mask : W16)
  | codecClose (q : Nat) (h : Header) (s : Nat)
  | frameSchedule (e : Fin 4)
  | frameEnd (e : Met (Fin 4))
  | decodeTimeBound (e : Fin 4) (rows : Nat)
  -- host ports
  | doorbell (port : Fin 8) (off : Nat) (len : Nat) (val : W64)
  | interruptDelay (q : Nat)
  | hostMemRead (port : Fin 8) (hpa : Met Nat)
  | hostMemWrite (port : Fin 8) (hpa : Met Nat) (data : List (Option Byte))
  | snoop (port : Fin 8) (addr : Nat)
  | hdmDecoderCommit (port : Fin 8) (n : Fin 2) (base size skip ways : Nat)
  | dictRead (port : Fin 8) (a : Access)
  | dictWrite (port : Fin 8) (a : Access)
  | dictWriteAuth (port : Fin 8) (a : AuthCmd)
  | control (port : Fin 8) (a : AuthCmd)
  | adminSetup (port : Fin 8) (t : Transport)
  | eventSetup (port : Fin 8) (base : W64) (log2n : Nat) (ptr : W64) (vec : Nat)
  | biasSet (port : Fin 8) (first count : Nat) (toHost : Bool)
  | portQuiesce (port : Fin 8)
  | surpriseLoss (port : Fin 8) (why : LossWhy)
  | recoveryTimeout (port : Fin 8)
  | hotReset (port : Fin 8)
  | functionLevelReset (port : Fin 8)
  | getIdentity (port : Fin 8)
  | attest (port : Fin 8) (nonce : List Byte)
  | sessionOpen (port : Fin 8) (ctrl : Nat) (ct : List Byte) (nonce : List Byte)
  | sessionFinish (port : Fin 8) (mac : List Byte)
  | secured (port : Fin 8) (seq : W64) (ct tag : List Byte)
  | sessionClose (port : Fin 8)
  -- ring
  | enum (f : Frame)
  | cycle (f : Frame)
  | cycleTimeout
  | read (f : Frame)
  | write (f : Frame)
  | writeAuth (f : Frame)
  | sweep (f : Frame)
  | event (f : Frame)
  -- authenticated commands at the head of the command queue
  | objectWrite
  | claim
  | releaseTo
  | heartbeat
  | activate
  | stageClear
  | activationDone
  | sliceMaskChange (d : Fin 4)
  | leaseExpiry
  | claimLapse (c : Fin 9)
  | lockoutExpiry (c : Fin 9)
  | preferredOwnerWindowEnd
  -- writes of objects, when they execute
  | dictionaryWrite (c : Fin 9) (a : Access)
  | firmwareUpdateWrite (c : Fin 9)
  | firmwareUpdateVerify (c : Fin 9)
  | updateComplete (flashOk : Bool)
  | moduleResetRequest (c : Fin 9)
  | moduleReset
  | logClear (c : Fin 9)
  | ladderRequest (c : Fin 9)
  | ownerKeyEnrolment (c : Fin 9) (pkg : List Byte)
  | commandKeyEnrolment (c : Fin 9) (pkg : List Byte)
  | attestationNonce (c : Fin 9) (nonce : List Byte)
  | bringUpMode (c : Fin 9) (mode : Nat)
  | memorySelfTest (c : Fin 9) (stack : Nat) (arg : Nat)
  | softRepair (c : Fin 9) (stack : Nat) (arg : Nat)
  | hardRepair (c : Fin 9) (stack : Nat) (arg : Nat)
  | fullTraining (c : Fin 9) (stack : Nat) (arg : Nat)
  | stackActionDone (outcome : Nat) (count : Nat) (entries : List W64)
  | proposedRepairWrite (c : Fin 9) (u : Fin 64) (word : W32)
  | marginSweep (c : Fin 9) (arg : W64) (points : List (Nat × Nat)) (held : Bool)
  | buildBundle (c : Fin 9)
  -- start-up, power and faults
  | coldStart (r : ColdReport)
  | trialBankTimeout
  | inputLoss
  | watchdogExpiry
  | watchdogRestart
  | moduleStop (die block cause : Nat)
  | hbmPatrolRead (stack : Nat) (sev : Severity)
  | sramScrubRead (die block word : Nat) (mask : BitVec 39) (raced : Bool)
  | bankRefresh (stack pc : Nat)
  | stackTemperatureRead (stack : Nat) (temp : Int)
  | writeBatch (stack pc : Nat)
  | correctionRateSecond (die : Nat)
  | linkUp (port : Fin 8) (width rate : Nat) (cxl : Bool)
  | plannedLinkDown (port : Fin 8)
  | environmentalReading (r : EnvReading)
  | bundleBuilt (flashOk : Bool)
  | otherTypeFrame (type : Byte) (f : Frame)
deriving DecidableEq, Repr

end Sys2Proof
end

