-- ==== Sys2Proof/Decode.lean ====
section
/-! DEFINITION. The command a word of the command table spells. The table gives none of its 187 rows any bits
(every row is an operation or event of the block), so no word spells a command. The Zuhan words of a
program image are decoded in Machine/Zuhan.lean, from 06's encoding tables. -/
namespace Sys2Proof

/-- No row of the table has bits: no word of any length names one. -/
def decodeTableWord (nbits w : Nat) : Option Instr :=
  let _ := (nbits, w)
  none

end Sys2Proof
end

