-- ==== Sys2Proof/Machine/Bits.lean ====
section
/-! DEFINITION. Tables by number, bit fields and byte orders: the helpers every meaning uses. -/
namespace Sys2Proof

/-! ### Tables -/

/-- The entry under a key. -/
def Tab.find {α : Type} : Tab α → Nat → Option α
  | [], _ => none
  | (k, v) :: t, n => if k = n then some v else Tab.find t n

/-- The entry under a key, or the table's default. -/
def Tab.get {α : Type} (t : Tab α) (d : α) (n : Nat) : α := (t.find n).getD d

/-- Write the entry under a key, keeping keys in ascending order. -/
def Tab.put {α : Type} : Tab α → Nat → α → Tab α
  | [], n, v => [(n, v)]
  | (k, w) :: t, n, v =>
    if k = n then (n, v) :: t
    else if n < k then (n, v) :: (k, w) :: t
    else (k, w) :: Tab.put t n v

/-- Remove the entry under a key. -/
def Tab.del {α : Type} (t : Tab α) (n : Nat) : Tab α := t.filter (fun e => e.1 != n)

/-- Whether a key has an entry. -/
def Tab.has {α : Type} (t : Tab α) (n : Nat) : Bool := (t.find n).isSome

/-- Apply a function to the entry under a key, if it has one. -/
def Tab.upd {α : Type} (t : Tab α) (n : Nat) (f : α → α) : Tab α :=
  match t.find n with
  | some v => t.put n (f v)
  | none => t

/-- The smallest key from `lo` on that has no entry, looking at `fuel` keys. -/
def Tab.freeFrom {α : Type} (t : Tab α) (lo : Nat) : Nat → Option Nat
  | 0 => none
  | fuel + 1 => if t.has lo then Tab.freeFrom t (lo + 1) fuel else some lo

/-- The smallest key in lo to hi that has no entry. -/
def Tab.free {α : Type} (t : Tab α) (lo hi : Nat) : Option Nat :=
  match t.freeFrom lo (t.length + 1) with
  | some k => if k ≤ hi then some k else none
  | none => none

def Tab.keys {α : Type} (t : Tab α) : List Nat := t.map (·.1)

/-! ### Bits and bytes -/

/-- Bits [hi:lo] of a number. -/
def bits (n hi lo : Nat) : Nat := (n >>> lo) % 2 ^ (hi + 1 - lo)

/-- One bit of a number. -/
def bit (n i : Nat) : Bool := (n >>> i) % 2 == 1

/-- Bits [hi:lo] of a word. -/
def fld {w : Nat} (x : BitVec w) (hi lo : Nat) : Nat := bits x.toNat hi lo

/-- Bit i of a word. -/
def flag {w : Nat} (x : BitVec w) (i : Nat) : Bool := bit x.toNat i

/-- Two's complement value of the low `w` bits of a number. -/
def toSigned (w n : Nat) : Int :=
  let m := n % 2 ^ w
  if 2 * m < 2 ^ w then (m : Int) else (m : Int) - (2 ^ w : Nat)

/-- The low `w` bits of an integer in two's complement. -/
def ofSigned (w : Nat) (i : Int) : Nat := (i % ((2 ^ w : Nat) : Int)).toNat

def b2n (b : Bool) : Nat := if b then 1 else 0

/-- Little-endian value of bytes (02 R44). -/
def leNat : List Byte → Nat
  | [] => 0
  | b :: bs => b.toNat + 256 * leNat bs

/-- `n` bytes of a number, little-endian. -/
def natLe : Nat → Nat → List Byte
  | 0, _ => []
  | n + 1, x => BitVec.ofNat 8 x :: natLe n (x / 256)

/-- Ceiling division. -/
def cdiv (a b : Nat) : Nat := (a + b - 1) / b

/-- A list cut into pieces of `n` (structural on `fuel`). -/
def chunksF {α : Type} (n : Nat) : Nat → List α → List (List α)
  | 0, _ => []
  | fuel + 1, xs => if xs.isEmpty then [] else xs.take n :: chunksF n fuel (xs.drop n)

def chunks {α : Type} (n : Nat) (xs : List α) : List (List α) := chunksF n xs.length xs

/-- Add to a counter of `w` bits that saturates. -/
def satAdd (w a b : Nat) : Nat := min (a + b) (2 ^ w - 1)

/-- ASCII bytes of a text. -/
def ascii (s : String) : List Byte := s.toList.map (fun c => BitVec.ofNat 8 c.toNat)

/-- Product of a list. -/
def prod (xs : List Nat) : Nat := xs.foldl (· * ·) 1

/-- Sum of a list. -/
def sumN (xs : List Nat) : Nat := xs.foldl (· + ·) 0

def maxN (xs : List Nat) : Nat := xs.foldl max 0

/-- Position of the first element that meets a test. -/
def findPos {α : Type} (p : α → Bool) : List α → Nat → Option Nat
  | [], _ => none
  | x :: xs, i => if p x then some i else findPos p xs (i + 1)

/-- Replace the element at a position. -/
def setAt {α : Type} (xs : List α) (i : Nat) (v : α) : List α := xs.set i v

/-- Insertion sort by a strict order test, keeping equals in their order. -/
def insertBy {α : Type} (lt : α → α → Bool) (x : α) : List α → List α
  | [] => [x]
  | y :: ys => if lt x y then x :: y :: ys else y :: insertBy lt x ys

def sortBy {α : Type} (lt : α → α → Bool) (xs : List α) : List α :=
  xs.foldl (fun acc x => insertBy lt x acc) []

/-- First best element of a list under a strict order test. -/
def bestBy {α : Type} (lt : α → α → Bool) : List α → Option α
  | [] => none
  | x :: xs => some (xs.foldl (fun b y => if lt y b then y else b) x)

/-- Pairwise tree (06 R163, 02 R63 form): adjacent results combine level by level; an odd last element is
carried up unchanged. -/
def pairUp {α : Type} (f : α → α → α) : List α → List α
  | a :: b :: t => f a b :: pairUp f t
  | rest => rest

def treeF {α : Type} (f : α → α → α) : Nat → List α → List α
  | 0, xs => xs
  | n + 1, xs => if xs.length ≤ 1 then xs else treeF f n (pairUp f xs)

def tree {α : Type} (f : α → α → α) (d : α) (xs : List α) : α := (treeF f 64 xs).headD d

/-- A list of exactly `n` bytes: cut, or padded with zero. -/
def fit (n : Nat) (bs : List Byte) : List Byte := (bs ++ List.replicate n 0#8).take n

end Sys2Proof
end

