-- ==== Sys2Proof/Machine/Num.lean ====
section
/-! DEFINITION. Numbers (02): every finite value is an exact magnitude in units of 2^-320, which holds every
product, block sum and scaled value of the KDX without rounding; results are rounded once where the manual
says so. -/
namespace Sys2Proof

/-- The unit of a magnitude is 2^-unitE. -/
def unitE : Nat := 320

/-- A value: NaN with its sign, an infinity, or a finite value with its sign and exact magnitude. -/
inductive FV where
  | nan (neg : Bool)
  | inf (neg : Bool)
  | fin (neg : Bool) (mag : Nat)
deriving DecidableEq, Repr

/-- A floating format of Table 2.1. `special` says what the top exponent encodes. -/
inductive Special where
  | ieee | nanOnly | noneAtAll
deriving DecidableEq, Repr

structure Fmt where
  eb : Nat
  mb : Nat
  bias : Nat
  special : Special
deriving DecidableEq, Repr

def fp32 : Fmt := ⟨8, 23, 127, .ieee⟩
def bf16 : Fmt := ⟨8, 7, 127, .ieee⟩
def fp16 : Fmt := ⟨5, 10, 15, .ieee⟩
def e4m3 : Fmt := ⟨4, 3, 7, .nanOnly⟩
def e5m2 : Fmt := ⟨5, 2, 15, .ieee⟩
def e3m2 : Fmt := ⟨3, 2, 3, .noneAtAll⟩
def e2m3 : Fmt := ⟨2, 3, 1, .noneAtAll⟩
def e2m1 : Fmt := ⟨2, 1, 1, .noneAtAll⟩

/-- 02 Table 2.1: the floating format of a type code; none for the integer types. -/
def fmtOf (et : Nat) : Option Fmt :=
  match et with
  | 0 => some fp32 | 1 => some bf16 | 2 => some fp16 | 3 => some e4m3
  | 4 => some e5m2 | 5 => some e3m2 | 6 => some e2m3 | 7 => some e2m1
  | _ => none

/-- 02 Table 2.1: bits of an element type. -/
def etBits (et : Nat) : Nat :=
  match et with
  | 0 => 32 | 1 => 16 | 2 => 16 | 3 => 8 | 4 => 8 | 5 => 6 | 6 => 6 | 7 => 4 | 8 => 8 | 9 => 4 | 10 => 32
  | _ => 8

def isInt (et : Nat) : Bool := et == 8 || et == 9 || et == 10
def isPacked (et : Nat) : Bool := et == 5 || et == 6 || et == 7 || et == 9
def isFp6 (et : Nat) : Bool := et == 5 || et == 6
def isFp4 (et : Nat) : Bool := et == 7 || et == 9

/-- 02 R42, Table 2.1: the value of a code. -/
def Fmt.decode (f : Fmt) (code : Nat) : FV :=
  let neg := bit code (f.eb + f.mb)
  let e := bits code (f.eb + f.mb - 1) f.mb
  let m := bits code (f.mb - 1) 0
  let top := 2 ^ f.eb - 1
  if f.special == .ieee && e == top then (if m == 0 then .inf neg else .nan neg)
  else if f.special == .nanOnly && e == top && m == 2 ^ f.mb - 1 then .nan neg
  else if e == 0 then .fin neg (m * 2 ^ (unitE + 1 - f.bias - f.mb))
  else .fin neg ((2 ^ f.mb + m) * 2 ^ (unitE + e - f.bias - f.mb))

/-- Largest finite code without sign. -/
def Fmt.maxCode (f : Fmt) : Nat :=
  match f.special with
  | .ieee => (2 ^ f.eb - 1) * 2 ^ f.mb - 1
  | .nanOnly => 2 ^ (f.eb + f.mb) - 2
  | .noneAtAll => 2 ^ (f.eb + f.mb) - 1

def FV.mag : FV → Nat
  | .fin _ m => m
  | _ => 0

def FV.neg : FV → Bool
  | .nan s => s | .inf s => s | .fin s _ => s

def FV.isNan : FV → Bool
  | .nan _ => true | _ => false

def FV.isInf : FV → Bool
  | .inf _ => true | _ => false

def FV.isFin : FV → Bool
  | .fin _ _ => true | _ => false

/-- The integer a finite value is, in units. -/
def FV.toInt : FV → Int
  | .fin s m => if s then -(m : Int) else (m : Int)
  | _ => 0

/-- Largest finite magnitude. -/
def Fmt.maxMag (f : Fmt) : Nat := (f.decode f.maxCode).mag

/-- Position of the unit in the last place of a magnitude under a format: its subnormal spacing at least. -/
def Fmt.ulpPos (f : Fmt) (mag : Nat) : Nat :=
  let low := unitE + 1 - f.bias - f.mb
  if mag = 0 then low else max low (Nat.log2 mag - f.mb)

/-- 02 Table 2.6: rounding modes. -/
inductive RMode where
  | nearest | zero | stoch (r : Nat)
deriving DecidableEq, Repr

/-- 02 R66, R67: round a magnitude to a multiple of 2^p units. `sticky` says that the true magnitude lies
above `mag` by less than one unit. -/
def roundAt (p : Nat) (mode : RMode) (mag : Nat) (sticky : Bool) : Nat :=
  let q := mag >>> p
  let rem := mag % 2 ^ p
  match mode with
  | .nearest =>
    let half := 2 ^ p / 2
    if p = 0 then q
    else if rem > half || (rem == half && sticky) then (q + 1) * 2 ^ p
    else if rem == half then (if q % 2 == 1 then (q + 1) * 2 ^ p else q * 2 ^ p)
    else q * 2 ^ p
  | .zero => q * 2 ^ p
  | .stoch r =>
    if rem == 0 && !sticky then q * 2 ^ p
    else
      let d := (rem * 2 ^ 24) >>> p
      if d + r ≥ 2 ^ 24 then (q + 1) * 2 ^ p else q * 2 ^ p

/-- The code of a magnitude that the format represents. -/
def Fmt.encodeMag (f : Fmt) (mag : Nat) : Nat :=
  let p := f.ulpPos mag
  let q := mag >>> p
  let low := unitE + 1 - f.bias - f.mb
  if q < 2 ^ f.mb then q else (p - low + 1) * 2 ^ f.mb + (q - 2 ^ f.mb)

def Fmt.signBit (f : Fmt) (neg : Bool) : Nat := if neg then 2 ^ (f.eb + f.mb) else 0

/-- 02 R43: the canonical NaN of a format with a sign. -/
def Fmt.nanCode (f : Fmt) (neg : Bool) : Nat :=
  f.signBit neg +
    match f.special with
    | .ieee => (2 ^ f.eb - 1) * 2 ^ f.mb + 2 ^ (f.mb - 1)
    | .nanOnly => 2 ^ (f.eb + f.mb) - 1
    | .noneAtAll => 0

def Fmt.infCode (f : Fmt) (neg : Bool) : Nat := f.signBit neg + (2 ^ f.eb - 1) * 2 ^ f.mb

/-! ### FP32 arithmetic (02 R59, R65) -/

/-- Round an exact signed value to FP32, nearest-even; beyond the largest finite it is an infinity. -/
def rnd32 (neg : Bool) (mag : Nat) (sticky : Bool) : FV :=
  let r := roundAt (fp32.ulpPos mag) .nearest mag sticky
  if r > fp32.maxMag then .inf neg else .fin neg r

/-- The FP32 pattern of a value that FP32 represents. -/
def FV.to32 : FV → W32
  | .nan s => BitVec.ofNat 32 (fp32.nanCode s)
  | .inf s => BitVec.ofNat 32 (fp32.infCode s)
  | .fin s m => BitVec.ofNat 32 (fp32.signBit s + fp32.encodeMag m)

def of32 (w : W32) : FV := fp32.decode w.toNat

/-- Round an exact integer of units; an exact zero takes the sign given. -/
def rndInt (x : Int) (zeroNeg : Bool) : FV :=
  if x = 0 then .fin zeroNeg 0 else rnd32 (x < 0) x.natAbs false

/-- Sum with one rounding (02 R59). -/
def FV.add (a b : FV) : FV :=
  match a, b with
  | .nan _, _ => .nan false
  | _, .nan _ => .nan false
  | .inf s, .inf t => if s == t then .inf s else .nan false
  | .inf s, _ => .inf s
  | _, .inf t => .inf t
  | .fin s m, .fin t n =>
    rndInt ((FV.fin s m).toInt + (FV.fin t n).toInt) (s && t)

def FV.negate : FV → FV
  | .nan s => .nan (!s)
  | .inf s => .inf (!s)
  | .fin s m => .fin (!s) m

def FV.absV : FV → FV
  | .nan _ => .nan false
  | .inf _ => .inf false
  | .fin _ m => .fin false m

/-- Exact product, before rounding. -/
def FV.mulExact (a b : FV) : FV :=
  match a, b with
  | .nan _, _ => .nan false
  | _, .nan _ => .nan false
  | .inf s, .inf t => .inf (s != t)
  | .inf s, .fin t n => if n = 0 then .nan false else .inf (s != t)
  | .fin s m, .inf t => if m = 0 then .nan false else .inf (s != t)
  | .fin s m, .fin t n => .fin (s != t) (m * n / 2 ^ unitE)

/-- Round an exact value that may be any FV. -/
def FV.rnd : FV → FV
  | .fin s m => if m = 0 then .fin s 0 else rnd32 s m false
  | v => v

def FV.mul (a b : FV) : FV := (a.mulExact b).rnd

/-- a * b + c with one rounding (02 R60). -/
def FV.fma (a b c : FV) : FV :=
  match a.mulExact b, c with
  | .nan _, _ => .nan false
  | _, .nan _ => .nan false
  | .inf s, .inf t => if s == t then .inf s else .nan false
  | .inf s, _ => .inf s
  | _, .inf t => .inf t
  | .fin s m, .fin t n => rndInt ((FV.fin s m).toInt + (FV.fin t n).toInt) (s && t)

/-- Correctly rounded quotient (02 R65). -/
def FV.div (a b : FV) : FV :=
  match a, b with
  | .nan _, _ => .nan false
  | _, .nan _ => .nan false
  | .inf _, .inf _ => .nan false
  | .inf s, .fin t _ => .inf (s != t)
  | .fin s _, .inf t => .fin (s != t) 0
  | .fin s m, .fin t n =>
    if n = 0 then (if m = 0 then .nan false else .inf (s != t))
    else if m = 0 then .fin (s != t) 0
    else
      let q := m * 2 ^ unitE / n
      rnd32 (s != t) q (m * 2 ^ unitE % n != 0)

/-- Integer square root by bits, from bit `i` down. -/
def isqrtF (n : Nat) : Nat → Nat → Nat
  | 0, acc => acc
  | i + 1, acc =>
    let t := acc + 2 ^ i
    if t * t ≤ n then isqrtF n i t else isqrtF n i acc

def isqrt (n : Nat) : Nat := isqrtF n (Nat.log2 n / 2 + 1) 0

/-- Correctly rounded square root (02 R65). -/
def FV.sqrt (a : FV) : FV :=
  match a with
  | .nan _ => .nan false
  | .inf s => if s then .nan false else .inf false
  | .fin s m =>
    if m = 0 then .fin s 0
    else if s then .nan false
    else
      let r := isqrt (m * 2 ^ unitE)
      rnd32 false r (r * r != m * 2 ^ unitE)

/-- Order of two values that are not NaN. -/
def FV.lt (a b : FV) : Bool :=
  match a, b with
  | .nan _, _ => false
  | _, .nan _ => false
  | .inf s, .inf t => s && !t
  | .inf s, _ => s
  | _, .inf t => !t
  | a, b => a.toInt < b.toInt

def FV.eq (a b : FV) : Bool :=
  match a, b with
  | .nan _, _ => false
  | _, .nan _ => false
  | .inf s, .inf t => s == t
  | .inf _, _ => false
  | _, .inf _ => false
  | a, b => a.toInt == b.toInt

/-- 02 R65: minimum; the other operand when exactly one is NaN; -0 before +0. -/
def FV.min (a b : FV) : FV :=
  match a, b with
  | .nan _, .nan _ => .nan false
  | .nan _, b => b
  | a, .nan _ => a
  | a, b => if a.lt b then a else if b.lt a then b else if a.neg then a else b

/-- 02 R65: maximum; +0 before -0. -/
def FV.max (a b : FV) : FV :=
  match a, b with
  | .nan _, .nan _ => .nan false
  | .nan _, b => b
  | a, .nan _ => a
  | a, b => if b.lt a then a else if a.lt b then b else if a.neg then b else a

/-! ### FEXP2 and FLOG2 (06 R158; log 10) -/

/-- Extra bits the series below carry. -/
def guardE : Nat := 64
def wideE : Nat := unitE + guardE

/-- Sum of 1 / (k 2^k), k from n down to 1: ln 2 in units of 2^-wideE. -/
def ln2F : Nat → Nat
  | 0 => 0
  | k + 1 => ln2F k + 2 ^ wideE / ((k + 1) * 2 ^ (k + 1))

def ln2W : Nat := ln2F 400

/-- Terms of exp(y) for y in units of 2^-wideE: from term k on, with `fuel` terms left. -/
def expF (y : Nat) : Nat → Nat → Nat → Nat
  | 0, _, _ => 0
  | fuel + 1, k, term => term + expF y fuel (k + 1) (term * y / 2 ^ wideE / (k + 1))

/-- 2^f for f in units of 2^-unitE below one: a number of units in [1, 2). -/
def exp2Frac (f : Nat) : Nat :=
  expF (f * 2 ^ guardE * ln2W / 2 ^ wideE) 90 0 (2 ^ wideE) / 2 ^ guardE

/-- 06 R158: correctly rounded 2^x. -/
def FV.exp2 (a : FV) : FV :=
  match a with
  | .nan _ => .nan false
  | .inf s => if s then .fin false 0 else .inf false
  | .fin s m =>
    let x := (FV.fin s m).toInt
    let one : Int := (2 ^ unitE : Nat)
    let n := x / one
    let f := (x % one).toNat
    if n ≥ 128 then .inf false
    else if n < -160 then .fin false 0
    else if f = 0 then rnd32 false (2 ^ (unitE + n).toNat) false
    else
      let g := exp2Frac f
      if n ≥ 0 then rnd32 false (g * 2 ^ n.toNat) true
      else rnd32 false (g / 2 ^ (-n).toNat) true

/-- Bits of log2 of a number in [1, 2) given in units of 2^-unitE, most significant first. -/
def log2F : Nat → Nat → Nat → Nat
  | 0, _, acc => acc
  | n + 1, m, acc =>
    let sq := m * m / 2 ^ unitE
    if sq ≥ 2 ^ (unitE + 1) then log2F n (sq / 2) (2 * acc + 1) else log2F n sq (2 * acc)

/-- 06 R158: correctly rounded log2 x. -/
def FV.log2 (a : FV) : FV :=
  match a with
  | .nan _ => .nan false
  | .inf s => if s then .nan false else .inf false
  | .fin s m =>
    if m = 0 then .inf true
    else if s then .nan false
    else
      let p := Nat.log2 m
      let e : Int := (p : Int) - unitE
      let mant := if p ≥ unitE then m / 2 ^ (p - unitE) else m * 2 ^ (unitE - p)
      if mant = 2 ^ unitE then rndInt (e * (2 ^ unitE : Nat)) false
      else
        let frac := log2F 160 mant 0 * 2 ^ (unitE - 160)
        let v : Int := e * (2 ^ unitE : Nat) + frac
        if v ≥ 0 then rnd32 false v.toNat true else rnd32 true (v.natAbs - 1) true

/-! ### Conversions (02 R66 to R69, R498) -/

/-- What a conversion adds to a status word: an overflow, a lost NaN. -/
structure Cnt where
  ovf : Nat := 0
  nan : Nat := 0
deriving DecidableEq, Repr

def Cnt.add (a b : Cnt) : Cnt := ⟨a.ovf + b.ovf, a.nan + b.nan⟩

/-- Integer bounds of a type code. -/
def intMax (et : Nat) : Nat := 2 ^ (etBits et - 1) - 1

/-- An exact value, possibly lying above `mag` by less than a unit. -/
structure Exact where
  v : FV
  sticky : Bool := false
deriving DecidableEq, Repr

/-- 02 Table 2.7, integer column: a value in units of 2^-unitE to an integer type, saturated. -/
def cvtInt (et : Nat) (mode : RMode) (x : Exact) : Nat × Cnt :=
  let w := etBits et
  match x.v with
  | .nan _ => (0, ⟨0, 1⟩)
  | .inf s => (ofSigned w (if s then -(2 ^ (w - 1) : Nat) else (intMax et : Nat)), ⟨1, 0⟩)
  | .fin s m =>
    let q := roundAt unitE mode m x.sticky / 2 ^ unitE
    let i : Int := if s then -(q : Int) else q
    if i > (intMax et : Nat) then (intMax et, ⟨1, 0⟩)
    else if i < -((2 ^ (w - 1) : Nat) : Int) then (ofSigned w (-(2 ^ (w - 1) : Nat)), ⟨1, 0⟩)
    else (ofSigned w i, ⟨0, 0⟩)

/-- 02 Table 2.7, floating columns; `ovf` is the overflow mode. In mode 1 a type without infinities or NaNs, which R68 does not
allow it, saturates, and FP32 keeps its infinities (DESIGN CHOICE, log 101). -/
def cvtFloat (f : Fmt) (mode : RMode) (ovf : Bool) (x : Exact) : Nat × Cnt :=
  let beyond (s : Bool) : Nat × Cnt :=
    if ovf then
      match f.special with
      | .ieee => (f.infCode s, ⟨1, 0⟩)
      | .nanOnly => (f.nanCode s, ⟨1, 0⟩)
      | .noneAtAll => (f.signBit s + f.maxCode, ⟨1, 0⟩)
    else (f.signBit s + f.maxCode, ⟨1, 0⟩)
  match x.v with
  | .nan s => if f.special == .noneAtAll then (0, ⟨0, 1⟩) else (f.nanCode s, ⟨0, 0⟩)
  | .inf s => beyond s
  | .fin s m =>
    let r := roundAt (f.ulpPos m) mode m x.sticky
    if r > f.maxMag then (if mode == .zero then (f.signBit s + f.maxCode, ⟨0, 0⟩) else beyond s)
    else (f.signBit s + f.encodeMag r, ⟨0, 0⟩)

/-- Conversion of an exact value to an element type. -/
def cvtTo (et : Nat) (mode : RMode) (ovf : Bool) (x : Exact) : Nat × Cnt :=
  match fmtOf et with
  | some f => cvtFloat f mode ovf x
  | none => cvtInt et mode x

/-- 02 R66 code to a mode; the random bits serve mode 2. -/
def rmode (code r : Nat) : RMode :=
  match code with
  | 0 => .nearest
  | 1 => .zero
  | _ => .stoch r

/-- Exact value of an integer. -/
def ofIntV (i : Int) : FV := .fin (i < 0) (i.natAbs * 2 ^ unitE)

/-- Exact value of an element code. -/
def etValue (et code : Nat) : FV :=
  match fmtOf et with
  | some f => f.decode code
  | none => ofIntV (toSigned (etBits et) code)

/-- Exact quotient, with its sticky bit (04 R502, 07 R189). -/
def FV.quot (a b : FV) : Exact :=
  match a, b with
  | .nan s, _ => ⟨.nan s, false⟩
  | _, .nan _ => ⟨.nan false, false⟩
  | .inf s, .fin t n => ⟨.inf (if n = 0 then s else s != t), false⟩
  | .inf _, .inf _ => ⟨.nan false, false⟩
  | .fin s _, .inf t => ⟨.fin (s != t) 0, false⟩
  | .fin s m, .fin t n =>
    if n = 0 then (if m = 0 then ⟨.nan false, false⟩ else ⟨.inf s, false⟩)
    else ⟨.fin (s != t) (m * 2 ^ unitE / n), m * 2 ^ unitE % n != 0⟩

/-- 02 R51: the value of a scale byte. -/
def scaleValue (sfmt code : Nat) : FV :=
  if sfmt = 1 then (if code = 255 then .nan false else .fin false (2 ^ (unitE + code - 127)))
  else if sfmt = 2 then e4m3.decode code
  else .fin false (2 ^ unitE)

end Sys2Proof
end

