-- ==== Sys2Proof/Machine/State.lean ====
section
/-! DEFINITION. The state of the block as plain data: every register, queue, buffer, counter, mode and table
the manual gives the module, the queue of waiting commands, the reasons a step can stop, and the state
right after reset. A default beside a field is its reset value; INVENTORY.md names its rule, and log 6 the
values the manual does not give. -/
namespace Sys2Proof.Machine

/-! ### Reasons to stop -/

/-- Why a step stops. -/
inductive Fault where
  /-- Raised by ENVIRONMENTAL_READING on a reading beyond the absolute maximum ratings, where the manual makes
  no statement about behaviour (22 R485). Safe: the model stops where the hardware may do anything. -/
  | beyondAbsoluteMaximum
deriving DecidableEq, Repr

/-- Why a step has no meaning. -/
inductive Refusal where
  /-- Raised by an arm of exec whose command has no meaning yet. Safe: nothing is claimed of it. -/
  | notModelled (mnemonic : String)
deriving DecidableEq, Repr

/-! ### Small parts -/

/-- 00 Table 0.1. -/
inductive Variant where
  | kdx20 | kdx16 | kdx12
deriving DecidableEq, Repr

/-- A region of memory whose bytes the manual calls undefined, and the stamp of its free bytes (log 7, 8). -/
structure Junk where
  base : Nat
  size : Nat
  stamp : Nat
deriving DecidableEq, Repr

/-- Memory: cells at strictly rising addresses, none equal to what an unlisted address reads as. -/
structure Mem where
  cells : List Host.Cell := []
  junk : List Junk := []
deriving DecidableEq, Repr

/-- 512 lanes of 32 bits. -/
abbrev Lanes := List W32

/-- Register files s, v and q (05 Table 5.2, 07 R181): absent registers hold zero. -/
structure Bank where
  s : Tab W64 := []
  v : Tab Lanes := []
  q : Tab (List Bool) := []
deriving DecidableEq, Repr

/-- 20 Table 20.2: an event record. -/
structure EvRec where
  cause : Nat
  cls : Nat := 0
  sev : Nat := 0
  die : Nat := 7
  block : Nat := 63
  part : Option Nat := none
  ctx : Option Nat := none
  queue : Option Nat := none
  lcount : W64 := 0
  era : W16 := 0
  carried : Bool := false
  seq : Nat := 0
  detail : W64 := 0
deriving DecidableEq, Repr

/-- 16 R390: the CXL return codes the mailbox uses. -/
inductive Ret where
  | success | background | invalidInput | unsupported | busy | invalidSecurity
deriving DecidableEq, Repr

/-- What the block sends out, oldest first (16 R384; log 9). -/
inductive Msg where
  /-- a write to a host's memory through a port -/
  | hostWrite (port addr : Nat) (bytes : List Byte)
  /-- an MSI-X message -/
  | msix (port vec : Nat)
  /-- a CXL.mem response: data, poisoned, MetaValue Invalid -/
  | memResp (port : Nat) (data : List Byte) (poison metaInvalid : Bool)
  /-- a CXL.mem write dropped -/
  | memDrop (port : Nat)
  /-- RspIHitI -/
  | snoopResp (port : Nat)
  /-- RdOwnNoData for the lines of a frame (16 R382) -/
  | ownFrame (port frame : Nat)
  /-- a mailbox response: CXL return code, payload -/
  | mailbox (port : Nat) (code : Ret) (payload : List Byte)
  /-- a DOE response -/
  | doe (port : Nat) (bytes : List Byte)
  /-- a ring frame forwarded: header, payload and CRC -/
  | ringFrame (bytes : List Byte)
  /-- the status of a direct object write (17 Table 17.5) to a controller -/
  | status (ctrl code : Nat)
  /-- a completion record (13 R321) of a queue -/
  | completion (queue : Nat) (tag : W32) (status code : Nat) (value : W64)
  /-- bytes an item returns beside its VALUE (SKIM-QUERY's record) -/
  | itemData (queue : Nat) (bytes : List Byte)
  /-- the output rows of one member of a batch pass (03 R94) -/
  | batchOut (queue member : Nat) (rows : List (List W32))
deriving DecidableEq, Repr

/-! ### Clocks, start-up, environment -/

/-- 01 R33 to R35. -/
structure Clock where
  refc : W64 := 0
  localc : Tab W64 := []
  era : Tab W16 := []
  flashEra : Tab W16 := []
  trimmed : Tab Bool := []
  /-- fractions of a count, in millionths: of each die's local oscillator, and under 6 of the module controller's clock -/
  frac : Tab Nat := []
  /-- the module controller's clock (Table 1.9) -/
  ctlc : W32 := 0
deriving DecidableEq, Repr

/-- How the module is powered (17 R400, 14 Table 14.2, 20 R465, R468, 22 R488). -/
inductive Power where
  /-- no 54 V input -/
  | off
  /-- powered and in reset: start-up has not begun or is cut short -/
  | reset
  /-- start-up has passed the ring phase, or the module is Ready or held -/
  | running
  /-- held in reset until the input is cycled: thermal trip, third watchdog expiry, fatal failure before the ring -/
  | latched
deriving DecidableEq, Repr

/-- 21, 18 Table 18.8. -/
structure Start where
  power : Power := .reset
  phase : Nat := 0
  fail : Nat := 0
  durations : List Nat := []
  held : Bool := false
  bringUp : Nat := 0
  readyAt : W64 := 0
  powerUpAt : W64 := 0
  resetAt : Option W64 := none
  prefWindow : Bool := false
  /-- the preferred owner has claimed within its window (17 R421) -/
  prefClaimed : Bool := false
  carried : Option EvRec := none
  tripped : Bool := false
  wdExpiries : Nat := 0
  wdTimes : List W64 := []
  wdRestarting : Bool := false
  /-- measurements of stages 3 and 4 kept in the island (21 R477) -/
  stageIsland : List (List Byte) := []
deriving DecidableEq, Repr

/-- 18 Table 18.7, 22 R486. -/
structure Env where
  mv10 : Nat := 0
  ma10 : Nat := 0
  inlet : Int := 0
  outlet : Int := 0
  flow : Nat := 0
  outAt : Option W64 := none
  cond : Byte := 0
deriving DecidableEq, Repr

/-! ### Dictionary, ring, ownership, firmware -/

/-- A dictionary value: a number of its object's width, a list of U64, or bytes. -/
inductive Val where
  | num (n : Nat)
  | arr (xs : List Nat)
  | bytes (bs : List Byte)
deriving DecidableEq, Repr

/-- An activation that is applying (17 Table 17.13). -/
structure Activation where
  epoch : W64
  set : Tab Val
  /-- effective values while the digest does not yet cover the set (Table 17.13 order 5) -/
  before : Tab Val
  /-- governor objects that wait for the next gate period (order 4) -/
  late : Tab Val := []
deriving DecidableEq, Repr

/-- A segmented write in progress (17 R409). -/
structure Segment where
  key : Nat
  size : Nat
  got : List Byte
deriving DecidableEq, Repr

/-- Configuration objects: keys are index * 256 + sub. -/
structure DictSt where
  eff : Tab Val := []
  staged : Tab Val := []
  seg : Tab Segment := []
  epoch : W64 := 0
  act : Option Activation := none
  refusedCount : Nat := 0
deriving DecidableEq, Repr

/-- 17 R400 to R407, R410. -/
structure RingSt where
  addr : Nat := 0
  inserted : Bool := false
  dup : Bool := false
  crcErr : Nat := 0
  cycle : W64 := 0
  cycleAt : W64 := 0
  noCycle : Bool := true
  dropped : Nat := 0
  queue : List EvRec := []
  batch : Nat := 0
  inBatch : Nat := 0
  lastWrite : Option (W16 × List Byte × Nat) := none
deriving DecidableEq, Repr

/-- 17 R417: a pending claim. -/
structure Claim where
  prio : Nat
  lease : Nat
  at' : W64
deriving DecidableEq, Repr

/-- 17 R417 to R421. -/
structure Owner where
  owner : Option Nat := none
  leaseAt : W64 := 0
  leaseLen : Nat := 0
  prio : Nat := 0
  claims : Tab Claim := []
deriving DecidableEq, Repr

/-- 17 R413 to R416: one controller's command state. -/
structure Ctl where
  l : W64 := 0
  h : W64 := 0
  check : List Byte := []
  lastStatus : Nat := 0
  /-- OD 0x2025 -/
  result : W64 := 0
  notExec : Nat := 0
  bad : Nat := 0
  lockedUntil : Option W64 := none
  key : Option (List Byte) := none
deriving DecidableEq, Repr

/-- Where an authenticated command came from (17 R397). -/
structure QueuedCmd where
  path : Nat
  broadcast : Bool
  /-- sent inside the port's DOE session, where its response goes too (19 R456) -/
  sess : Bool := false
  cmd : AuthCmd
deriving DecidableEq, Repr

structure Security where
  queue : List QueuedCmd := []
  ctl : Tab Ctl := []
deriving DecidableEq, Repr

/-- 19 R449: state mark of a bank. -/
inductive BankMark where
  | active | trial | invalid | older
deriving DecidableEq, Repr

/-- `factory`: written at manufacture, a package that passes and whose bytes the model does not hold (log 5). -/
structure FlashBank where
  mark : BankMark := .invalid
  factory : Bool := false
  pkg : List Byte := []
deriving DecidableEq, Repr

/-- 18 record 0x0103. -/
structure StageMeas where
  stage : Nat
  bank : Nat
  version : Nat
  measure : List Byte
deriving DecidableEq, Repr

/-- 19, 18 Table 18.4. -/
structure Firmware where
  fwBanks : Tab FlashBank := [(0, { mark := .active, factory := true })]
  cfgBanks : Tab FlashBank := [(0, { mark := .active, factory := true })]
  running : Nat := 0
  inForce : Nat := 0
  version : Nat := 0
  /-- FLOOR of the firmware set that runs (R448) -/
  newFloor : Nat := 0
  floorFw : Nat := 0
  floorCfg : Nat := 0
  floorOwner : Nat := 0
  floorCmd : Nat := 0
  stages : List StageMeas := []
  bundleMeas : List Byte := []
  updAddr : Nat := 0
  updLen : Nat := 0
  updAction : Nat := 0
  updState : Nat := 0
  updFail : Nat := 0
  /-- the image and where it was read from, while an update runs (R435) -/
  updImage : List Byte := []
  updFrom : Nat := 0
  ownerKeys : Tab (List Byte) := []
  nonce : List Byte := List.replicate 32 0
  report : List Byte := []
  serial : List Byte := []
  hwLevel : Nat := 0
  /-- OD 0xF010, 0xF030, 0xF040 -/
  stackReq : W64 := 0
  stackState : Nat := 0
  stackResult : List Byte := []
  sweepReq : W64 := 0
  sweepState : Nat := 0
  sweepPoints : List (Nat × Nat × Nat) := []
  buildState : Nat := 0
  buildDigest : List Byte := List.replicate 32 0
  buildPkg : List Byte := []
  trainArea : Tab (List Byte) := []
  /-- the HBM training cache of the bundle in force (21 R471) -/
  trainCache : Tab (List Byte) := []
deriving DecidableEq, Repr

/-! ### Governor and dies -/

/-- 14: module-wide governor state. Powers are in W, energies in uJ. -/
structure Gov where
  lastGate : W64 := 0
  restWin : List Nat := []
  moduleWin : List Nat := []
  ladder : Nat := 0
  idleSince : Option W64 := none
  scrubFrom : Option Nat := none
  /-- the ladder request has reached a module in L4 (R354, 21 R477) -/
  l4Wake : Bool := false
  /-- energy of each partition per gate period and the count the period ended at, newest first (R350) -/
  shareWin : List (W64 × Tab Nat) := []
  energy : Tab Nat := []
  /-- R348: per queue, duration and lowest pace of the last completed item -/
  hist : Tab (Nat × Nat) := []
deriving DecidableEq, Repr

/-- 14 R341: an energy debit, of a queued pass or of a launch's lead estimate. -/
structure Debit where
  /-- 0 a pass, 1 a launch lead -/
  kind : Nat
  owner : Nat
  cls : Nat
  energy : Nat
deriving DecidableEq, Repr

/-- 13 R325 to R327, 14, 20: one die (0 to 3 compute, 4 and 5 I/O). -/
structure Die where
  vtarget : Nat := 550
  /-- mean core voltage last reported, mV -/
  volt : Nat := 0
  /-- the core rail at this moment, in units of 10 uV (01 R31, R32), and its sum over the counts of the gate period -/
  rail : Nat := 0
  railSum : Nat := 0
  railN : Nat := 0
  pace : Nat := 0
  /-- power-gated, or left the gate in the gate window that runs (01 R38) -/
  gated : Bool := false
  /-- contexts and classes that worked here in the gate period that runs (13 R327, 14 R351) -/
  worked : List (Nat × Bool) := []
  hot : Int := 0
  energyWin : List Nat := []
  budget : Rat := 0
  credit : Rat := 0
  debits : List Debit := []
  /-- thermal factor in 1/64 -/
  f : Nat := 64
  missed : Nat := 0
  sensorFault : Bool := false
  hold : Bool := false
  short : Bool := false
  failed : Bool := false
  present : Bool := false
  disabled : Bool := false
  lcrun : Nat := 7
  /-- 13 R314: the launch chosen whose context is not resident yet, and whether a parting point is requested at its dispatch -/
  chosen : Option (Nat × Bool) := none
  tmuOut : List Nat := []
  spindleOut : Bool := false
  blocksOut : List Nat := []
  mask : W16 := 0xFF00#16
  masking : Bool := false
  /-- working estimates: key program * 4096 + class (R139) -/
  west : Tab (Nat × Nat) := []
  firstDone : List Nat := []
  corrected : Nat := 0
  corrMark : Nat := 0
  /-- the second that `corrMark` opened, and totals over 1,000 of seconds that ended and were not yet reported -/
  markSec : Nat := 0
  corrDue : List Nat := []
  /-- the second of the reference counter up to which corrections were reported (20 R462) -/
  corrSec : Nat := 0
  detected : Nat := 0
  illegal : Nat := 0
  stalls : Nat := 0
  witness : Nat := 0
  sequencer : Nat := 0
  dissents : Nat := 0
  aborts : Nat := 0
  /-- words with a detected error not yet rewritten: block, word index, codeword difference -/
  badWords : List (Nat × Nat × BitVec 39) := []
  /-- block and word index of the scrubber's next read (12 R308) -/
  scrub : Nat × Nat := (0, 0)
  busyMu : Nat := 0
  busyVec : Nat := 0
  busySpin : Nat := 0
  /-- the Spindle job, by queue and item, one of whose rows the engine runs, and when the row began (10 R271) -/
  spinCur : Option (Nat × Nat) := none
  spinFrom : W64 := 0
deriving DecidableEq, Repr

/-! ### Memory -/

/-- 12 R296: one entry of a pseudo-channel's write queue. -/
structure WqEntry where
  addr : Nat
  len : Nat
  at' : W64
deriving DecidableEq, Repr

/-- 12: one stack. -/
structure Stack where
  state : Nat := 0
  corrected : Nat := 0
  uncorrectable : Nat := 0
  parity : Nat := 0
  temp : Int := 0
  doubled : Bool := false
  walk : Nat := 0
  bankNext : Tab Nat := []
  /-- stack offsets / 32 of uncorrectable halves (R499) -/
  bad : List Nat := []
  repaired : List (Nat × Nat × Nat × Bool) := []
  acting : Bool := false
  /-- the model's own: transfers counted, for the free values of `Config.hbmTrouble` (log 89) -/
  transfers : Nat := 0
deriving DecidableEq, Repr

/-- 12 R300 to R302: one cache line. `line` is the address / 256. -/
structure CLine where
  slice : Nat
  set : Nat
  way : Nat
  line : Nat
  dirty : Bool
  poison : Byte
  /-- of a dirty line: what its stack holds, 256 bytes from 0 on (12 R302, R308) -/
  older : Mem := {}
deriving DecidableEq, Repr

/-- The cache of one die: its lines, and the pseudo-LRU bits of slice * 4096 + set (15 bits). -/
structure Cache where
  lines : List CLine := []
  plru : Tab (BitVec 15) := []
deriving DecidableEq, Repr

/-! ### Matrix units -/

/-- 07 R180: what a stage latches at its MDRAIN or MPASS. -/
structure StageLatch where
  sImp : List W64 := []
  vImp : List Lanes := []
  orgm : W64 := 0
  orgn : W64 := 0
  dst : Nat := 0
  recH : Nat := 0
  gs : W32 := 0
  seed : BitVec 96 := 0
  params : Tab W64 := []
deriving DecidableEq, Repr

/-- 06 Table 6.13: an MDRAIN in the drain queue. `tok` is its retirement token and `upset` the difference of the two
sequencers' tokens, compared when it retires (05 R128, 06 Table 6.19). -/
structure DrainEntry where
  launch : Nat
  ino : Nat := 0
  iaddr : Nat
  tok : W64 := 0
  upset : W64 := 0
  ax : Bool
  slot : Nat
  fent : Nat
  sd : Nat
  latch : StageLatch := {}
  claimed : Bool := false
deriving DecidableEq, Repr

/-- 06 Table 6.13: an MPRELOAD in the preload queue. -/
structure PreEntry where
  launch : Nat
  ax : Bool
  slot : Nat
  rel : Bool
  claimed : Bool := false
deriving DecidableEq, Repr

/-- 09 R240, R245: what a skimmed pass latches. -/
structure SkimLatch where
  ctx : Nat
  recH : Nat
  col : Nat
  row : Nat
  wrx : Bool
  true' : Bool
  tcode : Nat
  par : Bool
  /-- VALID at the pass's issue -/
  valid : Bool := false
deriving DecidableEq, Repr

/-- 06 Table 6.12: a pass in the pass queue or the array, with its retirement token and the tokens' difference. -/
structure PassEntry where
  launch : Nat
  ino : Nat := 0
  iaddr : Nat
  tok : W64 := 0
  upset : W64 := 0
  tab : BitVec 1024
  params : Tab W64
  slotBase : Nat
  prog : Nat
  cls : Nat
  cont : Bool
  pre : Bool
  first : Bool
  skim : Option SkimLatch
  relA : Bool
  relB : Bool
  relSA : Bool
  relSB : Bool
  rent : Nat
  latch : StageLatch
  drain : Option DrainEntry := none
  preload : Option PreEntry := none
  roughed : Bool := false
deriving DecidableEq, Repr

/-- 09 R243: a logical K position whose tile block a pass cut in two: the codes of its new A elements, of their
references and of its B elements, which wait in the feeders for the rest of the block (G = 1). -/
structure HeldK where
  k : Nat
  eta : Nat
  etb : Nat
  a : List Nat
  ref : List Nat
  b : List Nat
deriving DecidableEq, Repr

/-- 02 R56, R61, 03 R95: the accumulators of an open run, in logical order M x N, and its witnesses. -/
structure Run where
  fold : Nat
  int : Bool
  vals : List W32
  iovf : Bool
  skipped : Bool
  /-- witness row (512), witness column (128), corner; each with its magnitude companion -/
  wr : List W32
  wra : List W32
  wc : List W32
  wca : List W32
  wk : W32
  wka : W32
  nb : Nat
  preloaded : Bool
  /-- skip accumulators of a truing pass (09 R247) -/
  skip : Option (List W32)
  steps : Nat
  /-- a truing run (09 R247) -/
  truing : Bool := false
  /-- positions of a tile block whose rest the next pass brings (09 R243) -/
  held : List HeldK := []
  /-- a pass of the run has WRX 1 (09 R248) -/
  wrx : Bool := false
  /-- the input reference such a run writes: row, logical K, element code; row, block, scale byte -/
  xnew : List (Nat × Nat × Nat) := []
  xscale : List (Nat × Nat × Nat) := []
  /-- A slots whose release waits for that write -/
  relLater : List Nat := []
deriving DecidableEq, Repr

/-- A captured tile: what the shadow registers and the drain hold. -/
structure Tile where
  run : Run
  pass : PassEntry
  drain : DrainEntry
  inRow : List Bool
  inCol : List Bool
  status : W32 := 0
  /-- its push dropped a lane or made a count, for the completion value after its closing pass -/
  clip : Bool := false
deriving DecidableEq, Repr

/-- 07 R181: the stage bank of a unit's finishing and closing code, or of its roughing code, and where the run stands:
`done` strips (or parts of a closing pass) are through, and of the one that is loaded `left` instructions are still to
run. `clip` says that a lane was dropped or a count made, `parts` are the partials of output rows with their two words
(R193). -/
structure StageRun where
  on : Bool := false
  bank : Bank := {}
  done : Nat := 0
  left : Option Nat := none
  clip : Bool := false
  parts : List (Nat × W32 × W32) := []
deriving DecidableEq, Repr

/-- 03, 05, 06, 07: one matrix unit with its feed store. -/
structure MUnit where
  feed : Mem := {}
  toks : Tab Bool := []
  resv : List Nat := []
  passQ : List PassEntry := []
  drainQ : List DrainEntry := []
  preQ : List PreEntry := []
  /-- passes issued to the array whose boundary has not come, oldest first -/
  arr : List PassEntry := []
  run : Option Run := none
  preReg : Option (List W32) := none
  shadow : Option Tile := none
  fin : List Tile := []
  closing : Option Tile := none
  /-- the tensor move unit that serves the closing pass (04 R126) -/
  closeTmu : Option Nat := none
  /-- the run of the unit's finishing or closing code, and the one of its roughing code (07 R183) -/
  stage : StageRun := {}
  rough : StageRun := {}
  repair : W32 := 0
  proposed : W32 := 0
  state : Nat := 0
  located : List (Nat × Nat) := []
  /-- the last pass entered: continuing, its end and chunk (run rules of Table 4.7) -/
  openRun : Option (Nat × Nat × Nat × Bool × Nat) := none
deriving DecidableEq, Repr

/-- 05: one sequencer pair. -/
structure Pair where
  bank : Bank := {}
  l : Tab (BitVec 1024) := []
  /-- L registers loaded by LTLD with SRC 1 -/
  lRun : List Nat := []
  pend : List Nat := []
  pc : Nat := 0
  launch : Option Nat := none
  token : W64 := 0
  stopped : Bool := false
  seqFaults : Nat := 0
  /-- the last instruction retired was a PART, so a WAITFOR behind it stands at a parting point (R143) -/
  parted : Bool := false
  /-- the synchronisation object and value of a WAITFOR that has issued and waits, and whether the value was reached
  before the object went (06 R172) -/
  wait : Option (Nat × W64 × Bool) := none
deriving DecidableEq, Repr

/-- 04 R126, 06 Tables 6.14, 6.15: a move operation issued and not completed. -/
inductive MoveKind where
  | box (dir : Dir) (src dst : Nat) (os od ex : List Nat) (slot : Nat) (rel : Bool)
  | gather (src dst idx : Nat) (axis : Nat)
  | scatter (src dst idx : Nat) (axis : Nat) (op : ScatterOp)
deriving DecidableEq, Repr

structure Move where
  unit : Nat
  tmu : Nat
  launch : Nat
  ino : Nat := 0
  iaddr : Nat
  sc : Nat
  kind : MoveKind
  seed : BitVec 96
  /-- its retirement token, and the difference of the two sequencers' tokens -/
  tok : W64 := 0
  upset : W64 := 0
  /-- the scale bytes of a block-scaled destination at the move's issue, by logical linear index (04 R502) -/
  scales : Tab Nat := []
deriving DecidableEq, Repr

/-! ### Contexts, queues, launches -/

/-- A descriptor of a context's table (04). -/
structure Desc where
  image : BitVec 1024
  status : W64 := 0
  dead : Bool := false
deriving DecidableEq, Repr

/-- An allocation: its leaf run in virtual order, as physical runs (13 R315). -/
structure Alloc where
  va : Nat
  size : Nat
  page : Nat
  kind : AllocKind
  wr : Bool
  runs : List (Nat × Nat)
  /-- mapped read-only by an open key-value record (08 R220) -/
  locked : Bool := false
deriving DecidableEq, Repr

/-- A loaded program (05 R149 to R151). -/
structure Program where
  image : Image
  /-- first physical slot granted (R150) -/
  base : Nat
  /-- load base in the instruction stores (06 R153) -/
  ibase : Nat
  lanes : Bool
deriving DecidableEq, Repr

/-- 09 Table 9.1. -/
structure SkimRec where
  image : BitVec 256
  valid : Bool := false
  true' : Bool := true
  par : Bool := false
  tcode : Nat := 0
  skipb : Nat := 0
  strmb : Nat := 0
  bad : Bool := false
  tiles : Nat := 0
  dead : Bool := false
deriving DecidableEq, Repr

/-- 11 R282: one lane's jump state. -/
structure Jump where
  a : W64
  b : W64
  h : Bool
  buf : W32
deriving DecidableEq, Repr

/-- A matrix unit's slots in a saved footprint: bytes and tokens (13 R329). -/
structure SavedUnit where
  feed : Mem
  toks : Tab Bool
deriving DecidableEq, Repr

/-- A saved footprint on one die: units and scratch slices. -/
structure SavedFoot where
  units : Tab SavedUnit
  slices : Tab Mem
deriving DecidableEq, Repr

/-- 13 R335: what a disable covers. -/
inductive Scope where
  | queue (q : Nat)
  | ctx (c : Nat)
  | die (d : Nat)
  | codec (e : Nat)
deriving DecidableEq, Repr

/-- 13: a context. -/
structure Ctx where
  part : Nat
  fsr : List Nat
  slices : List W16
  slotBase : List Nat
  saveAreas : List (List (Nat × Nat))
  resident : List Nat := []
  seeds : Tab (BitVec 96) := []
  /-- seed slot, stream and mask of the last RNG-JUMP (11 R286) -/
  jumpOp : Option (Nat × W32 × W64) := none
  laneFlag : Bool := false
  /-- jump state per unit, once a VRANDJ or an RNG-JUMP has touched it -/
  jump : Tab (List Jump) := []
  /-- die * 64 + fence number -/
  fences : Tab W64 := []
  descs : Tab Desc := []
  allocs : Tab Alloc := []
  progs : Tab Program := []
  skims : Tab SkimRec := []
  /-- footprints saved by evictions, per die -/
  savedFoot : Tab SavedFoot := []
  /-- physical bases of its page tables: level * 2^48 + the address bits above what the table covers (13 R315) -/
  tables : Tab Nat := []
  /-- LC pair ns, LC spindle ns, LC energy uJ, then the same for best effort (R327) -/
  acct : List W64 := [0, 0, 0, 0, 0, 0]
  notRestorable : Bool := false
  disabled : Bool := false
  /-- disables that wait for a save in progress (R337, 16 R395) -/
  afterSave : List Scope := []
deriving DecidableEq, Repr

/-- 13 R320: where an item of a queue stands. -/
inductive ItemSt where
  | waiting
  | started
deriving DecidableEq, Repr

structure QItem where
  id : Nat
  hdr : Header
  body : ItemBody
  st : ItemSt := .waiting
  startedAt : W64 := 0
  missed : Bool := false
  demoted : Bool := false
  /-- the attributes its queue had when it started (13 R317) -/
  attrs : Option QAttrs := none
  /-- the ending forced on it by a drop, a disable or an abort: status, code, value -/
  forced : Option (Nat × Nat × W64) := none
  /-- the REPLAY item whose list entry this is, and its entry index (05 R145) -/
  parent : Option (Nat × Nat) := none
  lowPace : Nat := 0
deriving DecidableEq, Repr

/-- A member waiting at a batching queue (03 R91): number, rows, what it shares, its rows of A as the feed store holds them from
byte 0 on, gate pulses since it arrived. -/
structure Member where
  id : Nat
  rows : Nat
  op : BatchOp := { tab := 0 }
  a : List Byte := []
  pulses : Nat
deriving DecidableEq, Repr

/-- 13 R317, 16 R385 to R387. -/
structure Queue where
  ctx : Option Nat
  part : Nat
  port : Nat
  attrs : QAttrs := {}
  tr : Transport := {}
  items : List QItem := []
  head : Nat := 0
  tail : Nat := 0
  consumed : Nat := 0
  written : Nat := 0
  halted : Bool := false
  disabled : Bool := false
  recording : Option Nat := none
  unsig : Nat := 0
  unsigAt : W64 := 0
  /-- records that wait for room in the completion ring (16 R387): TAG, STATUS, CODE, VALUE -/
  waitRecs : List (W32 × Nat × Nat × W64) := []
  members : List Member := []
  batches : List (List Member) := []
deriving DecidableEq, Repr

/-- 05 R145: a command list and its parameter image. -/
structure CmdList where
  queue : Nat
  entries : List (Header × ItemBody)
  image : Tab (Tab W64) := []
  running : Option Nat := none
  closed : Bool := false
deriving DecidableEq, Repr

/-- 13 R323. -/
structure Sem where
  part : Nat
  value : W64
  failed : W64
deriving DecidableEq, Repr

/-- Why a launch is asked to stop at its next parting point. -/
inductive ParkWhy where
  | preempt | evict | save | urgent | mask | disable | drop
deriving DecidableEq, Repr

inductive LaunchSt where
  /-- created, never dispatched -/
  | fresh
  | running (u : Nat)
  /-- handed over on a die: its s and L registers and position -/
  | parked (die : Nat) (s : Tab W64) (l : Tab (BitVec 1024)) (lRun : List Nat) (pc : Nat)
  /-- aborted or stopped: operations already issued still complete (06 R175) -/
  | ending
  | done
deriving DecidableEq, Repr

/-- 13 R319: a launch. -/
structure Launch where
  queue : Nat
  item : Nat
  ctx : Nat
  prog : Nat
  idx : Nat
  params : Tab W64
  dies : List Nat
  pin : Option Nat
  st : LaunchSt := .fresh
  lc : Bool
  level : Nat
  urgent : Bool := false
  startedAt : W64
  age : Nat
  why : List ParkWhy := []
  dispatchNo : Nat := 0
  dispatchedAt : W64 := 0
  /-- instructions issued so far: the program order of R175 -/
  icount : Nat := 0
  /-- earliest faulting instruction: cause, IADDR, its place in program order; and how many more -/
  cause : Option (Nat × Nat × Nat) := none
  more : Nat := 0
  lseq : Nat := 0
  unit : Nat := 0
  /-- the waiting item whose work the pending pre-emption serves (13 R326): queue, item -/
  reqBy : Option (Nat × Nat) := none
deriving DecidableEq, Repr

/-- 13 Table 13.11: a disable in progress. -/
structure Disable where
  scope : Scope
  fence : Option (Nat × W64)
  at' : W64
  /-- the item that ends when the disable does (Q-DISABLE, CTX-DISABLE, CTX-DESTROY): queue, item -/
  item : Option (Nat × Nat) := none
  /-- its bound has passed and what still ran was aborted (order 7) -/
  timedOut : Bool := false
deriving DecidableEq, Repr

/-! ### Key-value store, skim, Spindle, codec, ports -/

/-- 08 Table 8.7. -/
structure KvEntry where
  shared : Bool
  sz : Nat
  base : Nat
  start : Nat
  node : Nat := 0
deriving DecidableEq, Repr

/-- 08 Table 8.6. -/
structure KvRec where
  ctx : Nat
  part : Nat
  alloc : Nat
  off : Nat
  limit : Nat
  ring : Nat
  model : W64
  domain : W32
  layers : Nat
  heads : Nat
  hdim : Nat
  et : Nat
  len : Nat := 0
  entries : List KvEntry := []
  sharedBlocks : Nat := 0
  last : Nat := 0x7FFFF
  closing : Bool := false
  /-- launches the release waits for, and the item that ends with it (R227) -/
  waits : List Nat := []
  item : Nat × Nat := (0, 0)
deriving DecidableEq, Repr

/-- 08 Table 8.10. -/
structure KvNode where
  key : W64
  parent : Nat := 0x7FFFF
  next : Nat := 0x7FFFF
  ctx : Nat
  refs : Nat := 0
  age : W32 := 0
  sz : Nat
  blk : Nat
  base : Nat
  toks : List W32
  domain : W32
  part : Nat
  model : W64
deriving DecidableEq, Repr

structure KvSt where
  recs : Tab KvRec := []
  nodes : Tab KvNode := []
  buckets : Tab Nat := []
  age : W32 := 0
  /-- pages with nodes inserted and not yet released: base, size field, publishing context, partition (R234) -/
  pages : List (Nat × Nat × Nat × Nat) := []
deriving DecidableEq, Repr

/-- 09 R237: a sample slot. -/
structure Sample where
  queue : Nat
  ctx : Nat
  part : Nat
  step : W32 := 0
  attrs : QAttrs
  codes : Tab Nat := []
  meas : Tab W32 := []
  base : List Byte := []
  adj : List Byte := []
  /-- per die: gate periods of the step, and those of them energy-short -/
  gates : Tab (Nat × Nat) := []
  ranDies : List Nat := []
  truing : Bool := true
deriving DecidableEq, Repr

/-- 13 R331, Table 13.10: a saved context image (log 25). -/
structure Saved where
  digest : List Byte
  ctx : Ctx
  launches : List Launch
  slots : List (Nat × Sample)
  clean : Bool
  unitmap : W64
deriving DecidableEq, Repr

/-- 10 R269 to R271: a Spindle job. -/
structure SpinJob where
  part : Nat
  queue : Nat
  item : Nat
  ctx : Nat
  job : BitVec 512
  seed : BitVec 96
  group : Nat := 0
  strip : Nat := 0
  row : Nat := 0
  lc : Bool
  level : Nat
  startedAt : W64
  /-- measured energy of the job's previous row (14 R342), 0 before the first -/
  lastEnergy : Nat := 0
  stop : Bool := false
deriving DecidableEq, Repr

/-- 10 R265: the buffers of a Spindle engine and the job, group and strip they hold: the normalisation table's elements, the
weights of each lane in tap order, and the rows of input it has read, each channel by channel. -/
structure SpinBuf where
  queue : Nat
  item : Nat
  group : Nat
  strip : Nat
  nrm : List Nat := []
  wgt : Tab (List Nat) := []
  band : Tab (List Nat) := []
deriving DecidableEq, Repr

/-- 15 R363, R364: a pool buffer. -/
structure PoolBuf where
  base : Nat
  pitch : Nat
  isRef : Bool := false
  out : Bool := false
  /-- concealed, or decoded from a concealed reference (Table 15.6) -/
  taint : Bool := false
deriving DecidableEq, Repr

/-- 15 Table 15.4: an open stream. -/
structure Stream where
  ctx : Nat
  queue : Nat
  srec : BitVec 512
  pool : List PoolBuf
  /-- items waiting, each with the reference count at which it started -/
  ready : List (Nat × Nat × W64) := []
  /-- since when its first frame has also the buffer it needs (R367) -/
  readyAt : Option W64 := none
  frameNo : Nat := 0
  fullness : Rat := 0
  qp : Nat := 0
  /-- the frames coded so far: all that a bitstream may depend on (R361) -/
  history : List Nat := []
  needKey : Bool := true
  /-- reference buffers of an encode, oldest first -/
  refOrder : List Nat := []
  missing : Bool := false
  sinceKey : Nat := 0
deriving DecidableEq, Repr

/-- A frame in progress on an engine. -/
structure FrameRun where
  stream : Nat
  queue : Nat
  item : Nat
  startAt : W64
  buf : Option Nat
  bounded : Option Nat := none
  stop : Bool := false
deriving DecidableEq, Repr

/-- 15: one codec engine. -/
structure Engine where
  streams : Tab Stream := []
  cur : Option FrameRun := none
  last : Nat := 63
  liveRun : Nat := 0
  frames : Nat := 0
  damaged : Nat := 0
  removed : Bool := false
  disabled : Bool := false
  busy : Nat := 0
deriving DecidableEq, Repr

/-- 16 R380: one HDM decoder. -/
structure Hdm where
  base : Nat := 0
  size : Nat := 0
  skip : Nat := 0
  committed : Bool := false
  error : Bool := false
deriving DecidableEq, Repr

/-- 19 R455, R456: a DOE session. -/
structure Session where
  ctrl : Nat
  secret : List Byte
  t : List Byte
  finished : Bool := false
  rxSeq : W64 := 0
  txSeq : W64 := 0
deriving DecidableEq, Repr

/-- 16 R389: an event ring. -/
structure EvRing where
  base : Nat
  log2n : Nat
  ptr : Nat
  vec : Nat
  written : Nat := 0
  consumed : Nat := 0
  drops : Nat := 0
deriving DecidableEq, Repr

/-- 16 R382: a change of bias under way: the next frame, the frames left, and their new bias. -/
structure BiasJob where
  next : Nat
  left : Nat
  toHost : Bool
deriving DecidableEq, Repr

/-- 16 R382: a BIAS-SET in progress is whole within its command; the state of one port. -/
structure Port where
  state : Nat := 0
  width : Nat := 0
  rate : Nat := 0
  losses : Nat := 0
  ignored : Nat := 0
  hdm0 : Hdm := {}
  hdm1 : Hdm := {}
  quiesced : Bool := false
  quiescing : Bool := false
  ideIo : Bool := false
  ideMem : Bool := false
  lossSince3 : Bool := false
  recovering : Option W64 := none
  /-- held down by a failed self test (21 Table 21.2) -/
  failed : Bool := false
  evring : Option EvRing := none
  admin : Option Nat := none
  session : Option Session := none
  biasJob : Option BiasJob := none
deriving DecidableEq, Repr

/-- 20 R439: the fault log. -/
structure FLog where
  entries : List EvRec := []
  seq : Nat := 0
  overwritten : Nat := 0
deriving DecidableEq, Repr

/-! ### The state -/

/-- The whole block. Tables are keyed by die, unit, stack, port, handle or number. -/
structure State where
  pending : List Instr := []
  variant : Variant := .kdx20
  /-- the model's own counter of free values (log 8) -/
  fresh : Nat := 0
  clock : Clock := {}
  start : Start := {}
  env : Env := {}
  dict : DictSt := {}
  ring : RingSt := {}
  own : Owner := {}
  sec : Security := {}
  fw : Firmware := {}
  gov : Gov := {}
  dies : Tab Die := []
  mem : Mem := {}
  hbm : Tab Stack := []
  /-- write queues, keyed by stack * 32 + pseudo-channel -/
  wq : Tab (List WqEntry) := []
  caches : Tab Cache := []
  mus : Tab MUnit := []
  pairs : Tab Pair := []
  moves : Tab Move := []
  ctxs : Tab Ctx := []
  queues : Tab Queue := []
  lists : Tab CmdList := []
  sems : Tab Sem := []
  launches : Tab Launch := []
  nextLaunch : Nat := 0
  nextItem : Nat := 0
  nextMove : Nat := 0
  nextDispatch : Nat := 0
  disables : Tab Disable := []
  nextDisable : Nat := 0
  saved : List Saved := []
  /-- partitions in use, and frames in host bias: partition -> frame numbers (16 R381) -/
  bias : Tab (List Nat) := []
  kv : KvSt := {}
  samples : Tab Sample := []
  spin : Tab (List SpinJob) := []
  spinBuf : Tab SpinBuf := []
  codecs : Tab Engine := []
  ports : Tab Port := []
  log : FLog := {}
  out : List Msg := []
deriving DecidableEq, Repr

/-- The module in reset with its input applied: nothing has started (21 R470). Every field is at the value
beside it; log 5 and 6 name those the manual does not give. -/
def State.reset : State := {}

/-- What every meaning answers. -/
abbrev Out := Host.Outcome State Fault Refusal

end Sys2Proof.Machine
end

