-- ==== Sys2Proof/Machine/LoopTable.lean ====
section
/-! DEFINITION. Loop tables (04 R115 to R120): the fields of a 128-byte table, the checks of Table 4.7 that look at
the table alone, its address ranges, steps and real positions. -/
namespace Sys2Proof.Machine

/-- 04 Table 4.6. Strides are signed. -/
structure Level where
  raw : Nat
  role : Nat
  pos : Nat
  bnd : Nat
  extv : Bool
  extp : Nat
  kmark : Bool
  sa : Int
  sb : Int
  ssa : Int
  ssb : Int
  rsv : Nat
deriving DecidableEq, Repr

/-- 04 Table 4.5. -/
structure LTab where
  chunk : Nat
  fold : Nat
  axb : Bool
  axa : Bool
  etb : Nat
  eta : Nat
  sfb : Nat
  sfa : Nat
  gs : Bool
  pita : Nat
  pitb : Nat
  basea : Nat
  baseb : Nat
  basesa : Nat
  basesb : Nat
  korg : Nat
  rsv : Nat
  levels : List Level
deriving DecidableEq, Repr

def levelOf (n : Nat) : Level :=
  { raw := n, role := bits n 7 6, pos := bits n 5 3, bnd := bits n 31 16 + 1, extv := bit n 9,
    extp := bits n 15 10, kmark := bit n 8, sa := toSigned 24 (bits n 55 32), sb := toSigned 24 (bits n 79 56),
    ssa := toSigned 24 (bits n 103 80), ssb := toSigned 24 (bits n 127 104), rsv := bits n 2 0 }

/-- The fields of a table's 1,024 bits, bit 0 the first byte's least significant. -/
def ltabOf (t : BitVec 1024) : LTab :=
  let n := t.toNat
  { chunk := bits n 63 40, fold := bits n 31 30, axb := bit n 29, axa := bit n 28, etb := bits n 27 24,
    eta := bits n 23 20, sfb := bits n 19 16, sfa := bits n 15 12, gs := bit n 11,
    pita := bits n 127 112, pitb := bits n 111 96, basea := bits n 86 64,
    baseb := bits n 150 128, basesa := bits n 182 160, basesb := bits n 246 224, korg := bits n 223 192,
    rsv := bits n 39 32 + bits n 10 0 + bits n 95 87 + bits n 191 183 + bits n 159 151 + bits n 255 247,
    levels := (List.range 6).map (fun l => levelOf (bits n (256 + 128 * l + 127) (256 + 128 * l))) }

/-! ### Levels by role (04 R116) -/

/-- Used levels of a role (1 M, 2 N, 3 K), outermost first. -/
def LTab.role (t : LTab) (r : Nat) : List Level :=
  sortBy (fun a b => a.pos < b.pos) (t.levels.filter (fun l => l.role == r))

def LTab.ms (t : LTab) : List Level := t.role 1
def LTab.ns (t : LTab) : List Level := t.role 2
def LTab.ks (t : LTab) : List Level := t.role 3

/-- Tile shape (03 Table 3.5). -/
def LTab.m (t : LTab) : Nat := 128 * 2 ^ t.fold
def LTab.n (t : LTab) : Nat := 512 / 2 ^ t.fold

def LTab.scaled (t : LTab) : Bool := t.sfa != 0 || t.sfb != 0

/-! ### Operand pairs (02 Table 2.4) -/

def narrow (e : Nat) : Bool := e == 5 || e == 6 || e == 7
def fp8 (e : Nat) : Bool := e == 3 || e == 4

/-- Twice the elements per cell per step of a pair; none for a pair the array does not take. -/
def pairRate (a b : Nat) : Option Nat :=
  if narrow a && narrow b then some 4
  else if (narrow a || fp8 a) && (narrow b || fp8 b) then some 2
  else if a == b && (a == 1 || a == 2) then some 1
  else if a == 9 && b == 9 then some 4
  else if (a == 8 || a == 9) && (b == 8 || b == 9) then some 2
  else none

/-- Group size of a pass (02 R49, Table 2.4). -/
def LTab.g (t : LTab) : Nat :=
  if t.scaled then (if t.gs then 32 else 16) else if t.eta == 1 || t.eta == 2 then 1 else 16

/-- Integer operands. -/
def LTab.ints (t : LTab) : Bool := isInt t.eta

/-- An unscaled integer pass: INT32 accumulators (02 R61). -/
def LTab.intPass (t : LTab) : Bool := t.ints && !t.scaled

/-! ### Real extents (04 R119, R120) -/

/-- The real extent of a level under parameter values. -/
def Level.ext (l : Level) (p : Tab W64) : Nat := if l.extv then (p.get 0 l.extp).toNat else l.bnd

/-- Real K positions of the pass. -/
def LTab.kReal (t : LTab) (p : Tab W64) : Nat := prod (t.ks.map (fun l => l.ext p))

/-- Positions with bounds in place of real extents. -/
def LTab.kBound (t : LTab) : Nat := prod (t.ks.map (·.bnd))

/-- 03 R80: steps of streaming `k` positions. -/
def LTab.stepsOf (t : LTab) (k : Nat) : Nat :=
  cdiv k t.g * t.g * 2 / (pairRate t.eta t.etb).getD 1

/-- Digits of a number in a mixed radix, most significant first. -/
def digits (radix : List Nat) (n : Nat) : List Nat :=
  (radix.foldr (fun r (acc : List Nat × Nat) => (acc.2 % r :: acc.1, acc.2 / r)) ([], n)).1

def dot (cs : List Int) (xs : List Nat) : Int :=
  (List.zipWith (fun c (x : Nat) => c * (x : Int)) cs xs).foldl (· + ·) 0

/-! ### Byte positions (04 R107) -/

/-- First byte of element offset p of a type of `w` bits. -/
def firstByte (et : Nat) (p : Int) : Int :=
  if isFp4 et then p / 2 else if isFp6 et then 3 * (p / 4) else p * (etBits et / 8 : Nat)

def lastByte (et : Nat) (p : Int) : Int :=
  if isFp4 et then p / 2 else if isFp6 et then 3 * (p / 4) + 2 else p * (etBits et / 8 : Nat) + (etBits et / 8 : Nat) - 1

/-- Smallest and largest value of a sum of strides times indices below bounds. -/
def spanOf (ts : List (Int × Nat)) : Int × Int :=
  ts.foldl (fun (lo, hi) (c, b) =>
    let v := c * ((b - 1 : Nat) : Int)
    if v < 0 then (lo + v, hi) else (lo, hi + v)) (0, 0)

/-- Strides and bounds of the element levels of A and of B. -/
def LTab.aLevels (t : LTab) : List (Int × Nat) := (t.ms ++ t.ks).map (fun l => (l.sa, l.bnd))
def LTab.bLevels (t : LTab) : List (Int × Nat) := (t.ns ++ t.ks).map (fun l => (l.sb, l.bnd))

/-- The marked level's scale strides. -/
def LTab.markSsa (t : LTab) : Int := ((t.ks.find? (·.kmark)).map (·.ssa)).getD 0
def LTab.markSsb (t : LTab) : Int := ((t.ks.find? (·.kmark)).map (·.ssb)).getD 0

/-- Byte ranges of the streams the pass reads: A, B and, for a scaled pass, SA and SB. -/
def LTab.ranges (t : LTab) : List (Int × Int) :=
  let blocks := cdiv t.kBound t.g
  let el (base et : Nat) (ls : List (Int × Nat)) :=
    let (lo, hi) := spanOf ls
    ((base : Int) + firstByte et lo, (base : Int) + lastByte et hi)
  let sc (base : Nat) (ls : List (Int × Nat)) :=
    let (lo, hi) := spanOf ls
    ((base : Int) + lo, (base : Int) + hi)
  [el t.basea t.eta t.aLevels, el t.baseb t.etb t.bLevels] ++
    (if t.scaled then
      [sc t.basesa ((t.markSsa, blocks) :: t.ms.map (fun l => (l.ssa, l.bnd))),
       sc t.basesb ((t.markSsb, blocks) :: t.ns.map (fun l => (l.ssb, l.bnd)))]
    else [])

/-- Slots a byte range touches. -/
def rangeSlots (r : Int × Int) : List Nat :=
  if r.2 < r.1 || r.1 < 0 then []
  else (List.range (r.2.toNat / 0x4000 - r.1.toNat / 0x4000 + 1)).map (fun i => r.1.toNat / 0x4000 + i)

/-- The slots of every stream, without repeats: the slots R77 waits on, relative to the image's range. -/
def LTab.slots (t : LTab) : List Nat := (t.ranges.flatMap rangeSlots).eraseDups

/-- Slots of one stream, by number: 0 A, 1 B, 2 SA, 3 SB. -/
def LTab.streamSlots (t : LTab) (i : Nat) : List Nat :=
  match t.ranges[i]? with
  | some r => rangeSlots r
  | none => []

/-! ### Checks of Table 4.7 on the table alone -/

def distinct (xs : List Nat) : Bool := xs.eraseDups.length == xs.length

def LTab.used (t : LTab) : List Level := t.levels.filter (fun l => l.role != 0)

/-- Packed rules of R117 on one stream: row port, stride 1 on the innermost feeding level, the other strides
multiples of the packing. -/
def packedOk (et : Nat) (col : Bool) (feed k : List Level) (st : Level → Int) : Bool :=
  if !isPacked et then true
  else
    let w : Int := if isFp6 et then 4 else 2
    let inner := feed.getLast?
    !col && ((inner.map (fun l => st l == 1)).getD false) &&
      (feed.dropLast ++ k).all (fun l => st l % w == 0)

def LTab.checkReserved (t : LTab) : Bool :=
  t.rsv == 0 && t.levels.all (fun l => l.rsv == 0) && (t.scaled || !t.gs) &&
    (t.axa || t.pita == 0) && t.sfa ≤ 2 && t.sfb ≤ 2

def LTab.checkLevels (t : LTab) : Bool :=
  t.levels.all (fun l => l.role != 0 || l.raw == 0) && distinct (t.used.map (·.pos)) &&
    t.used.all (fun l => l.pos ≤ 5)

def LTab.checkShape (t : LTab) : Bool :=
  prod (t.ms.map (·.bnd)) == t.m && prod (t.ns.map (·.bnd)) == t.n && !t.ms.isEmpty && !t.ns.isEmpty

def LTab.checkReduction (t : LTab) : Bool :=
  !t.ks.isEmpty && t.used.all (fun l => l.kmark == (some l.pos == t.ks.getLast?.map (·.pos)))

def LTab.checkStrides (t : LTab) : Bool :=
  t.ns.all (fun l => l.sa == 0 && l.ssa == 0) && t.ms.all (fun l => l.sb == 0 && l.ssb == 0) &&
    t.ks.all (fun l => l.kmark || (l.ssa == 0 && l.ssb == 0)) &&
    packedOk t.eta t.axa t.ms t.ks (·.sa) && packedOk t.etb t.axb t.ns t.ks (·.sb)

/-- Pair check: Table 2.4, both scaled or both unscaled (R54), scaled types of R52. -/
def LTab.checkPair (t : LTab) : Bool :=
  (pairRate t.eta t.etb).isSome && (t.sfa != 0) == (t.sfb != 0) &&
    (!t.scaled || (3 ≤ t.eta && t.eta ≤ 9 && 3 ≤ t.etb && t.etb ≤ 9))

def LTab.checkPorts (t : LTab) : Bool := !(t.axa && isPacked t.eta) && !(t.axb && isPacked t.etb)

def LTab.checkGroups (t : LTab) : Bool := t.chunk % t.g == 0 && t.korg % t.g == 0

def LTab.checkSpan (t : LTab) : Bool :=
  t.ranges.all (fun r => 0 ≤ r.1 && r.2 ≤ 0x5FFFFF) && t.slots.length ≤ 368

/-- Every L check of Table 4.7 that one table decides. -/
def LTab.ok (t : LTab) : Bool :=
  t.checkReserved && t.checkLevels && t.checkShape && t.checkReduction && t.checkStrides && t.checkPair &&
    t.checkPorts && t.checkGroups && t.checkSpan

/-- Extents check (I): p[EXTP] at most the bound, its upper half zero. -/
def LTab.extentsOk (t : LTab) (p : Tab W64) : Bool :=
  t.used.all (fun l => !l.extv || (p.get 0 l.extp).toNat ≤ l.bnd)

/-- Run rules of the Grouping check over real extents (02 R62, 03 R79): `prev` is the end of the pass before,
the chunk the run named and the first position of the run. CHUNK 0 is the K of the run: it is one chunk wherever its KORG
lies (DESIGN CHOICE, log 100). -/
def LTab.runOk (t : LTab) (p : Tab W64) (prev : Option (Nat × Nat × Nat)) : Bool :=
  let last := t.korg + t.kReal p
  match prev with
  | none => t.chunk == 0 || t.kReal p == 0 || (last - 1) / t.chunk == t.korg / t.chunk
  | some (fin, chunk, first) =>
    t.chunk == chunk && fin ≤ t.korg && (t.chunk == 0 || t.kReal p == 0 || (last - 1) / t.chunk == first / t.chunk)

/-- 04 R117: bytes per step of a stream off the full-rate strides; 02 Table 2.4 rate (03 R90). -/
def LTab.fullRate (t : LTab) : Bool :=
  let ok (col : Bool) (pit : Nat) (l : Option Level) (st : Level → Int) :=
    match l with
    | none => true
    | some l => if col then st l == 0 || st l == pit else st l == 0 || st l == 1
  ok t.axa t.pita t.ms.getLast? (·.sa) && ok t.axb t.pitb t.ns.getLast? (·.sb)

end Sys2Proof.Machine
end

