-- ==== Sys2Proof/Machine/Chatter.lean ====
section
/-! DEFINITION. Random bits (11): the Chatter function, its users' keys and counters, and the KD1 jump mode. -/
namespace Sys2Proof.Machine

/-! ### Chatter (R274 to R278) -/

def chatterM : Nat := 0xE7B35A91C24D6F0B93A517C84E2DB6F1
def chatterW : Nat := 0x6A3F92D15C8BE407B19E3D7208F64AC5

/-- R275: rounds left, x, k. -/
def chatterF : Nat → Nat → Nat → Nat
  | 0, x, _ => x
  | n + 1, x, k =>
    let y := (x ^^^ k) * chatterM % 2 ^ 128
    chatterF n (y ^^^ (y >>> 61)) ((k + chatterW) % 2 ^ 128)

/-- R275: the word of a key and a counter. -/
def chatter (key ctr : Nat) : Nat := chatterF 10 ctr key

/-- Table 11.1. -/
def chatterKey (seed : BitVec 96) (stream : Nat) : Nat := 2 ^ 32 * seed.toNat + stream % 2 ^ 32
def chatterCtr (draw index : Nat) : Nat := 2 ^ 48 * (draw % 2 ^ 32) + index % 2 ^ 48

/-- R278: the word of a seed, stream, draw number and logical index. -/
def chatterWord (seed : BitVec 96) (stream draw index : Nat) : Nat :=
  chatter (chatterKey seed stream) (chatterCtr draw index)

/-- R67: the 24 bits a stochastic conversion takes. -/
def chatter24 (seed : BitVec 96) (stream draw index : Nat) : Nat := chatterWord seed stream draw index % 2 ^ 24

/-- R277: the value of a seed slot. -/
def Ctx.seed (c : Ctx) (slot : Nat) : BitVec 96 := c.seeds.get 0 slot

/-! ### Jump mode (R282, R283) -/

/-- R282: the word b becomes, from a and b. -/
def jumpNext (a b : W64) : W64 :=
  let t := a ^^^ (a <<< 23)
  let t := t ^^^ (t >>> 17)
  t ^^^ b ^^^ (b >>> 26)

/-- R282: one step: the state after it and its result. -/
def Jump.step (j : Jump) : Jump × W64 :=
  let t := jumpNext j.a j.b
  ({ j with a := j.b, b := t }, t + j.b)

/-- One lane of VRANDJ. -/
def Jump.draw (j : Jump) : Jump × W32 :=
  if j.h then ({ j with h := false }, j.buf)
  else
    let (k, w) := j.step
    ({ k with h := true, buf := BitVec.ofNat 32 (w.toNat / 2 ^ 32) }, BitVec.ofNat 32 w.toNat)

/-- The step is linear over bits: a state is the number b * 2^64 + a, a matrix the images of its 128 bits. -/
def jumpPack (a b : W64) : Nat := 2 ^ 64 * b.toNat + a.toNat

def jumpCols : List Nat :=
  (List.range 128).map (fun i =>
    let n := 2 ^ i
    let a : W64 := BitVec.ofNat 64 n
    let b : W64 := BitVec.ofNat 64 (n / 2 ^ 64)
    jumpPack b (jumpNext a b))

/-- The image of a state. -/
def matApplyF : List Nat → Nat → Nat → Nat
  | [], _, acc => acc
  | c :: cs, x, acc => matApplyF cs (x / 2) (if x % 2 = 1 then acc ^^^ c else acc)

def matApply (m : List Nat) (x : Nat) : Nat := matApplyF m x 0

def matSquares (m : List Nat) : Nat → List Nat
  | 0 => m
  | n + 1 => matSquares (m.map (matApply m)) n

/-- The matrix of 2^64 steps. -/
def jumpFar : List Nat := matSquares jumpCols 64

/-- `n` times 2^64 steps, by the bits of n (at most 2^15). -/
def jumpByF (m : List Nat) (n x : Nat) : Nat → Nat
  | 0 => x
  | k + 1 => jumpByF (m.map (matApply m)) (n / 2) (if n % 2 = 1 then matApply m x else x) k

def jumpBy (n x : Nat) : Nat := jumpByF jumpFar n x 16

/-- States of `k` lanes in order, each 2^64 steps after the one before. -/
def jumpLanes (m : List Nat) : Nat → Nat → List Nat
  | 0, _ => []
  | k + 1, x => x :: jumpLanes m k (matApply m x)

/-- R283: the base state of a seed and a stream. -/
def jumpBase (seed : BitVec 96) (stream : W32) : Nat :=
  let a := seed.toNat % 2 ^ 64
  let b := seed.toNat / 2 ^ 64 * 2 ^ 32 + stream.toNat
  if a = 0 && b = 0 then 1 else b * 2 ^ 64 + a

/-- R283: the lanes of unit u. -/
def jumpUnit (seed : BitVec 96) (stream : W32) (u : Nat) : List Jump :=
  (jumpLanes jumpFar 512 (jumpBy (512 * u) (jumpBase seed stream))).map (fun x =>
    { a := BitVec.ofNat 64 x, b := BitVec.ofNat 64 (x / 2 ^ 64), h := false, buf := 0 })

/-- The jump state of a unit: what an earlier VRANDJ or RNG-JUMP left, else that of the context's creation. -/
def Ctx.jumpOf (c : Ctx) (u : Nat) : List Jump :=
  match c.jump.find u with
  | some j => j
  | none => jumpUnit 0 0 u

end Sys2Proof.Machine
end

