-- ==== Sys2Proof/Machine/Hash.lean ====
section
/-! DEFINITION. SHA3-256, SHA3-512, HMAC-SHA3-256 (17 R412, 19 R445), CRC-32 (17 R402) and CRC-32C (05 Table 5.1).
The manual names these and leaves their tables to FIPS 202, FIPS 198 and IEEE 802.3: PRESUMED, log 11. -/
namespace Sys2Proof

/-! ### Cyclic redundancy codes, reflected, initial value and final inversion all ones -/

/-- One byte's eight steps. -/
def crcByte (poly : Nat) : Nat → Nat → Nat
  | 0, c => c
  | n + 1, c => crcByte poly n (if c % 2 == 1 then (c >>> 1) ^^^ poly else c >>> 1)

def crcRefl (poly : Nat) (bs : List Byte) : W32 :=
  BitVec.ofNat 32 ((bs.foldl (fun c b => crcByte poly 8 (c ^^^ b.toNat)) 0xFFFFFFFF) ^^^ 0xFFFFFFFF)

/-- 17 R402: the CRC of a ring frame. -/
def crc32 (bs : List Byte) : W32 := crcRefl 0xEDB88320 bs

/-- 05 Table 5.1: CRC-32C. -/
def crc32c (bs : List Byte) : W32 := crcRefl 0x82F63B78 bs

/-! ### Keccak-f[1600]

The 25 lanes of 64 bits are one number: lane x + 5y at bit 64(x + 5y). -/

/-- A number read before it is handed on, so that a sponge's state stays a numeral. -/
def withNat {α : Type} (n : Nat) (f : Nat → α) : α :=
  match n with
  | 0 => f 0
  | k + 1 => f (k + 1)

/-- One step of the register from which FIPS 202 takes the bits of its round constants: doubled modulo the polynomial
with the exponents 8, 6, 5, 4 and 0. -/
def rcStep (r : Nat) : Nat := if r < 128 then 2 * r else (2 * r) ^^^ 0x171

/-- The register after `n` steps. -/
def rcAfter : Nat → Nat → Nat
  | 0, r => r
  | n + 1, r => withNat (rcStep r) (rcAfter n)

/-- The round constant that begins at register `r`: the bit of step j stands at place 2^j - 1. -/
def roundConst (r : Nat) : Nat :=
  (List.range 7).foldl (fun w j => w + rcAfter j r % 2 * 2 ^ (2 ^ j - 1)) 0

def lane (a i : Nat) : Nat := (a >>> (64 * i)) % 2 ^ 64

def rotl64 (x n : Nat) : Nat := ((x <<< n) % 2 ^ 64) ||| (x >>> (64 - n))

/-- Bit 0 of each of the five planes, and of each of the five lanes of a plane. -/
def planeBits : Nat := 1 + 2 ^ 320 + 2 ^ 640 + 2 ^ 960 + 2 ^ 1280
def laneBits : Nat := 1 + 2 ^ 64 + 2 ^ 128 + 2 ^ 192 + 2 ^ 256

/-- In every plane, lane x takes the value of lane x + k. -/
def turn (a k : Nat) : Nat :=
  ((a >>> (64 * k)) &&& (planeBits * (2 ^ (320 - 64 * k) - 1))) |||
    ((a &&& (planeBits * (2 ^ (64 * k) - 1))) <<< (320 - 64 * k))

/-- Theta: each lane with the parities of the column before it and of the one after it, rotated by 1. -/
def theta (a : Nat) : Nat :=
  withNat ((a ^^^ (a >>> 320) ^^^ (a >>> 640) ^^^ (a >>> 960) ^^^ (a >>> 1280)) % 2 ^ 320) (fun c =>
    withNat (turn c 1) (fun n =>
      withNat (((n <<< 1) &&& (2 ^ 320 - 1 - laneBits)) ||| ((n >>> 63) &&& laneBits)) (fun m =>
        a ^^^ (planeBits * (turn c 4 ^^^ m)))))

/-- Where pi takes lane x + 5y: lane y + 5(2x + 3y). -/
def piLane (c : Nat) : Nat := c / 5 + 5 * ((2 * (c % 5) + 3 * (c / 5)) % 5)

/-- Rho and pi along the walk that begins at lane 1: the lane of step t is rotated by the t-th triangular number and
stands where the walk goes next. Lane 0 stays. -/
def rhoPi (a : Nat) : Nat → Nat → Nat → Nat
  | 0, _, b => b
  | n + 1, c, b =>
    withNat (piLane c) (fun d =>
      withNat (b + (rotl64 (lane a c) ((24 - n) * (25 - n) / 2 % 64)) * 2 ^ (64 * d)) (rhoPi a n d))

/-- One round: theta, rho and pi, chi, iota. -/
def keccakRound (a rc : Nat) : Nat :=
  withNat (theta a) (fun a => withNat (rhoPi a 24 1 (lane a 0)) (fun b =>
    b ^^^ ((2 ^ 1600 - 1 - turn b 1) &&& turn b 2) ^^^ rc))

/-- `n` rounds, the register of the round constants beside them. -/
def keccakRounds : Nat → Nat → Nat → Nat
  | 0, _, a => a
  | n + 1, r, a => withNat (keccakRound a (roundConst r)) (fun b => withNat (rcAfter 7 r) (fun q => keccakRounds n q b))

def keccakF (a : Nat) : Nat := keccakRounds 24 1 a

/-- Sponge absorption of whole blocks. -/
def absorb (a : Nat) : List (List Byte) → Nat
  | [] => a
  | b :: bs => withNat (keccakF (a ^^^ leNat b)) (fun a => absorb a bs)

/-- FIPS 202 padding with the SHA-3 suffix. -/
def sha3Pad (rate : Nat) (m : List Byte) : List Byte :=
  let q := rate - m.length % rate
  if q = 1 then m ++ [0x86#8] else m ++ 0x06#8 :: (List.replicate (q - 2) 0#8 ++ [0x80#8])

def sha3 (rate n : Nat) (m : List Byte) : List Byte := natLe n (absorb 0 (chunks rate (sha3Pad rate m)))

def sha3_256 (m : List Byte) : List Byte := sha3 136 32 m
def sha3_512 (m : List Byte) : List Byte := sha3 72 64 m

/-- HMAC-SHA3-256 (FIPS 198 over a 136-byte block). -/
def hmac (key m : List Byte) : List Byte :=
  let k := if key.length > 136 then sha3_256 key else key
  let k := k ++ List.replicate (136 - k.length) 0#8
  sha3_256 (k.map (· ^^^ 0x5C#8) ++ sha3_256 (k.map (· ^^^ 0x36#8) ++ m))

end Sys2Proof
end

