-- ==== Sys2Proof/Config.lean ====
section
/-! DEFINITION. What the manual leaves open, as constants without a body: nothing in Lean can evaluate one or
prove a value of it, so a claim that holds here holds whatever the value is. `stamp` arguments are the
step's fresh counter (State.fresh), so that two uses are unrelated. Log 8, 12, 13. -/
namespace Sys2Proof.Config

/-- Log 8: a byte of memory the manual calls undefined, of region `stamp`, at an address. -/
opaque freeByte : Nat → Nat → Byte

/-- Log 9: the byte a host's memory returns on a read. -/
opaque hostByte : Nat → Nat → Nat → Byte

/-- Log 30: records a host has taken from its event ring by some count, after so many were offered (16 R389). -/
opaque eventsTaken : Nat → Nat → Nat → Nat

/-- Log 8: an open value of up to `n` values. -/
opaque freeNat : Nat → Nat → Nat

/-- Log 8: the bytes of an open encoding (a nonce, a key share, an image). -/
opaque openByte : Nat → Nat → Byte

/-- Log 8: open bytes, as many as asked for. -/
def freeBytes (k n : Nat) : List Byte := (List.range n).map (openByte k)

/-- Log 3: where in its range the rate of an oscillator lies from a count of the reference counter on: dies 0 to 5, and 6 the
module controller's clock. -/
opaque oscRate : Nat → Nat → Nat

/-- Log 18: CRC of a matrix, move or synchronisation instruction's resolved operands (05 Table 5.1). -/
opaque resolvedCrc : List Nat → W32

/-- Log 9: whether a port's host has enabled ASPM L1 (16 R377): a setting of its own configuration space. -/
opaque aspmL1 : Nat → Bool

/-- Log 89: what a read or a write of a stack meets on its way that the KDX puts right itself: bursts of corrected severity, and
retries after a parity error (12 Table 12.4). By stack and the count of its transfers. -/
opaque hbmTrouble : Nat → Nat → Nat × Nat

/-- Log 31: words, less one, of the SRAM blocks whose size the manual does not give (12 R308), by die and block. -/
opaque sramWords : Nat → Nat → Nat

/-- Log 12: FIPS 204 verification: key, message, signature. -/
opaque mldsaVerify : List Byte → List Byte → List Byte → Bool

/-- Log 12: FIPS 204 signature of a message under the identity key of a seed. -/
opaque mldsaSign : List Byte → List Byte → List Byte

/-- Log 12: FIPS 204 key generation: the public key of a 32-byte seed. -/
opaque mldsaPublic : List Byte → List Byte

/-- Log 12: FIPS 203 key generation: the encapsulation key of a 64-byte seed. -/
opaque mlkemPublic : List Byte → List Byte

/-- Log 12: FIPS 203 decapsulation: seed, ciphertext. -/
opaque mlkemDecap : List Byte → List Byte → List Byte

/-- Log 12: AES-256-GCM opening: key, nonce, additional data, ciphertext, tag. -/
opaque gcmOpen : List Byte → List Byte → List Byte → List Byte → List Byte → Option (List Byte)

/-- Log 12: AES-256-GCM sealing: key, nonce, additional data, text; the ciphertext and tag. -/
opaque gcmSeal : List Byte → List Byte → List Byte → List Byte → List Byte × List Byte

/-- Log 12: the 256-bit seed recovered from the silicon (19 R443): the same at every start. -/
opaque seed : List Byte

/-- Log 12: the vendor root public key and the endorsement kept in flash (19 Table 19.1, R444). -/
opaque vendorRoot : List Byte
opaque endorsement : List Byte

/-- Log 5: measurement of a stage of the firmware, and of the bundle, written at manufacture. -/
opaque factoryStage : Nat → List Byte
opaque factoryBundle : List Byte

/-- Log 13: an encoded frame (15 R361): what the stream is (its record, the frames and key flags coded so far, whether
this one is a key frame), the planes of the input stage and the QP of each row; the payload of the frame's unit and the
reconstruction's samples. -/
opaque encodeFrame : List Nat → List Nat → List Nat → List Byte × List Byte

/-- Log 13: the payload of a header unit of a stream (15 Table 15.1): its unit type and the stream's record. -/
opaque headerUnit : Nat → Nat → List Byte

/-- Log 13: bits that a row of a frame takes at a QP, after rows coded at earlier QPs (15 R366): stream, planes, QPs of the
rows so far, this row's included. -/
opaque encodeRowBits : List Nat → List Nat → List Nat → Nat

/-- Log 13: smallest bits of the rows after the given QPs' (15 R366). -/
opaque encodeMinBits : List Nat → List Nat → List Nat → Nat

/-- Log 13: what a coded unit turns out to be (15 Table 15.6): damage class 0 to 3, the luma rows that the damage affects and
which of the references is nearest in output order (log 102), the buffers that are references after it, given out by it and
used by it (masks), whether it is a key picture, its mean QP, the bytes it consumed and the samples it gives. -/
structure Decoded where
  cls : Nat
  lost : List Nat
  near : Nat
  refs : Nat
  outs : Nat
  used : Nat
  key : Bool
  qp : Nat
  consumed : Nat
  samples : List Byte
deriving DecidableEq, Repr, Inhabited

/-- Log 13: decoding: the stream (record, units so far, whether one is missing, the buffer taken) and a unit's bytes. -/
opaque decodeUnit : List Nat → List Byte → Decoded

/-- Log 24: what a message inside a DOE session is (19 R456): key activation of the port's IDE streams (CXL.io,
CXL.cache/mem), or a vendor mailbox command of 16 Table 16.6. -/
inductive SecuredMsg where
  | ide (io mem : Bool)
  | dictRead (a : Access)
  | dictWrite (a : Access)
  | dictWriteAuth (a : AuthCmd)
  | control (a : AuthCmd)
  | adminSetup (t : Transport)
  | eventSetup (base : W64) (log2n : Nat) (ptr : W64) (vec : Nat)
  | biasSet (first count : Nat) (toHost : Bool)
  | portQuiesce
  | other
deriving DecidableEq, Repr, Inhabited

/-- Log 24: the message a plaintext spells, which CXL 2.0 and PCIe define. -/
opaque securedMsg : List Byte → SecuredMsg

/-- Log 97: whether the change of a port's frame ends at a count of the reference counter. -/
opaque biasPulse : Nat → Nat → Nat → Bool

/-- Log 24: the image of a mailbox response, return code and payload. -/
opaque mailImage : Nat → List Byte → List Byte

/-- Log 24: the image of the answer to an IDE_KM message. -/
opaque ideImage : Bool → Bool → List Byte

end Sys2Proof.Config
end

