-- ==== Sys2Proof/Machine/Objects.lean ====
section
/-! DEFINITION. The object dictionary as data (18 Table 18.1 and the object tables of every chapter): each
object's subindices, type, access, class and default. -/
namespace Sys2Proof.Machine

/-- 17 Table 17.8. -/
inductive Acc where
  | ro | rw | rwo | rwa | wo
deriving DecidableEq, Repr

/-- 17 R408: the classes. -/
inductive Cls where
  | config | runtime | telemetry
deriving DecidableEq, Repr

/-- One line of an object table: subindices lo to hi of an index. `ty` is a code of 17 Table 17.10. -/
structure Obj where
  idx : Nat
  lo : Nat
  hi : Nat
  ty : Nat
  acc : Acc
  cls : Cls
  dflt : Nat := 0
deriving DecidableEq, Repr

/-- 18 Table 18.4, 19 R454: identity, firmware and reset. -/
def objsIdentity : List Obj :=
  [⟨0x1000, 1, 1, 0x0B, .ro, .runtime, 0⟩, ⟨0x1000, 2, 2, 0x0B, .ro, .runtime, 0⟩,
   ⟨0x1000, 3, 3, 0x02, .ro, .runtime, 0⟩, ⟨0x1000, 4, 4, 0x0B, .ro, .runtime, 0⟩,
   ⟨0x1000, 5, 6, 0x03, .ro, .runtime, 0⟩, ⟨0x1010, 1, 2, 0x0C, .ro, .runtime, 0⟩,
   ⟨0x1010, 3, 3, 0x0D, .ro, .runtime, 0⟩, ⟨0x1011, 1, 1, 0x0F, .ro, .runtime, 0⟩,
   ⟨0x1011, 2, 2, 0x0D, .ro, .runtime, 0⟩, ⟨0x1011, 3, 4, 0x04, .ro, .runtime, 0⟩,
   ⟨0x1012, 1, 1, 0x0C, .rw, .runtime, 0⟩, ⟨0x1012, 2, 2, 0x0C, .ro, .runtime, 0⟩,
   ⟨0x1020, 1, 1, 0x0C, .wo, .runtime, 0⟩, ⟨0x1020, 2, 2, 0x02, .ro, .runtime, 0⟩,
   ⟨0x1030, 1, 1, 0x05, .rwa, .runtime, 0⟩, ⟨0x1030, 2, 2, 0x04, .rwa, .runtime, 0⟩,
   ⟨0x1030, 3, 3, 0x02, .rwa, .runtime, 0⟩, ⟨0x1030, 4, 5, 0x02, .ro, .runtime, 0⟩,
   ⟨0x1031, 1, 1, 0x02, .rwa, .runtime, 0⟩]

/-- 17 Table 17.16: ring and ownership. -/
def objsRing : List Obj :=
  [⟨0x2010, 1, 1, 0x02, .ro, .runtime, 0⟩, ⟨0x2010, 2, 2, 0x02, .rwa, .config, 0⟩,
   ⟨0x2010, 3, 3, 0x02, .ro, .runtime, 0⟩, ⟨0x2010, 4, 4, 0x04, .ro, .telemetry, 0⟩,
   ⟨0x2010, 5, 5, 0x05, .ro, .runtime, 0⟩, ⟨0x2010, 6, 6, 0x04, .ro, .telemetry, 0⟩,
   ⟨0x2020, 1, 1, 0x02, .ro, .runtime, 0xFF⟩, ⟨0x2020, 2, 2, 0x03, .rwa, .config, 30⟩,
   ⟨0x2020, 3, 3, 0x04, .ro, .runtime, 0⟩, ⟨0x2020, 4, 4, 0x02, .ro, .runtime, 0⟩,
   ⟨0x2020, 5, 5, 0x02, .rwa, .config, 0xFF⟩, ⟨0x2021, 1, 9, 0x02, .ro, .runtime, 0xFF⟩,
   ⟨0x2022, 1, 9, 0x05, .ro, .runtime, 0⟩, ⟨0x2023, 1, 9, 0x04, .ro, .telemetry, 0⟩,
   ⟨0x2024, 1, 9, 0x01, .ro, .runtime, 0⟩, ⟨0x2025, 1, 9, 0x05, .ro, .runtime, 0⟩,
   ⟨0x2030, 1, 1, 0x0D, .ro, .runtime, 0⟩, ⟨0x2030, 2, 2, 0x05, .ro, .runtime, 0⟩,
   ⟨0x2030, 3, 3, 0x0D, .ro, .runtime, 0⟩, ⟨0x2030, 4, 4, 0x02, .ro, .runtime, 0⟩,
   ⟨0x2030, 5, 5, 0x03, .ro, .runtime, 0⟩]

/-- 14 Table 14.5: the governor. -/
def objsGovernor : List Obj :=
  [⟨0x3010, 1, 1, 0x03, .rwa, .config, 3600⟩, ⟨0x3010, 2, 2, 0x02, .rwa, .config, 85⟩,
   ⟨0x3010, 3, 3, 0x03, .rwa, .config, 750⟩, ⟨0x3010, 4, 4, 0x03, .rwa, .config, 850⟩,
   ⟨0x3011, 1, 8, 0x02, .rwa, .config, 12⟩, ⟨0x3020, 1, 1, 0x02, .rwa, .config, 3⟩,
   ⟨0x3020, 2, 2, 0x04, .rwa, .config, 10⟩, ⟨0x3020, 3, 3, 0x04, .rwa, .config, 200⟩,
   ⟨0x3020, 4, 4, 0x04, .rwa, .config, 5000⟩, ⟨0x3020, 5, 5, 0x04, .rwa, .config, 1000000⟩,
   ⟨0x3020, 6, 6, 0x02, .rwa, .runtime, 0⟩, ⟨0x3030, 1, 1, 0x02, .ro, .runtime, 0⟩,
   ⟨0x3030, 2, 2, 0x03, .ro, .telemetry, 0⟩, ⟨0x3031, 1, 6, 0x03, .ro, .telemetry, 0⟩,
   ⟨0x3032, 1, 6, 0x03, .ro, .telemetry, 0⟩, ⟨0x3033, 1, 4, 0x08, .ro, .telemetry, 0⟩,
   ⟨0x3034, 1, 6, 0x07, .ro, .telemetry, 0⟩, ⟨0x3035, 1, 4, 0x02, .ro, .telemetry, 0x80⟩,
   ⟨0x3040, 1, 8, 0x05, .ro, .telemetry, 0⟩]

/-- 13 Table 13.2, 16 Table 16.8, 18 R437: partitions, ports, accounting. -/
def objsHost : List Obj :=
  [⟨0x4010, 1, 8, 0x02, .rwa, .config, 0⟩, ⟨0x4011, 1, 8, 0x03, .rwa, .config, 0⟩,
   ⟨0x4012, 1, 8, 0x04, .rwa, .config, 0⟩, ⟨0x4013, 1, 8, 0x03, .rwa, .config, 0⟩,
   ⟨0x4014, 1, 8, 0x02, .rwa, .config, 0⟩, ⟨0x4015, 1, 8, 0x05, .rwa, .config, 0⟩,
   ⟨0x4016, 1, 8, 0x0F, .rwa, .config, 0⟩, ⟨0x4020, 1, 8, 0x03, .ro, .runtime, 0⟩,
   ⟨0x4021, 1, 8, 0x04, .ro, .runtime, 0⟩, ⟨0x4030, 1, 8, 0x02, .ro, .runtime, 0⟩,
   ⟨0x4031, 1, 8, 0x02, .ro, .runtime, 0⟩, ⟨0x4032, 1, 8, 0x02, .ro, .runtime, 0⟩,
   ⟨0x4033, 1, 8, 0x04, .ro, .telemetry, 0⟩, ⟨0x4034, 1, 8, 0x04, .ro, .telemetry, 0⟩,
   ⟨0x4035, 1, 8, 0x01, .rwa, .config, 1⟩, ⟨0x4036, 1, 8, 0x02, .rwa, .config, 0⟩,
   ⟨0x4040, 1, 64, 0x0F, .ro, .telemetry, 0⟩]

/-- 12 Table 12.7: memory. -/
def objsMemory : List Obj :=
  [⟨0x5010, 1, 4, 0x03, .rwa, .config, 0xFF00⟩, ⟨0x5011, 1, 4, 0x03, .ro, .runtime, 0xFF00⟩,
   ⟨0x5020, 1, 1, 0x01, .rwa, .config, 1⟩, ⟨0x5020, 2, 2, 0x02, .rwa, .config, 12⟩,
   ⟨0x5020, 3, 3, 0x01, .rwa, .config, 1⟩, ⟨0x5020, 4, 4, 0x02, .rwa, .config, 10⟩,
   ⟨0x5040, 1, 20, 0x02, .ro, .runtime, 0⟩, ⟨0x5041, 1, 20, 0x04, .ro, .telemetry, 0⟩,
   ⟨0x5042, 1, 20, 0x04, .ro, .telemetry, 0⟩, ⟨0x5043, 1, 20, 0x04, .ro, .telemetry, 0⟩,
   ⟨0x5044, 1, 20, 0x07, .ro, .telemetry, 0⟩, ⟨0x5050, 1, 4, 0x04, .ro, .telemetry, 0⟩]

/-- 18 Table 18.5, 03 R100, R102, 13 Disabling, 15 Table 15.7: dies, units, codec engines. -/
def objsDies : List Obj :=
  [⟨0x6001, 1, 4, 0x02, .ro, .runtime, 0⟩, ⟨0x6002, 1, 4, 0x02, .ro, .runtime, 16⟩,
   ⟨0x6010, 1, 64, 0x04, .ro, .config, 0⟩, ⟨0x6011, 1, 64, 0x02, .ro, .runtime, 0⟩,
   ⟨0x6020, 1, 4, 0x01, .rwa, .config, 1⟩, ⟨0x6030, 1, 6, 0x03, .ro, .runtime, 0⟩,
   ⟨0x6031, 1, 6, 0x05, .ro, .runtime, 0⟩, ⟨0x7010, 1, 4, 0x01, .rwa, .config, 1⟩,
   ⟨0x7011, 1, 4, 0x02, .rwa, .config, 0⟩, ⟨0x7020, 1, 4, 0x02, .ro, .runtime, 0⟩,
   ⟨0x7021, 1, 4, 0x04, .ro, .telemetry, 0⟩, ⟨0x7022, 1, 4, 0x04, .ro, .telemetry, 0⟩,
   ⟨0x7023, 1, 4, 0x03, .ro, .telemetry, 0⟩]

/-- 18 Tables 18.6 to 18.8, 01 R38: faults, telemetry, bring-up. -/
def objsFault : List Obj :=
  [⟨0x8000, 1, 1, 0x03, .ro, .runtime, 0⟩, ⟨0x8000, 2, 2, 0x04, .ro, .telemetry, 0⟩,
   ⟨0x8000, 3, 3, 0x04, .ro, .runtime, 0⟩, ⟨0x8001, 1, 1, 0x0F, .ro, .telemetry, 0⟩,
   ⟨0x8002, 1, 1, 0x02, .rwa, .runtime, 0⟩, ⟨0x8010, 1, 6, 0x04, .ro, .telemetry, 0⟩,
   ⟨0x8011, 1, 6, 0x04, .ro, .telemetry, 0⟩, ⟨0x8012, 1, 6, 0x04, .ro, .telemetry, 0⟩,
   ⟨0x8013, 1, 4, 0x04, .ro, .telemetry, 0⟩, ⟨0x8014, 1, 4, 0x04, .ro, .telemetry, 0⟩,
   ⟨0x8015, 1, 6, 0x04, .ro, .telemetry, 0⟩, ⟨0x8016, 1, 4, 0x04, .ro, .telemetry, 0⟩,
   ⟨0x8020, 1, 1, 0x01, .ro, .runtime, 1⟩, ⟨0x8020, 2, 2, 0x02, .ro, .runtime, 0⟩,
   ⟨0x8030, 1, 1, 0x04, .ro, .telemetry, 0⟩, ⟨0x9010, 1, 6, 0x03, .ro, .telemetry, 0⟩,
   ⟨0x9020, 1, 2, 0x03, .ro, .telemetry, 0⟩, ⟨0x9020, 3, 4, 0x07, .ro, .telemetry, 0⟩,
   ⟨0x9020, 5, 5, 0x03, .ro, .telemetry, 0⟩, ⟨0x9030, 1, 4, 0x03, .ro, .telemetry, 0⟩,
   ⟨0x9031, 1, 4, 0x03, .ro, .telemetry, 0⟩, ⟨0x9032, 1, 4, 0x03, .ro, .telemetry, 0⟩,
   ⟨0x9040, 1, 1, 0x05, .ro, .runtime, 0⟩, ⟨0x9040, 2, 2, 0x04, .ro, .runtime, 100000000⟩,
   ⟨0xF000, 1, 1, 0x02, .rwa, .runtime, 0⟩, ⟨0xF001, 1, 2, 0x02, .ro, .runtime, 0⟩,
   ⟨0xF001, 3, 3, 0x0F, .ro, .runtime, 0⟩, ⟨0xF010, 1, 1, 0x05, .rwa, .runtime, 0⟩,
   ⟨0xF010, 2, 2, 0x02, .ro, .runtime, 0⟩, ⟨0xF010, 3, 3, 0x0C, .ro, .runtime, 0⟩,
   ⟨0xF020, 1, 64, 0x04, .rwa, .runtime, 0⟩, ⟨0xF030, 1, 1, 0x05, .rwa, .runtime, 0⟩,
   ⟨0xF030, 2, 2, 0x0F, .ro, .runtime, 0⟩, ⟨0xF040, 1, 1, 0x02, .rwa, .runtime, 0⟩,
   ⟨0xF040, 2, 2, 0x02, .ro, .runtime, 0⟩, ⟨0xF040, 3, 3, 0x0D, .ro, .runtime, 0⟩]

/-- Every object with a line of its own; types, records and subindex 0 are formed in Machine/Dict.lean. -/
def objects : List Obj :=
  objsIdentity ++ objsRing ++ objsGovernor ++ objsHost ++ objsMemory ++ objsDies ++ objsFault

/-- The line of an object. -/
def objOf (idx sub : Nat) : Option Obj :=
  objects.find? (fun o => o.idx == idx && o.lo ≤ sub && sub ≤ o.hi)

/-- The key of an object in the dictionary's tables. -/
def okey (idx sub : Nat) : Nat := idx * 256 + sub

/-- 18 R433: bytes of a value of a type of fixed length; 0 where the length travels with the value. -/
def tySize (ty : Nat) : Nat :=
  match ty with
  | 1 | 2 | 6 => 1
  | 3 | 7 => 2
  | 4 | 8 | 0x0A => 4
  | 5 | 9 => 8
  | 0x0D => 32
  | _ => 0

/-- A configuration object's number in force: the effective value, else its default (17 R424). -/
def State.cfg (s : State) (idx sub : Nat) : Nat :=
  match s.dict.eff.find (okey idx sub) with
  | some (.num n) => n
  | _ => ((objOf idx sub).map (·.dflt)).getD 0

/-- A configuration object's list in force. -/
def State.cfgArr (s : State) (idx sub : Nat) : List Nat :=
  match s.dict.eff.find (okey idx sub) with
  | some (.arr xs) => xs
  | _ => []

end Sys2Proof.Machine
end

