-- ==== Sys2Proof/Machine/Ops.lean ====
section
/-! DEFINITION. The named operations every meaning is made of: accessors of the state's tables, memory bytes,
free values, the address map, messages and event records. -/
namespace Sys2Proof.Machine

/-! ### Accessors -/

def State.die (s : State) (d : Nat) : Die := s.dies.get {} d
def State.modDie (s : State) (d : Nat) (f : Die → Die) : State := { s with dies := s.dies.put d (f (s.die d)) }
def State.mu (s : State) (u : Nat) : MUnit := s.mus.get {} u
def State.modMu (s : State) (u : Nat) (f : MUnit → MUnit) : State := { s with mus := s.mus.put u (f (s.mu u)) }
def State.pair (s : State) (u : Nat) : Pair := s.pairs.get {} u
def State.modPair (s : State) (u : Nat) (f : Pair → Pair) : State :=
  { s with pairs := s.pairs.put u (f (s.pair u)) }
def State.port (s : State) (p : Nat) : Port := s.ports.get {} p
def State.modPort (s : State) (p : Nat) (f : Port → Port) : State :=
  { s with ports := s.ports.put p (f (s.port p)) }
def State.stack (s : State) (n : Nat) : Stack := s.hbm.get {} n
def State.modStack (s : State) (n : Nat) (f : Stack → Stack) : State :=
  { s with hbm := s.hbm.put n (f (s.stack n)) }
def State.engine (s : State) (e : Nat) : Engine := s.codecs.get {} e
def State.modEngine (s : State) (e : Nat) (f : Engine → Engine) : State :=
  { s with codecs := s.codecs.put e (f (s.engine e)) }
def State.ctlOf (s : State) (c : Nat) : Ctl := s.sec.ctl.get {} c
def State.modCtl (s : State) (c : Nat) (f : Ctl → Ctl) : State :=
  { s with sec := { s.sec with ctl := s.sec.ctl.put c (f (s.ctlOf c)) } }
def State.modCtx (s : State) (c : Nat) (f : Ctx → Ctx) : State := { s with ctxs := s.ctxs.upd c f }
def State.modQueue (s : State) (q : Nat) (f : Queue → Queue) : State := { s with queues := s.queues.upd q f }
def State.modLaunch (s : State) (l : Nat) (f : Launch → Launch) : State :=
  { s with launches := s.launches.upd l f }
def State.modSem (s : State) (k : Nat) (f : Sem → Sem) : State := { s with sems := s.sems.upd k f }

/-- Reference count as a number; one count is 10 ns (01 Table 1.9). -/
def State.now (s : State) : Nat := s.clock.refc.toNat

/-- Counts of the reference counter in microseconds and in seconds. -/
def usCounts (n : Nat) : Nat := 100 * n
def secCounts (n : Nat) : Nat := 100000000 * n

/-- A fresh stamp for free values (log 8). -/
def State.draw (s : State) : Nat × State := (s.fresh, { s with fresh := s.fresh + 1 })

/-- Append a message to what the block has sent. -/
def State.send (s : State) (m : Msg) : State := { s with out := s.out ++ [m] }

/-- Whether the package runs: start-up has begun and nothing holds it in reset. -/
def State.runs (s : State) : Bool := s.start.power == .running

/-- 01 Table 1.9: an oscillator's counts over n counts of the reference counter from count t on, and its new fraction: a rate
of `mid` millionths of a count per count, within `dev` of it, where its fraction before was `frac` (log 3). -/
def oscCounts (t n k mid dev frac : Nat) : Nat × Nat :=
  let x := frac + n * (mid - dev + Config.oscRate t k % (2 * dev + 1))
  (x / 1000000, x % 1000000)

/-- R34: a local oscillator runs at 50 MHz, within 2 % once it is trimmed and within 15 % before. -/
def Clock.advance (c : Clock) (n d : Nat) : Clock :=
  let dev := if c.trimmed.get false d then 10000 else 75000
  let k := oscCounts c.refc.toNat n d 500000 dev (c.frac.get 0 d)
  { c with localc := c.localc.put d (c.localc.get 0 d + BitVec.ofNat 64 k.1), frac := c.frac.put d k.2 }

/-- The module controller's clock: 25 MHz within 1 %, 32 bits. -/
def Clock.advanceCtl (c : Clock) (n : Nat) : Clock :=
  let k := oscCounts c.refc.toNat n 6 250000 2500 (c.frac.get 0 6)
  { c with ctlc := c.ctlc + BitVec.ofNat 32 k.1, frac := c.frac.put 6 k.2 }

/-- R31, R32: over n counts a rail slews at 1 mV/us, 10 uV per count, from its momentary voltage toward the target of the
moment; the sum of its voltage over them (log 38). -/
def Die.slew (d : Die) (n : Nat) : Die :=
  let to' := 100 * d.vtarget
  let m := min n (if d.rail ≤ to' then to' - d.rail else d.rail - to')
  let r := if d.rail ≤ to' then d.rail + m else d.rail - m
  { d with rail := r, railSum := d.railSum + m * (d.rail + r) / 2 + (n - m) * r, railN := d.railN + n }

/-- 18 R438, 14 Table 14.4: the compute dies are power-gated from L2 on, every die in L4. -/
def State.powerGated (s : State) (d : Nat) : Bool := s.gov.ladder = 4 || (s.gov.ladder ≥ 2 && d < 4)

/-- n counts of the reference counter pass (01 R31 to R35; log 2, 3). The local count of a power-gated die stands (18 R438). -/
def State.elapse (s : State) (n : Nat) : State :=
  let on := if s.runs then (List.range 6).filter (fun d => (s.die d).present) else []
  let clock := (on.filter (fun d => !s.powerGated d)).foldl (fun c d => c.advance n d) (s.clock.advanceCtl n)
  let dies : Tab Die := s.dies.map (fun e => (e.1, if on.contains e.1 && e.2.rail ≠ 0 then e.2.slew n else e.2))
  { s with clock := { clock with refc := s.clock.refc + BitVec.ofNat 64 n }, dies }

/-! ### Wakes (14 R354) -/

/-- The module returns to a rung of the ladder; after L2 work starts at 0.55 V (R355). -/
def State.wake (s : State) (n : Nat) : State :=
  { s with gov := { s.gov with ladder := n, idleSince := none, scrubFrom := none } }

/-- What a wake does in L1 to L3. -/
def State.rouse (s : State) : State := if 1 ≤ s.gov.ladder && s.gov.ladder ≤ 3 then s.wake 0 else s

/-- The stacks are in self-refresh (14 Table 14.4, 12 Table 12.4). -/
def State.selfRefresh (s : State) : Bool := s.gov.ladder ≥ 2

/-! ### Geometry (00 Table 0.1, 01 R20, R21) -/

/-- Stacks per compute die. -/
def Variant.spd : Variant → Nat
  | .kdx20 => 5 | .kdx16 => 4 | .kdx12 => 3

/-- The VARIANT code of 13 Table 13.10. -/
def Variant.code : Variant → Nat
  | .kdx20 => 1 | .kdx16 => 2 | .kdx12 => 3

def Variant.order : Variant → String
  | .kdx20 => "EXM-KDX-2002-LC" | .kdx16 => "EXM-KDX-1602-LC" | .kdx12 => "EXM-KDX-1201-LC"

def State.spd (s : State) : Nat := s.variant.spd
def State.stackCount (s : State) : Nat := 4 * s.spd
def State.portCount (s : State) : Nat := if s.variant == .kdx12 then 4 else 8
def State.dieCount (s : State) : Nat := if s.variant == .kdx12 then 5 else 6
def State.codecCount (s : State) : Nat := if s.variant == .kdx12 then 2 else 4

/-- The compute die of a unit 16d + u. -/
def unitDie (u : Nat) : Nat := u / 16

/-- The I/O die, as a die number, of a port and of a codec engine. -/
def portDie (p : Nat) : Nat := if p < 4 then 4 else 5
def codecDie (e : Nat) : Nat := if e < 2 then 4 else 5

def slotBytes : Nat := 0x4000
def feedBytes : Nat := 0x600000
def stackRange : Nat := 0x800000000
def stackBytes : Nat := 0x600000000
def slmBase : Nat := 0x10000000000
def slmRange : Nat := 0x40000000
def sliceBytes : Nat := 0x1000000

/-- Where a device physical address lies (01 Table 1.4, 12 R298). -/
inductive Region where
  | stack (n off : Nat)
  | slice (d i off : Nat)
  | none
deriving DecidableEq, Repr

/-- 12 R303: slice i of die d is a scratchpad slice. -/
def State.isScratch (s : State) (d i : Nat) : Bool := flag (s.die d).mask i

/-- 12 R300: the cache slices of a die in ascending order. -/
def State.cacheSlices (s : State) (d : Nat) : List Nat := (List.range 16).filter (fun i => !s.isScratch d i)

def State.region (s : State) (a : Nat) : Region :=
  if a < stackRange * s.stackCount then
    let n := a / stackRange
    if a % stackRange < stackBytes && (s.stack n).state != 3 then .stack n (a % stackRange) else .none
  else if 1024 ≤ a / slmRange && a / slmRange < 1028 then
    -- the region begins at 1024 ranges of a die each
    let d := a / slmRange % 1024
    let r := a % slmRange
    if r < 16 * sliceBytes && s.isScratch d (r / sliceBytes) then .slice d (r / sliceBytes) (r % sliceBytes)
    else .none
  else .none

/-! ### Memory bytes (log 7) -/

/-- What an unlisted address reads as: a free byte in a region of undefined contents, else zero. -/
def Mem.unlisted (m : Mem) (a : Nat) : Byte :=
  match m.junk.find? (fun j => j.base ≤ a && a < j.base + j.size) with
  | some j => Config.freeByte j.stamp a
  | none => 0

def cellAt (cs : List Host.Cell) (a : Nat) : Option Byte :=
  match cs with
  | [] => none
  | (k, v) :: t => bif Nat.beq k a then some v else cellAt t a

/-- The byte at an address. -/
def Mem.get (m : Mem) (a : Nat) : Byte :=
  match cellAt m.cells a with
  | some b => b
  | none => m.unlisted a

/-- Cells with the byte at one address set; a zero is not listed. -/
def putCell (a : Nat) (b : Byte) : List Host.Cell → List Host.Cell
  | [] => if b = 0 then [] else [(a, b)]
  | (k, v) :: t =>
    if k < a then (k, v) :: putCell a b t
    else if k = a then (if b = 0 then t else (a, b) :: t)
    else if b = 0 then (k, v) :: t else (a, b) :: (k, v) :: t

/-- A region with the addresses lo to hi - 1 taken out. -/
def cutJunk (lo hi : Nat) (j : Junk) : List Junk :=
  let l := j.base
  let r := j.base + j.size
  if hi ≤ l || r ≤ lo then [j]
  else
    (if l < lo then [{ j with size := lo - l }] else []) ++
    (if hi < r then [{ j with base := hi, size := r - hi }] else [])

def Mem.put (m : Mem) (a : Nat) (b : Byte) : Mem :=
  { cells := putCell a b m.cells, junk := m.junk.flatMap (cutJunk a (a + 1)) }

/-- Bytes from an address on. -/
def Mem.read (m : Mem) (a : Nat) : Nat → List Byte
  | 0 => []
  | n + 1 => m.get a :: Mem.read m (a + 1) n

def Mem.write (m : Mem) (a : Nat) : List Byte → Mem
  | [] => m
  | b :: bs => Mem.write (m.put a b) (a + 1) bs

/-- Cells outside [lo, hi). -/
def dropCells (lo hi : Nat) (cs : List Host.Cell) : List Host.Cell :=
  cs.filter (fun c => c.1 < lo || hi ≤ c.1)

/-- A region is left with contents the manual calls undefined. -/
def Mem.scramble (m : Mem) (base size stamp : Nat) : Mem :=
  { cells := dropCells base (base + size) m.cells
    junk := if size = 0 then m.junk.flatMap (cutJunk base (base + size))
      else ⟨base, size, stamp⟩ :: m.junk.flatMap (cutJunk base (base + size)) }

/-- A region reads zero. -/
def Mem.clear (m : Mem) (base size : Nat) : Mem :=
  { cells := dropCells base (base + size) m.cells, junk := m.junk.flatMap (cutJunk base (base + size)) }

/-- A region's contents, as memory from address 0 on. -/
def Mem.cutOut (m : Mem) (base size : Nat) : Mem :=
  { cells := (m.cells.filter (fun c => base ≤ c.1 && c.1 < base + size)).map (fun c => (c.1 - base, c.2))
    junk := (m.junk.flatMap (fun j =>
      let lo := max j.base base
      let hi := min (j.base + j.size) (base + size)
      if lo < hi then [{ j with base := lo - base, size := hi - lo }] else [])) }

/-- Contents put into a region. -/
def Mem.paste (m : Mem) (base size : Nat) (x : Mem) : Mem :=
  { cells := m.cells.filter (fun c => c.1 < base) ++
      (x.cells.filter (fun c => c.1 < size)).map (fun c => (c.1 + base, c.2)) ++
      m.cells.filter (fun c => base + size ≤ c.1)
    junk := x.junk.flatMap (fun j =>
        if j.base < size then [{ j with base := j.base + base, size := min j.size (size - j.base) }] else []) ++
      m.junk.flatMap (cutJunk base (base + size)) }

/-- Cells at strictly rising addresses. -/
def rising : List Host.Cell → Bool
  | [] => true
  | [_] => true
  | a :: b :: t => a.1 < b.1 && rising (b :: t)

/-- The canonical form: rising addresses, no zero, nothing listed inside a region of undefined contents. -/
def Mem.wf (m : Mem) : Bool :=
  rising m.cells && m.cells.all (fun c => c.2 != 0 && !m.junk.any (fun j => j.base ≤ c.1 && c.1 < j.base + j.size))

/-- Device memory with the contents of a region undefined. -/
def State.scrambleMem (s : State) (base size : Nat) : State :=
  let (k, s) := s.draw
  { s with mem := s.mem.scramble base size k }

/-! ### Partitions and bias (13 R311, 16 R379, R381) -/

/-- The extents of a partition: stack, first frame, frame count. -/
def State.extents (s : State) (p : Nat) : List (Nat × Nat × Nat) :=
  (s.cfgArr 0x4016 (p + 1)).map (fun w => (bits w 63 56, bits w 55 28, bits w 27 0))

def frameBytes : Nat := 0x200000

def extentBytes (e : Nat × Nat × Nat) : Nat := frameBytes * e.2.2

/-- Bytes of a partition's offset space. -/
def State.partBytes (s : State) (p : Nat) : Nat := sumN ((s.extents p).map extentBytes)

/-- R379: the device physical address of a partition offset. -/
def offsetAddr : List (Nat × Nat × Nat) → Nat → Option Nat
  | [], _ => none
  | e :: es, o =>
    if o < extentBytes e then some (stackRange * e.1 + frameBytes * e.2.1 + o) else offsetAddr es (o - extentBytes e)

/-- The partition offset of a device physical address in a list of extents. -/
def addrOffset : List (Nat × Nat × Nat) → Nat → Option Nat
  | [], _ => none
  | e :: es, a =>
    let b := stackRange * e.1 + frameBytes * e.2.1
    if b ≤ a && a < b + extentBytes e then some (a - b) else (addrOffset es a).map (· + extentBytes e)

/-- The partition whose extents hold a device physical address, and the offset. -/
def State.partOf (s : State) (a : Nat) : Option (Nat × Nat) :=
  (List.range 8).findSome? (fun p => (addrOffset (s.extents p) a).map (fun o => (p, o)))

/-- R381: the partition whose frame in host bias holds the address. -/
def State.hostBias (s : State) (a : Nat) : Option Nat :=
  match s.partOf a with
  | some (p, o) => if (s.bias.get [] p).contains (o / frameBytes) then some p else none
  | none => none

/-- 13 Table 13.2: a partition is in use. -/
def State.portMask (s : State) (p : Nat) : Nat := s.cfg 0x4010 (p + 1)

/-- The partition whose mask names a port. -/
def State.partOfPort (s : State) (i : Nat) : Option Nat :=
  (List.range 8).find? (fun p => bit (s.portMask p) i)

/-- 16 Table 16.8: the port is active (in L0, or in L1, which wakes). -/
def Port.active (p : Port) : Bool := p.state == 3 || p.state == 4

/-- The active ports of a partition in ascending order. -/
def State.activePorts (s : State) (p : Nat) : List Nat :=
  (List.range 8).filter (fun i => bit (s.portMask p) i && (s.port i).active)

/-! ### Event records (20 R459 to R461, R500) -/

/-- 20 Table 20.8: the class of a cause that has only one. -/
def causeClass (c : Nat) : Nat :=
  match c with
  | 0x1A => 5 | 0x1B => 3 | 0x1C => 2 | 0x20 => 1 | 0x21 => 4 | 0x22 => 4 | 0x23 => 2 | 0x24 => 2 | 0x25 => 2
  | 0x27 => 6 | 0x28 => 1 | 0x32 => 7 | 0x40 => 8 | 0x41 => 8 | _ => 0

/-- 20 Table 20.4, the Host column. -/
inductive HostRoute where
  /-- to no host ring -/
  | none
  /-- to the partition the record names; to no host when it names none -/
  | named
  /-- to the partition named, else module-wide -/
  | any
  /-- to every port with an event ring -/
  | wide
  /-- to the other event rings of the partition -/
  | others
deriving DecidableEq, Repr

/-- 20 Table 20.4: whether a cause goes to the log, to which hosts, and to the ring. -/
def causeRoute (c : Nat) : Bool × HostRoute × Bool :=
  if 0x11 ≤ c && c ≤ 0x19 then (false, .named, false)
  else if c = 0x1A || c = 0x1B || c = 0x1C then (true, .named, true)
  else if c = 0x20 || c = 0x21 || c = 0x22 then (true, .named, true)
  else if c = 0x23 || c = 0x25 then (true, .any, true)
  else if c = 0x24 then (true, .any, true)
  else if c = 0x26 || c = 0x27 || c = 0x29 || c = 0x30 || c = 0x31 || c = 0x32 || c = 0x51 then (true, .wide, true)
  else if c = 0x28 || c = 0x33 || c = 0x50 || c = 0x52 then (true, .none, true)
  else if c = 0x38 || c = 0x3A || c = 0x48 then (false, .named, false)
  else if c = 0x39 then (true, .named, true)
  else if c = 0x40 || c = 0x41 then (true, .others, true)
  else if c = 0x42 then (true, .named, false)
  else (true, .none, true)

/-- 20 Table 20.2: the 32 bytes of a record. -/
def EvRec.bytes (r : EvRec) : List Byte :=
  let w0 := r.cause * 2^56 + r.cls * 2^52 + r.sev * 2^49 + r.die * 2^46 + r.block * 2^40 +
    (r.part.getD 0xF) * 2^36 + (r.ctx.getD 0) * 2^22 + (r.queue.getD 0) * 2^6 +
    b2n r.ctx.isSome * 2^5 + b2n r.queue.isSome * 2^4
  let w2 := r.era.toNat * 2^48 + b2n r.carried * 2^47 + r.seq % 2^32
  natLe 8 w0 ++ natLe 8 r.lcount.toNat ++ natLe 8 w2 ++ natLe 8 r.detail.toNat

/-- 18 R439: enter a record in the log. -/
def FLog.enter (g : FLog) (r : EvRec) : FLog :=
  let es := g.entries ++ [{ r with seq := g.seq + 1 }]
  if es.length > 1024 then
    { entries := es.drop 1, seq := g.seq + 1, overwritten := satAdd 32 g.overwritten 1 }
  else { g with entries := es, seq := g.seq + 1 }

/-- 17 R407: enter a record in the ring event queue. -/
def RingSt.enter (g : RingSt) (r : EvRec) : RingSt :=
  if g.queue.length ≥ 512 then { g with dropped := satAdd 32 g.dropped 1 } else { g with queue := g.queue ++ [r] }

/-- The ring is full of records the host has not taken, as far as the KDX knows. -/
def EvRing.full (e : EvRing) : Bool := e.written - e.consumed ≥ 2 ^ e.log2n

/-- How far the host of port `p` has consumed a ring that looks full: the manual gives it no way to say (log 30). -/
def EvRing.seen (e : EvRing) (p now : Nat) : EvRing :=
  if e.full then
    { e with consumed := e.consumed + Config.eventsTaken p now (e.written + e.drops) % (e.written - e.consumed + 1) }
  else e

/-- 16 R389: one record to the event ring of a port; a full ring drops and counts it. -/
def State.toRing (s : State) (p : Nat) (r : EvRec) : State :=
  match (s.port p).evring with
  | none => s
  | some e0 =>
    let e := e0.seen p s.now
    if e.full then
      let e' := { e with drops := e.drops + 1 }
      (s.modPort p (fun x => { x with evring := some e' })).send
        (.hostWrite p e.ptr (natLe 4 e.written ++ natLe 4 e'.drops))
    else
      let e' := { e with written := e.written + 1 }
      let s := s.modPort p (fun x => { x with evring := some e' })
      let s := s.send (.hostWrite p (e.base + 32 * (e.written % 2 ^ e.log2n)) r.bytes)
      let s := s.send (.hostWrite p e.ptr (natLe 4 e'.written ++ natLe 4 e.drops))
      if e.vec = 0 then s else s.send (.msix p e.vec)

/-- The ports whose event rings take a record. -/
def State.eventPorts (s : State) (route : HostRoute) (part : Option Nat) (lost : Option Nat) : List Nat :=
  let withRing (ps : List Nat) := ps.filter (fun i => (s.port i).evring.isSome && (s.port i).active)
  let wide := withRing (List.range 8)
  match route, part with
  | .none, _ => []
  | .wide, _ => wide
  | .named, some p => (withRing (s.activePorts p)).take 1
  | .named, none => []
  | .any, some p => (withRing (s.activePorts p)).take 1
  | .any, none => wide
  | .others, some p => (withRing (s.activePorts p)).filter (fun i => some i != lost)
  | .others, none => []

/-- R459: report a record: its time stamps, the log, the host event rings and the ring event queue. `lost`
is the port a link loss names. -/
def State.raise (s : State) (r : EvRec) (lost : Option Nat := none) : State :=
  let (lg, host, rg) := causeRoute r.cause
  let t := if r.die ≥ 6 then 4 else r.die
  let r := { r with
    lcount := s.clock.localc.get 0 t, era := s.clock.era.get 0 t,
    cls := if r.cls = 0 then causeClass r.cause else r.cls,
    seq := if lg then s.log.seq + 1 else 0 }
  let s := if lg then { s with log := s.log.enter r } else s
  let s := if rg then { s with ring := s.ring.enter r } else s
  (s.eventPorts host r.part lost).foldl (fun s p => s.toRing p r) s

/-- 20 Table 20.5: the launch record. -/
def launchRecord (iaddr cause unit lidx more lseq : Nat) : W64 :=
  BitVec.ofNat 64 ((iaddr % 2^15) * 2^49 + (cause % 2^8) * 2^41 + (unit % 64) * 2^35 + (lidx % 64) * 2^29 +
    min more 255 * 2^21 + lseq % 2^21)

/-- 20 R500: detail of a record that names a stack address: pseudo-channel, bank, stack, address (12 R291). -/
def stackDetail (a : Nat) : W64 :=
  let off := a % stackRange
  let pc := bits off 13 9 ^^^ bits off 19 15 ^^^ bits off 24 20
  let bk := bits off 19 15 ^^^ bits off 29 25 ^^^ bits off 34 30
  BitVec.ofNat 64 (pc * 2^59 + bk * 2^54 + (a / stackRange) * 2^48 + a % 2^48)

/-! ### The SEC-DED code (12 R305, R306) -/

/-- 12 Table 12.5. -/
def checkMasks : List (BitVec 32) :=
  [0x00001FFF#32, 0x007FE00F#32, 0x1F81E0F0#32, 0x638E2311#32, 0xACB24D22#32, 0xD5549644#32, 0xFA691888#32]

def parity (n : Nat) : Nat → Bool
  | 0 => false
  | w + 1 => xor (bit n w) (parity n w)

/-- Check bits of a data word. -/
def checkBits (d : BitVec 32) : Nat :=
  leBits (checkMasks.map (fun m => parity (d &&& m).toNat 32))
where
  leBits : List Bool → Nat
    | [] => 0
    | b :: t => b2n b + 2 * leBits t

/-- The syndrome of a codeword. -/
def syndrome (c : BitVec 39) : Nat := fld c 38 32 ^^^ checkBits (BitVec.ofNat 32 (fld c 31 0))

/-- 12 Table 12.6. -/
inductive Synd where
  | clean
  | check (i : Nat)
  | data (j : Nat)
  | detected (s : Nat)
deriving DecidableEq, Repr

/-- The column of data bit j. -/
def column (j : Nat) : Nat := checkBits (BitVec.ofNat 32 (2 ^ j))

def decodeSynd (s : Nat) : Synd :=
  if s = 0 then .clean
  else
    match (List.range 7).find? (fun i => s == 2 ^ i) with
    | some i => .check i
    | none =>
      match (List.range 32).find? (fun j => s == column j) with
      | some j => .data j
      | none => .detected s

/-- What a read of a word whose codeword differs by `mask` from the good one meets: the code is linear, so the
syndrome is that of the difference. -/
def upsetSynd (mask : BitVec 39) : Synd := decodeSynd (syndrome mask)

def Synd.isDetected : Synd → Bool
  | .detected _ => true
  | _ => false

/-- 20 R462: corrections from second k of the reference counter on; the second before it has ended, and is to be reported where
it had more than 1,000. -/
def Die.intoSecond (x : Die) (k : Nat) : Die :=
  if k ≤ x.markSec then x
  else
    let n := x.corrected - x.corrMark
    { x with markSec := k, corrMark := x.corrected, corrDue := if n > 1000 then x.corrDue ++ [n] else x.corrDue }

/-- Corrected words of a die, counted (OD 0x5050). -/
def State.correct (s : State) (d n : Nat) : State :=
  s.modDie d (fun x =>
    let x := x.intoSecond (s.now / secCounts 1)
    { x with corrected := satAdd 32 x.corrected n })

/-- Result of reading SRAM words lo to hi of a block: the first detected error as word index and syndrome. -/
def State.sramRead (s : State) (d block lo hi : Nat) : State × Option (Nat × Nat) :=
  let here := (s.die d).badWords.filter (fun w => w.1 == block && lo ≤ w.2.1 && w.2.1 ≤ hi)
  let corr := here.filter (fun w => !(upsetSynd w.2.2).isDetected && w.2.2 != 0)
  let s := if corr.isEmpty then s else s.correct d corr.length
  match here.find? (fun w => (upsetSynd w.2.2).isDetected) with
  | some w => (s.modDie d (fun x => { x with detected := satAdd 32 x.detected 1 }), some (w.2.1, syndrome w.2.2))
  | none => (s, none)

/-- Whole words lo to hi of a block are rewritten: nothing bad is left in them. -/
def State.sramWrite (s : State) (d block lo hi : Nat) : State :=
  if (s.die d).badWords.isEmpty then s
  else s.modDie d (fun x =>
    { x with badWords := x.badWords.filter (fun w => !(w.1 == block && lo ≤ w.2.1 && w.2.1 ≤ hi)) })

/-- Word index in an MU block of the first word of its pair's instruction store: the feed store words come first (log 31). -/
def istoreBase : Nat := 0x180000

/-- The words of a pair's instruction store are written anew (20 Table 20.6). -/
def State.rewriteIstore (s : State) (u : Nat) : State :=
  s.sramWrite (unitDie u) (u % 16) istoreBase (istoreBase + 32767)

/-- 20 Table 20.4, cause 0x20. -/
def sramRecord (d block idx synd : Nat) (part ctx queue : Option Nat) (sev : Nat := 2) : EvRec :=
  { cause := 0x20, sev, die := d, block, part, ctx, queue, detail := BitVec.ofNat 64 (synd + idx * 256),
    cls := if d = 4 && block = 48 then 9 else 1 }

/-- 20 Table 20.4, causes 0x23 to 0x25: a record that names a stack address. -/
def State.hbmRecord (s : State) (cause sev a : Nat) (part ctx queue : Option Nat) : EvRec :=
  { cause, sev, die := a / stackRange / s.spd, block := 27, part, ctx, queue, detail := stackDetail a }

end Sys2Proof.Machine
end

