-- ==== Sys2Proof/Machine/Access.lean ====
section
/-! DEFINITION. Accesses to device memory and through a context: the home cache of each die (12 R287, R300 to
R302), uncorrectable halves and poison (R302, R499), write queues (R296), scratch slices, host bias (16
R381), page tables (13 R315, R316) and host leaves (16 R383). -/
namespace Sys2Proof.Machine

/-- How an access ends. `hbm cls a` is uncorrectable data at device address a, found by a class of 20
Table 20.1; `sram` names a block's word with a detected error and its syndrome. -/
inductive AccR where
  | ok
  | unmapped
  | hbm (cls : Nat) (a : Nat)
  | sram (d block idx synd : Nat)
deriving DecidableEq, Repr

/-! ### Pieces of an access -/

/-- The pieces of [a, a + n) that lie in one 256-byte line each: address and length. -/
def spansF : Nat → Nat → Nat → List (Nat × Nat)
  | 0, _, _ => []
  | fuel + 1, a, n =>
    if n = 0 then []
    else
      let k := min n (256 - a % 256)
      (a, k) :: spansF fuel (a + k) (n - k)

def spans (a n : Nat) : List (Nat × Nat) := spansF (n / 256 + 2) a n

/-- Sectors (or halves) 0 to 7 of a line that a piece touches, and those it covers whole. -/
def touched (a n : Nat) : List Nat :=
  (List.range 8).filter (fun i => a % 256 < 32 * (i + 1) && 32 * i < a % 256 + n)
def covered (a n : Nat) : List Nat :=
  (List.range 8).filter (fun i => a % 256 ≤ 32 * i && 32 * (i + 1) ≤ a % 256 + n)

/-! ### Write queues (12 R296) -/

/-- Pseudo-channel of a stack offset (12 R291). -/
def pseudoOf (off : Nat) : Nat := bits off 13 9 ^^^ bits off 19 15 ^^^ bits off 24 20
def bankOf (off : Nat) : Nat := bits off 19 15 ^^^ bits off 29 25 ^^^ bits off 34 30

/-- 12 Table 12.4: transfers to a stack: parity retries are counted. -/
def Stack.drain (k : Stack) (n : Nat) : Stack :=
  { k with transfers := k.transfers + 1, parity := satAdd 32 k.parity ((Config.hbmTrouble n k.transfers).2 % 5) }

/-- A write or write-back is accepted into its pseudo-channel's queue of 128 entries; a full queue turns to
writes first. -/
def State.queueWrite (s : State) (a n : Nat) : State :=
  let k := a / stackRange * 32 + pseudoOf (a % stackRange)
  let es := s.wq.get [] k
  let full := es.length ≥ 128
  let es := if full then [] else es
  let s := if full then s.modStack (a / stackRange) (fun x => x.drain (a / stackRange)) else s
  { s with wq := s.wq.put k (es ++ [⟨a, n, s.clock.refc⟩]) }

/-! ### Uncorrectable halves (12 R499) -/

/-- Halves of the line at stack offset `base` (a multiple of 256) that are uncorrectable, as a mark byte. -/
def badMarks (bad : List Nat) (base : Nat) : Byte :=
  (List.range 8).foldl (fun m i => if bad.contains (base / 32 + i) then m ||| BitVec.ofNat 8 (2 ^ i) else m) 0

/-- Halves of a line written whole lose their uncorrectable severity. -/
def Stack.heal (k : Stack) (base : Nat) (is : List Nat) : Stack :=
  { k with bad := k.bad.filter (fun h => !(is.any (fun i => base / 32 + i == h))) }

/-! ### The cache (12 R300 to R302) -/

/-- Slice and set of a line, given the cache slices of the home die. -/
def cachePos (ks : List Nat) (line : Nat) : Nat × Nat :=
  let h := bits line 23 12 ^^^ bits line 31 24
  (ks.getD (h % ks.length) 0, bits line 11 0)

/-- Tree pseudo-LRU: bit 0 of a node sends the victim to its lower half. The manual fixes no coding (log 6). -/
def plruVictim (t : BitVec 15) : Nat :=
  let step (p : Nat × Nat) : Nat × Nat :=
    let b := b2n (flag t p.1)
    (2 * p.1 + 1 + b, 2 * p.2 + b)
  (step (step (step (step (0, 0))))).2

/-- Each node on a way's path turns away from the way. -/
def plruTouch (t : BitVec 15) (w : Nat) : BitVec 15 :=
  let step (x : BitVec 15 × Nat) (i : Nat) : BitVec 15 × Nat :=
    let b := bit w (3 - i)
    let m : BitVec 15 := BitVec.ofNat 15 (2 ^ x.2)
    (if b then x.1 &&& ~~~m else x.1 ||| m, 2 * x.2 + 1 + b2n b)
  ((List.range 4).foldl step (t, 0)).1

def Cache.lookup (c : Cache) (sl set line : Nat) : Option CLine :=
  c.lines.find? (fun l => l.slice == sl && l.set == set && l.line == line)

/-- Replace the line in a way. -/
def Cache.store (c : Cache) (l : CLine) : Cache :=
  { lines := l :: c.lines.filter (fun x => !(x.slice == l.slice && x.set == l.set && x.way == l.way)),
    plru := c.plru.put (l.slice * 4096 + l.set) (plruTouch (c.plru.get 0 (l.slice * 4096 + l.set)) l.way) }

/-- The way a fill takes: an empty way if the set has one, else the pseudo-LRU victim. -/
def Cache.wayFor (c : Cache) (sl set : Nat) : Nat :=
  let used := (c.lines.filter (fun l => l.slice == sl && l.set == set)).map (·.way)
  match (List.range 16).find? (fun w => !used.contains w) with
  | some w => w
  | none => plruVictim (c.plru.get 0 (sl * 4096 + set))

/-- Write a dirty line back: its clean sectors reach the stack, poisoned ones do not (R302). -/
def State.writeBack (s : State) (l : CLine) : State :=
  if !l.dirty then s
  else
    let a := l.line * 256
    let good := (List.range 8).filter (fun i => !flag l.poison i)
    (s.modStack (a / stackRange) (fun k => k.heal (a % stackRange) good)).queueWrite a 256

/-- 12 Table 12.4: a read of a stack: bursts of corrected severity and parity retries are counted. -/
def Stack.transfer (k : Stack) (n : Nat) : Stack :=
  let t := Config.hbmTrouble n k.transfers
  { k with transfers := k.transfers + 1, corrected := satAdd 32 k.corrected (t.1 % 5), parity := satAdd 32 k.parity (t.2 % 5) }

def State.transfer (s : State) (n : Nat) : State := s.modStack n (fun k => k.transfer n)

def State.cache (s : State) (d : Nat) : Cache := s.caches.get {} d

/-- Put a line into its set, writing back what it displaces. -/
def State.cacheFill (s : State) (d sl set line : Nat) (dirty : Bool) (poison : Byte) : State :=
  let c := s.cache d
  let w := c.wayFor sl set
  let s := match c.lines.find? (fun l => l.slice == sl && l.set == set && l.way == w) with
    | some v => s.writeBack v
    | none => s
  let older := if dirty then s.mem.cutOut (256 * line) 256 else {}
  { s with caches := s.caches.put d (c.store ⟨sl, set, w, line, dirty, poison, older⟩) }

/-- A sector of a line is marked poisoned in the cache of the die that homes its stack. -/
def State.poisonedAt (s : State) (a : Nat) : Bool :=
  match s.region a with
  | .stack n _ => (s.cache (n / s.spd)).lines.any (fun l => l.line == a / 256 && flag l.poison (a % 256 / 32))
  | _ => false

/-- 20 Table 20.8: an operation that started in state s met uncorrectable stack data, and not a sector poisoned earlier,
where the fill that poisoned the sector was its own. -/
def State.ownFill (s : State) : AccR → AccR
  | .hbm cls a => .hbm (if s.poisonedAt a then cls else 2) a
  | r => r

/-- One read or write of a piece within a line of a stack, on tags and marks only: `wr` says a write. A fill that
meets uncorrectable data counts as one uncorrectable read of the stack (log 78). -/
def State.stackTouch (s : State) (n off a len : Nat) (wr : Bool) : State × AccR :=
  let d := n / s.spd
  let ks := s.cacheSlices d
  let k := s.stack n
  let base := off - off % 256
  let bad := badMarks k.bad base
  let need := touched a len
  let whole := covered a len
  let part := need.filter (fun i => !whole.contains i)
  let meets (m : Byte) (is : List Nat) := is.find? (fun i => flag m i)
  let addrOf (i : Nat) := a - a % 256 + 32 * i
  let count (s : State) := s.modStack n (fun x => { x with uncorrectable := satAdd 32 x.uncorrectable 1 })
  let countFill (s : State) := s.modStack n (fun x => { x with uncorrectable := satAdd 32 x.uncorrectable (b2n (bad != 0)) })
  if ks.isEmpty || (s.hostBias a).isSome then
    let s := if wr && part.isEmpty then s else s.transfer n
    if wr then
      match meets bad part with
      | some i => (count s, .hbm 2 (addrOf i))
      | none => ((s.modStack n (fun x => x.heal base whole)).queueWrite a len, .ok)
    else
      match meets bad need with
      | some i => (count s, .hbm 2 (addrOf i))
      | none => (s, .ok)
  else
    let line := a / 256
    let (sl, set) := cachePos ks line
    let c := s.cache d
    match c.lookup sl set line with
    | some l =>
      let is := if wr then part else need
      match meets l.poison is with
      | some i => (s, .hbm 1 (addrOf i))
      | none =>
        let p := if wr then whole.foldl (fun m i => m &&& ~~~(BitVec.ofNat 8 (2 ^ i))) l.poison else l.poison
        let older := if wr && !l.dirty then s.mem.cutOut (256 * line) 256 else l.older
        ({ s with caches := s.caches.put d (c.store { l with dirty := l.dirty || wr, poison := p, older }) }, .ok)
    | none =>
      if wr && len = 256 then (s.cacheFill d sl set line true 0, .ok)
      else
        let s := s.transfer n
        let is := if wr then part else need
        match meets bad is with
        | some i => (countFill (s.cacheFill d sl set line false bad), .hbm 2 (addrOf i))
        | none =>
          let p := if wr then whole.foldl (fun m i => m &&& ~~~(BitVec.ofNat 8 (2 ^ i))) bad else bad
          (countFill (s.cacheFill d sl set line wr p), .ok)

/-- Block number and word index of a byte of a scratch slice (12 R308). -/
def sliceWord (i off : Nat) : Nat := 4194304 * i + off / 4

/-- One piece of a device access on tags, marks and protection. `unit` is set for an access of a unit of the
module, which reaches a host-bias frame through a port (16 Table 16.4). -/
def State.devTouch (s : State) (a len : Nat) (wr unit : Bool) : State × AccR :=
  match s.region a, s.region (a + len - 1) with
  | .stack n off, .stack _ _ =>
    match s.hostBias a with
    | some p => if unit && (s.activePorts p).isEmpty then (s, .unmapped) else s.stackTouch n off a len wr
    | none => s.stackTouch n off a len wr
  | .slice d i off, .slice _ _ _ =>
    let lo := sliceWord i off
    let hi := sliceWord i (off + len - 1)
    if wr then
      let (s, e) := if off % 4 = 0 then (s, none) else s.sramRead d 26 lo lo
      let (s, e) := if e.isSome || (off + len) % 4 = 0 then (s, e) else s.sramRead d 26 hi hi
      match e with
      | some (idx, sy) => (s, .sram d 26 idx sy)
      | none => (s.sramWrite d 26 lo hi, .ok)
    else
      match s.sramRead d 26 lo hi with
      | (s, some (idx, sy)) => (s, .sram d 26 idx sy)
      | (s, none) => (s, .ok)
  | _, _ => (s, .unmapped)

/-- Read device memory. -/
def State.devReadF (s : State) (unit : Bool) : List (Nat × Nat) → State × AccR × List Byte
  | [] => (s, .ok, [])
  | (a, n) :: t =>
    match s.devTouch a n false unit with
    | (s, .ok) =>
      let bs := s.mem.read a n
      let (s, r, rest) := State.devReadF s unit t
      (s, r, bs ++ rest)
    | (s, e) => (s, e, [])

def State.devRead (s : State) (a n : Nat) (unit : Bool := true) : State × AccR × List Byte :=
  s.devReadF unit (spans a n)

/-- Write device memory; a piece that faults writes nothing and ends the access. -/
def State.devWriteF (s : State) (unit : Bool) : List (Nat × Nat) → List Byte → State × AccR
  | [], _ => (s, .ok)
  | (a, n) :: t, bs =>
    match s.devTouch a n true unit with
    | (s, .ok) => State.devWriteF { s with mem := s.mem.write a (bs.take n) } unit t (bs.drop n)
    | (s, e) => (s, e)

def State.devWrite (s : State) (a : Nat) (bs : List Byte) (unit : Bool := true) : State × AccR :=
  s.devWriteF unit (spans a bs.length) bs

/-- Flush the cache lines that meet a test: dirty ones are written back, all are invalidated. -/
def State.flushWhere (s : State) (d : Nat) (p : CLine → Bool) : State :=
  let c := s.cache d
  let s := (c.lines.filter p).foldl State.writeBack s
  { s with caches := s.caches.put d { c with lines := c.lines.filter (fun l => !p l) } }

def State.flush (s : State) (d : Nat) : State := s.flushWhere d (fun _ => true)

/-! ### Page tables (13 R315, R316) -/

/-- What a leaf maps. -/
inductive Loc where
  | dev (a : Nat)
  | host (port a : Nat)
deriving DecidableEq, Repr

/-- The physical address of an offset in an allocation's runs. -/
def runAddr : List (Nat × Nat) → Nat → Option Nat
  | [], _ => none
  | (b, n) :: t, o => if o < n then some (b + o) else runAddr t (o - n)

/-- The leaf of an offset of an allocation. -/
def Alloc.loc (al : Alloc) (o : Nat) : Option Loc :=
  match al.kind with
  | .device _ => (runAddr al.runs o).map .dev
  | .host p a => some (.host p (a + o))
  | .slice d i => some (.dev (slmBase + slmRange * d + sliceBytes * i + o))

/-- Table 13.3: a page table entry. KIND: 0 a table pointer, 1 a device leaf, 2 a host leaf. -/
structure Pte where
  v : Bool := false
  kind : Nat := 0
  wr : Bool := false
  slm : Bool := false
  port : Nat := 0
  addr : Nat := 0
deriving DecidableEq, Repr

/-- Table 13.3: its 64 bits. -/
def Pte.word (e : Pte) : W64 :=
  BitVec.ofNat 64 (b2n e.v * 2^63 + e.kind % 4 * 2^61 + b2n e.wr * 2^60 + b2n e.slm * 2^59 + e.port % 8 * 2^56 +
    e.addr / 2^16 % 2^36 * 2^16)

/-- R315: bytes of the address space that one entry of a level's table covers. -/
def pageSpan (level : Nat) : Nat :=
  if level = 1 then 2^39 else if level = 2 then 2^30 else if level = 3 then 2^21 else 2^16

/-- The key of the table of a level that covers an address (its 512 entries, or 32 at level 4). -/
def tableKey (level va : Nat) : Nat := level * 2^48 + (if level = 1 then 0 else va / pageSpan (level - 1))

/-- The leaf that maps a page of an allocation. -/
def Alloc.leaf (al : Alloc) (page : Nat) : Pte :=
  let wr := al.wr && !al.locked
  match al.loc (page - al.va) with
  | some (.dev a) => { v := true, kind := 1, wr, slm := (match al.kind with | .slice _ _ => true | _ => false), addr := a }
  | some (.host p a) => { v := true, kind := 2, wr, port := p, addr := a }
  | none => {}

/-- R315: the entry for an address in the context's table of a level: a leaf of an allocation at level 4, and at level 3 of
one with 2 MiB pages; a pointer where an allocation lies below; else invalid. -/
def Ctx.pte (c : Ctx) (level va : Nat) : Pte :=
  let n := pageSpan level
  let b := va / n * n
  let here := c.allocs.filter (fun e => e.2.va < b + n && b < e.2.va + e.2.size)
  match here.find? (fun e => level == 4 || (level == 3 && e.2.page == 0x200000)) with
  | some (_, al) => al.leaf b
  | none =>
    if here.isEmpty || level == 4 then {} else { v := true, addr := c.tables.get 0 (tableKey (level + 1) b) }

/-- R315: the walk from a level downward. -/
def Ctx.walkF (c : Ctx) (va : Nat) : List Nat → Option (Loc × Bool)
  | [] => none
  | l :: ls =>
    let e := c.pte l va
    if !e.v then none
    else if e.kind = 0 then Ctx.walkF c va ls
    else if e.kind = 1 then some (.dev (e.addr + va % pageSpan l), e.wr)
    else some (.host e.port (e.addr + va % pageSpan l), e.wr)

/-- R315, R316: what the leaf of a virtual address maps it on, and whether it may be written. -/
def Ctx.walk (c : Ctx) (va : Nat) : Option (Loc × Bool) :=
  if va < 2^48 then c.walkF va [1, 2, 3, 4] else none

/-- Read through a context. -/
def State.ctxReadF (s : State) (c : Ctx) : List (Nat × Nat) → State × AccR × List Byte
  | [] => (s, .ok, [])
  | (va, n) :: t =>
    match c.walk va with
    | none => (s, .unmapped, [])
    | some (.host p a, _) =>
      if !(s.port p).active then (s, .unmapped, [])
      else
        let (k, s) := s.draw
        let bs := (List.range n).map (fun i => Config.hostByte k p (a + i))
        let (s, r, rest) := State.ctxReadF s c t
        (s, r, bs ++ rest)
    | some (.dev a, _) =>
      match s.devRead a n with
      | (s, .ok, bs) =>
        let (s, r, rest) := State.ctxReadF s c t
        (s, r, bs ++ rest)
      | (s, e, _) => (s, e, [])

def State.ctxRead (s : State) (c : Ctx) (va n : Nat) : State × AccR × List Byte := s.ctxReadF c (spans va n)

/-- Write through a context; pieces before one that faults stay written (06 R175). -/
def State.ctxWriteF (s : State) (c : Ctx) : List (Nat × Nat) → List Byte → State × AccR
  | [], _ => (s, .ok)
  | (va, n) :: t, bs =>
    match c.walk va with
    | none => (s, .unmapped)
    | some (l, w) =>
      if !w then (s, .unmapped)
      else
        match l with
        | .host p a =>
          if !(s.port p).active then (s, .unmapped)
          else State.ctxWriteF (s.send (.hostWrite p a (bs.take n))) c t (bs.drop n)
        | .dev a =>
          match s.devWrite a (bs.take n) with
          | (s, .ok) => State.ctxWriteF s c t (bs.drop n)
          | (s, e) => (s, e)

def State.ctxWrite (s : State) (c : Ctx) (va : Nat) (bs : List Byte) : State × AccR :=
  s.ctxWriteF c (spans va bs.length) bs

/-! ### Feed stores (03 R75, 12 R306) -/

/-- Feed-store bytes of a unit, with the check of the words they lie in. -/
def State.feedRead (s : State) (u a n : Nat) : State × AccR × List Byte :=
  let d := unitDie u
  match s.sramRead d (u % 16) (a / 4) ((a + n - 1) / 4) with
  | (s, some (idx, sy)) => (s, .sram d (u % 16) idx sy, [])
  | (s, none) => (s, .ok, (s.mu u).feed.read a n)

def State.feedWrite (s : State) (u a : Nat) (bs : List Byte) : State :=
  let s := s.sramWrite (unitDie u) (u % 16) (a / 4) ((a + bs.length - 1) / 4)
  s.modMu u (fun m => { m with feed := m.feed.write a bs })

/-- 12 R306: a write reads the words that it covers in part. -/
def State.feedEdges (s : State) (u a n : Nat) : State × AccR :=
  let d := unitDie u
  let b := u % 16
  let e := if a % 4 = 0 then (s, none) else s.sramRead d b (a / 4) (a / 4)
  let e := if e.2.isSome || (a + n) % 4 = 0 then e else e.1.sramRead d b ((a + n) / 4) ((a + n) / 4)
  match e with
  | (s, some (idx, sy)) => (s, .sram d b idx sy)
  | (s, none) => (s, .ok)

/-- A feed-store write that may begin or end inside a word. -/
def State.feedPut (s : State) (u a : Nat) (bs : List Byte) : State × AccR :=
  if bs.isEmpty then (s, .ok)
  else
    match s.feedEdges u a bs.length with
    | (s, .ok) => (s.feedWrite u a bs, .ok)
    | r => r

/-- Presence token of a slot. -/
def MUnit.tok (m : MUnit) (i : Nat) : Bool := m.toks.get false i

/-- Set the tokens of slots lo to lo + n - 1. -/
def MUnit.setToks (m : MUnit) (lo n : Nat) (v : Bool) : MUnit :=
  { m with toks := (List.range n).foldl (fun t i => if v then t.put (lo + i) true else t.del (lo + i)) m.toks }

end Sys2Proof.Machine
end

