-- ==== Sys2Proof/Machine/Items.lean ====
section
/-! DEFINITION. How items and launches end: completion records (13 R321, 16 R387), signals (13 R323), halts (R322),
the abort of a launch (06 R175, 20 R461) and the release of what it held. -/
namespace Sys2Proof

/-! ### The transport block (16 Table 16.5) -/

def Transport.sqbase (t : Transport) : Nat := fld t.w0 47 0
def Transport.cqbase (t : Transport) : Nat := fld t.w1 47 0
def Transport.ptrs (t : Transport) : Nat := fld t.w2 47 0
def Transport.sqlog (t : Transport) : Nat := fld t.w3 63 59
def Transport.cqlog (t : Transport) : Nat := fld t.w3 58 54
def Transport.vec (t : Transport) : Nat := fld t.w3 53 43
def Transport.ccnt (t : Transport) : Nat := fld t.w3 42 35
def Transport.ctime (t : Transport) : Nat := fld t.w3 34 25

/-- A transport block has been installed. -/
def Transport.set (t : Transport) : Bool := t.w3 != 0

end Sys2Proof

namespace Sys2Proof.Machine

/-! ### Semaphores (13 R323) -/

/-- Raise VALUE, and FAILED when the signal is of an item that did not complete. -/
def Sem.raise (k : Sem) (v : W64) (failed : Bool) : Sem :=
  { k with value := if k.value < v then v else k.value
           failed := if failed && k.failed < v then v else k.failed }

/-- 13 Table 13.8: the statuses that complete an item. -/
def completed (st : Nat) : Bool := st == 0 || st == 1

/-- An object of a partition. -/
def State.semOf (s : State) (p k : Nat) : Option Sem :=
  match s.sems.find k with
  | some m => if m.part == p then some m else none
  | none => none

/-- The signal of an item of partition p that ends; another partition's object is none of its (R312). -/
def State.signalEnd (s : State) (p : Nat) (h : Header) (st : Nat) : State :=
  if h.sv then s.modSem h.ssem (fun k => if k.part == p then k.raise h.sval (!completed st) else k) else s

/-! ### The completion ring (16 Table 16.5, R387) -/

/-- Write bytes of a queue's rings: through its context, or to the host of an admin queue's port. -/
def State.ringWrite (s : State) (q : Queue) (a : Nat) (bs : List Byte) : State :=
  match q.ctx with
  | none => s.send (.hostWrite q.port a bs)
  | some c =>
    match s.ctxs.find c with
    | some cx => (s.ctxWrite cx a bs).1
    | none => s

/-- 13 R321: the 16 bytes of a completion record. -/
def recordBytes (tag : W32) (st code : Nat) (v : W64) : List Byte :=
  natLe 8 (tag.toNat * 2^32 + st % 256 * 2^24 + code % 256 * 2^16) ++ natLe 8 v.toNat

/-- Write one record, then the pointer word, then an interrupt when CCNT records are unsignalled. -/
def State.writeRecord (s : State) (q : Nat) (r : W32 × Nat × Nat × W64) : State :=
  match s.queues.find q with
  | none => s
  | some qu =>
    let s := s.send (.completion q r.1 r.2.1 r.2.2.1 r.2.2.2)
    if !qu.tr.set then s.modQueue q (fun x => { x with written := x.written + 1 })
    else
      let s := s.ringWrite qu (qu.tr.cqbase + 16 * (qu.written % 2 ^ qu.tr.cqlog))
        (recordBytes r.1 r.2.1 r.2.2.1 r.2.2.2)
      let s := s.ringWrite qu qu.tr.ptrs (natLe 4 (qu.written + 1) ++ natLe 4 qu.head)
      let n := qu.unsig + 1
      let due := qu.tr.vec != 0 && n ≥ qu.tr.ccnt
      let s := s.modQueue q (fun x => { x with
        written := x.written + 1, unsig := if due then 0 else n,
        unsigAt := if qu.unsig = 0 then s.clock.refc else x.unsigAt })
      if due then s.send (.msix qu.port qu.tr.vec) else s

/-- The completion ring has room for a record. -/
def Queue.roomy (q : Queue) : Bool := !q.tr.set || q.written - q.consumed < 2 ^ q.tr.cqlog

/-- A record is written, or waits until the host has consumed enough. -/
def State.record (s : State) (q : Nat) (r : W32 × Nat × Nat × W64) : State :=
  match s.queues.find q with
  | none => s
  | some qu =>
    if qu.roomy && qu.waitRecs.isEmpty then s.writeRecord q r
    else s.modQueue q (fun x => { x with waitRecs := x.waitRecs ++ [r] })

/-- Write the records that wait, as far as the ring has room. -/
def State.drainRecordsF (s : State) (q : Nat) : Nat → State
  | 0 => s
  | n + 1 =>
    match s.queues.find q with
    | none => s
    | some qu =>
      match qu.waitRecs with
      | [] => s
      | r :: rest =>
        if qu.roomy then
          State.drainRecordsF ((s.modQueue q (fun x => { x with waitRecs := rest })).writeRecord q r) q n
        else s

def State.drainRecords (s : State) (q : Nat) : State :=
  s.drainRecordsF q (((s.queues.find q).map (fun x => x.waitRecs.length)).getD 0)

/-! ### Ending an item (13 R320 to R324) -/

def Queue.item (q : Queue) (id : Nat) : Option QItem := q.items.find? (fun i => i.id == id)

def State.item (s : State) (q id : Nat) : Option QItem := (s.queues.find q).bind (fun x => x.item id)

def State.modItem (s : State) (q id : Nat) (f : QItem → QItem) : State :=
  s.modQueue q (fun x => { x with items := x.items.map (fun i => if i.id == id then f i else i) })

/-- R317: the attributes an item runs under. -/
def QItem.attrsIn (i : QItem) (qu : Queue) : QAttrs := i.attrs.getD qu.attrs

/-- R334: the reference counter has reached the item's deadline. -/
def State.late (s : State) (qu : Queue) (i : QItem) : Bool :=
  i.hdr.dline != 0 && (i.attrsIn qu).cls == 0 && i.hdr.dline ≤ s.clock.refc

/-- R334: the record of a miss. -/
def State.missRecord (s : State) (q : Nat) (qu : Queue) : EvRec :=
  { cause := 0x38, part := some qu.part, ctx := qu.ctx, queue := some q, detail := s.clock.refc }

/-- R334: an item that ends past its deadline has missed; what was not reported is reported now. -/
def State.noteLate (s : State) (q id : Nat) : State :=
  match s.queues.find q with
  | none => s
  | some qu =>
    match qu.item id with
    | some it => if s.late qu it && !it.missed then s.raise (s.missRecord q qu) else s
    | none => s

/-- 14 R348: what the governor keeps of a latency-critical queue's last completed item. -/
def State.keepHistory (s : State) (q : Nat) (it : QItem) (st : Nat) : State :=
  match s.queues.find q with
  | some qu =>
    if (it.attrsIn qu).cls = 0 && completed st then
      { s with gov := { s.gov with hist := s.gov.hist.put q (s.now - it.startedAt.toNat, it.lowPace) } }
    else s
  | none => s

/-- End an item: its history, its removal and a halt under FPOL 1 (R322), its signal (R323) and its record
(R321). An entry of a command list ends without a record of its own (log 21). A failed entry's ending is kept
for its REPLAY item. -/
def State.endItem (s : State) (q id st code : Nat) (v : W64) : State :=
  match s.item q id with
  | none => s
  | some it =>
    let s := s.keepHistory q it st
    let halts := st == 2 || st == 3 || st == 6 || st == 8
    let s := s.modQueue q (fun x => { x with
      items := x.items.filter (fun i => i.id != id),
      halted := x.halted || (halts && (it.attrsIn x).fpol == 1) })
    let s := match s.queues.find q with | some x => s.signalEnd x.part it.hdr st | none => s
    match it.parent with
    | none => s.record q (it.hdr.tag, st, code, v)
    | some (p, _) =>
      if completed st then s
      else s.modItem q p (fun i => if i.forced.isSome then i else { i with forced := some (st, code, v) })

/-- The lists whose replay a given item runs. -/
def State.closeReplay (s : State) (q id : Nat) : State :=
  { s with lists := s.lists.map (fun e =>
      if e.2.queue == q && e.2.running == some id then (e.1, { e.2 with running := none }) else e) }

/-- The status of an item that is done: 1 after its deadline, but for one that DPOL 1 drops (13 Table 13.8); a codec frame
that is done had started before it passed (15 R371). -/
def State.doneStatus (s : State) (qu : Queue) (it : QItem) : Nat :=
  let frame := match it.body with | .codecFrame _ => true | _ => false
  if !(it.missed || s.late qu it) then 0 else if (it.attrsIn qu).dpol == 1 && !frame then 6 else 1

/-- A REPLAY that runs its list ends when no entry of it is left in the queue. -/
def State.endReplays (s : State) (q : Nat) : State :=
  match s.queues.find q with
  | none => s
  | some qu =>
    match qu.items.find? (fun i => i.st == .started &&
        s.lists.any (fun e => e.2.queue == q && e.2.running == some i.id) &&
        !qu.items.any (fun j => match j.parent with | some (p, _) => p == i.id | none => false)) with
    | none => s
    | some i =>
      let s := (s.closeReplay q i.id).noteLate q i.id
      match i.forced with
      | some (st, code, v) => s.endItem q i.id st code v
      | none => s.endItem q i.id (s.doneStatus qu i) 0 0

/-- End an item and the REPLAY it completes. -/
def State.finishItem (s : State) (q id st code : Nat) (v : W64) : State :=
  ((s.noteLate q id).endItem q id st code v).endReplays q

/-- End a started item as done, or with the ending forced on it. -/
def State.doneItem (s : State) (q id : Nat) (v : W64) : State :=
  match s.queues.find q with
  | none => s
  | some qu =>
    match qu.item id with
    | some it =>
      match it.forced with
      | some (st, code, w) => s.finishItem q id st code w
      | none => s.finishItem q id (s.doneStatus qu it) 0 v
    | none => s

/-- Refuse an item: STATUS 2, nothing changed. -/
def State.refuseItem (s : State) (q id code : Nat) : State := s.finishItem q id 2 code 0

/-! ### Launches (13 R319, R327; 05 R129; 06 R175) -/

/-- A context has worked on a die in this gate period, at a class (13 R327, 14 R351). -/
def State.noteWork (s : State) (d c : Nat) (lc : Bool) : State :=
  s.modDie d (fun x => { x with worked := if x.worked.contains (c, lc) then x.worked else (c, lc) :: x.worked })

/-- 13 R327: account a launch's pair time since it was dispatched to the class it ran at. -/
def State.accountPair (s : State) (l : Launch) : State :=
  let ns := 10 * (s.now - l.dispatchedAt.toNat)
  let i := if l.lc then 0 else 3
  (s.noteWork (unitDie l.unit) l.ctx l.lc).modCtx l.ctx (fun c => { c with acct := c.acct.set i (BitVec.ofNat 64 ((c.acct.getD i 0).toNat + ns)) })

/-- Release the debits of a launch on a die (14 R341): its lead estimate, and its queued passes. -/
def Die.dropDebits (d : Die) (l : Nat) : Die := { d with debits := d.debits.filter (fun b => b.owner != l) }

/-- Release a launch's lead debit (14 R341). -/
def Die.dropLead (d : Die) (l : Nat) : Die :=
  { d with debits := d.debits.filter (fun b => !(b.owner == l && b.kind == 1)) }

/-- Passes of a launch that have not been issued to the array, and its queued drains and preloads, are
discarded with their landing reservations: nothing of them has become visible. A run they leave open is cut, and a
roughing run of one of them is abandoned (07 R203). -/
def MUnit.discard (m : MUnit) (l : Nat) : MUnit :=
  let gone := m.drainQ.filter (fun e => e.launch == l)
  { m with
    passQ := m.passQ.filter (fun e => e.launch != l)
    drainQ := m.drainQ.filter (fun e => e.launch != l)
    preQ := m.preQ.filter (fun e => e.launch != l)
    openRun := none
    rough := if m.passQ.any (fun e => e.launch == l) then {} else m.rough
    resv := m.resv.filter (fun r => !(gone.any (fun e => e.slot ≤ r && r < e.slot + 16))) }

def State.modSkim (s : State) (ctx h : Nat) (f : SkimRec → SkimRec) : State :=
  s.modCtx ctx (fun c => { c with skims := c.skims.upd h f })

/-- A tile of the record is not committed (09 R249). -/
def SkimRec.spoil (r : SkimRec) : SkimRec := { r with valid := false, bad := true }

/-- 09 R249: skimmed passes whose tiles will never be committed. -/
def State.spoilSkims (s : State) (ps : List PassEntry) : State :=
  ps.foldl (fun s e => match e.skim with | some k => s.modSkim k.ctx k.recH SkimRec.spoil | none => s) s

/-- 09 R249: the tile of an open skimmed run that no pass will end is never committed. -/
def State.spoilRun (s : State) (ctx u : Nat) : State :=
  match (s.mu u).openRun with
  | some (_, _, _, true, h) => s.modSkim ctx h SkimRec.spoil
  | _ => s

/-- Take a launch off its pair. -/
def State.detach (s : State) (l : Nat) : State :=
  match s.launches.find l with
  | some x =>
    match x.st with
    | .running u =>
      let s := s.accountPair x
      let s := s.modPair u (fun p => if p.launch == some l then { p with launch := none, pend := [], wait := none } else p)
      let s := (s.spoilSkims ((s.mu u).passQ.filter (fun e => e.launch == l))).spoilRun x.ctx u
      (s.modMu u (fun m => m.discard l)).modDie (unitDie u) (fun d => d.dropDebits l)
    | _ => s
  | none => s

/-- Whether a tile, pass or move of a launch is still under way. -/
def MUnit.holds (m : MUnit) (l : Nat) : Bool :=
  m.passQ.any (fun e => e.launch == l) || m.arr.any (fun e => e.launch == l) ||
  (m.shadow.map (fun t => t.pass.launch == l)).getD false || m.fin.any (fun t => t.pass.launch == l) ||
  (m.closing.map (fun t => t.pass.launch == l)).getD false

def State.busyWith (s : State) (l : Nat) : Bool :=
  s.moves.any (fun e => e.2.launch == l) || s.mus.any (fun e => e.2.holds l)

def Launch.isDone (l : Launch) : Bool := l.st == .done

/-- The launch record of an aborted launch (20 Table 20.5). -/
def Launch.lrec (l : Launch) : W64 :=
  match l.cause with
  | some (c, ia, _) => launchRecord ia c l.unit l.idx l.more l.lseq
  | none => 0

/-- End the LAUNCH item whose launches have all ended: aborted (STATUS 3, the earliest launch's record),
forced by a drop or a disable, or done. -/
def State.endLaunchItem (s : State) (q id : Nat) : State :=
  let ls := (s.launches.filter (fun e => e.2.queue == q && e.2.item == id)).map (·.2)
  if ls.any (fun l => !l.isDone) then s
  else
    let s := { s with launches := s.launches.filter (fun e => !(e.2.queue == q && e.2.item == id)) }
    match s.item q id with
    | none => s
    | some it =>
      match it.forced with
      | some (st, code, v) => s.finishItem q id st code v
      | none =>
        match ls.find? (fun l => l.cause.isSome) with
        | some l => s.finishItem q id 3 ((l.cause.map (·.1)).getD 0) l.lrec
        | none => s.doneItem q id 0

/-- A launch that is ending is done once nothing of it is under way; its item may then end. -/
def State.settle (s : State) (l : Nat) : State :=
  match s.launches.find l with
  | some x =>
    if x.st == .ending && !s.busyWith l then
      (s.modLaunch l (fun y => { y with st := .done })).endLaunchItem x.queue x.item
    else s
  | none => s

/-- A fault of a launch, as its record and its launch keep it. -/
structure FaultAt where
  cause : Nat
  iaddr : Nat
  ino : Nat
  detail : Option W64 := none
  cls : Nat := 0
  sev : Nat := 2
  block : Option Nat := none
deriving DecidableEq, Repr

/-- Keep the cause earliest in program order and count the others (R175). -/
def Launch.blame (l : Launch) (f : FaultAt) (seq : Nat) : Launch :=
  match l.cause with
  | none => { l with cause := some (f.cause, f.iaddr, f.ino), lseq := seq }
  | some (_, _, n) =>
    if f.ino < n then { l with cause := some (f.cause, f.iaddr, f.ino), lseq := seq, more := l.more + 1 }
    else { l with more := l.more + 1 }

/-- R175: abort a launch at the moment of a fault: its record, its cause, its pair freed, what it had not yet
issued discarded. Operations already issued complete. -/
def State.abortLaunch (s : State) (l : Nat) (f : FaultAt) : State :=
  match s.launches.find l with
  | none => s
  | some x =>
    let seq := if (causeRoute f.cause).1 then s.log.seq + 1 else 0
    let y := x.blame f seq
    let detail := f.detail.getD (launchRecord f.iaddr f.cause x.unit x.idx y.more seq)
    let s := s.raise
      { cause := f.cause, cls := f.cls, sev := f.sev, die := unitDie x.unit, block := f.block.getD (x.unit % 16),
        part := (s.ctxs.find x.ctx).map (·.part), ctx := some x.ctx, queue := some x.queue, detail }
    let first := x.cause.isNone
    let s := s.modLaunch l (fun _ => y)
    let s := if first then
        s.modDie (unitDie x.unit) (fun d => { d with aborts := satAdd 32 d.aborts 1 })
      else s
    let s := s.detach l
    (s.modLaunch l (fun z => if z.st == .done then z else { z with st := .ending })).settle l

/-- A launch ends without fault (06 R161) or is stopped or withdrawn. -/
def State.closeLaunch (s : State) (l : Nat) : State :=
  ((s.detach l).modLaunch l (fun z => if z.st == .done then z else { z with st := .ending })).settle l

end Sys2Proof.Machine
end

