-- ==== Sys2Proof/Machine/Recovery.lean ====
section
/-! DEFINITION. What becomes of work and hardware after a fault (20 R463 to R466): removal of a matrix unit or another
block, the sequencer fault of a pair (05 R129), faults met by a launch's own reads. -/
namespace Sys2Proof.Machine

/-- Launches that run on a unit's pair. -/
def State.onPair (s : State) (u : Nat) : Option Nat := (s.pair u).launch

/-- The launches with work on a unit: its pair's launch, and launches whose passes or tiles are still there. -/
def State.usesUnit (s : State) (u : Nat) : List Nat :=
  (s.launches.filter (fun e => e.2.st == .running u || (s.mu u).holds e.1)).map (·.1)

/-- The position of a launch: the instruction next to issue on its pair (20 R461). -/
def State.launchAt (s : State) (l : Nat) : Nat × Nat :=
  match s.launches.find l with
  | some x =>
    match x.st with
    | .running u => ((s.pair u).pc, x.icount)
    | .parked _ _ _ _ pc => (pc, x.icount)
    | _ => (0, x.icount)
  | none => (0, 0)

/-- IADDR and place of the oldest instruction of a launch that has not retired (20 R461, 06 Table 6.19): an MPASS whose
pass waits in the queue, an MDRAIN whose tile is not done, a move, else the next to issue. -/
def State.oldestOf (s : State) (l : Nat) : Nat × Nat :=
  let ps := s.mus.flatMap (fun e =>
    e.2.passQ.map (fun p => (p.launch, p.iaddr, p.ino)) ++
    (e.2.drainQ ++ e.2.arr.filterMap (·.drain)).map (fun p => (p.launch, p.iaddr, p.ino)) ++
    (e.2.shadow.toList ++ e.2.fin ++ e.2.closing.toList).map (fun t => (t.drain.launch, t.drain.iaddr, t.drain.ino)))
  let ms := s.moves.map (fun e => (e.2.launch, e.2.iaddr, e.2.ino))
  let xs := (ps ++ ms).filter (fun e => e.1 == l)
  match bestBy (fun a b => a.2.2 < b.2.2) xs with
  | some (_, ia, n) => (ia, n)
  | none => s.launchAt l

/-- Abort a launch with a cause whose own record has been raised, blaming the instruction at `ia`, `n` (R461). -/
def State.abortWith (s : State) (l cause ia n : Nat) : State :=
  match s.launches.find l with
  | none => s
  | some x =>
    let y := x.blame ⟨cause, ia, n, none, 0, 2, none⟩ s.log.seq
    let s := s.modLaunch l (fun _ => y)
    let s := if x.cause.isNone then
        s.modDie (unitDie x.unit) (fun d => { d with aborts := satAdd 32 d.aborts 1 })
      else s
    ((s.detach l).modLaunch l (fun z => if z.st == .done then z else { z with st := .ending })).settle l

/-- Abort a launch for a fault of the hardware it uses, with causes 0x20 to 0x22 (R461). -/
def State.abortFor (s : State) (l cause : Nat) : State :=
  s.abortWith l cause (s.oldestOf l).1 (s.oldestOf l).2

/-- 03 R102, 20 R464: a matrix unit leaves dispatch: state 1 and record 0x26 with the cause of the fault. Its tiles in
flight complete or fail under R87. -/
def State.withdrawUnit (s : State) (u cause cls : Nat) : State :=
  (s.modMu u (fun m => { m with state := 1 })).raise
    { cause := 0x26, cls, sev := 3, die := unitDie u, block := u % 16, detail := BitVec.ofNat 64 (u + cause * 256) }

/-- 20 R463, class 4: a matrix unit's block is removed: the launches that use it are aborted and what stood in it is
lost. -/
def State.removeUnit (s : State) (u cause : Nat) : State :=
  let ls := s.usesUnit u
  let m := s.mu u
  let s := s.spoilSkims (m.passQ ++ m.arr ++ (m.shadow.toList.map (·.pass)))
  let s := s.modMu u (fun m => { m with
    passQ := [], drainQ := [], preQ := [], arr := [], run := none, preReg := none,
    shadow := none, fin := [], closing := none, closeTmu := none, stage := {}, rough := {}, openRun := none, resv := [] })
  let s := s.modPair u (fun p => { p with stopped := true })
  let s := ls.foldl (fun s l =>
    if ((s.launches.find l).map (·.st)) == some LaunchSt.ending then s.settle l else s.abortFor l cause) s
  s.withdrawUnit u cause 4

/-- 05 R129, 20 R466: the two tokens differ: the launch is aborted, the pair stops; a second fault of the pair
within one count era removes its unit. -/
def State.seqFault (s : State) (u l iaddr ino : Nat) : State :=
  let again := (s.pair u).seqFaults ≥ 1
  let s := s.modPair u (fun p => { p with stopped := true, seqFaults := p.seqFaults + 1 })
  let s := s.modDie (unitDie u) (fun d => { d with sequencer := satAdd 32 d.sequencer 1 })
  let s := s.abortLaunch l { cause := 0x1A, iaddr, ino, cls := 5, sev := if again then 3 else 2 }
  if again then s.withdrawUnit u 0x1A 5 else s

/-- Operations a tensor move unit of a die serves: its moves and the closing passes it streams (04 R126). -/
def State.tmuLoad (s : State) (d k : Nat) : Nat :=
  (s.moves.filter (fun e => unitDie e.2.unit == d && e.2.tmu == k)).length +
    (s.mus.filter (fun e => unitDie e.1 == d && e.2.closing.isSome && e.2.closeTmu == some k)).length

/-- R126: the die's choice of a tensor move unit in service: the one with fewest operations (log 6); none while all
eight are out, and what needs one then waits (DESIGN CHOICE, log 85). -/
def State.moveUnit (s : State) (d : Nat) : Option Nat :=
  bestBy (fun a b => s.tmuLoad d a < s.tmuLoad d b) ((List.range 8).filter (fun k => !(s.die d).tmuOut.contains k))

/-- How an access that failed blames a launch's operation: unmapped (0x19), uncorrectable data (0x1C), or a word with
a detected error (0x20), with the completion CODE of Table 6.18. -/
def accFault (r : AccR) (iaddr ino : Nat) : Option (FaultAt × Nat) :=
  match r with
  | .ok => none
  | .unmapped => some ({ cause := 0x19, iaddr, ino }, 2)
  | .hbm cls a => some ({ cause := 0x1C, iaddr, ino, cls, detail := some (BitVec.ofNat 64 (a % 2 ^ 48)) }, 3)
  | .sram _ block idx synd =>
    some ({ cause := 0x20, iaddr, ino, cls := 1, block := some block,
            detail := some (BitVec.ofNat 64 (synd + idx * 256)) }, 3)

end Sys2Proof.Machine
end

