-- ==== Sys2Proof/WellFormed.lean ====
section
/-! DEFINITION. Which commands are well formed: a Zuhan instruction whose reserved fields are zero and whose
field values the manual defines (06 R155, Tables 6.2 to 6.17), so that it is the image of some encoding.
Items and events carry no encoding of their own; their checks are their meanings' (13 R501). -/
namespace Sys2Proof

/-- 06 R165: the ET, RM and OVF values a VST admits (02 R68 for OVF). -/
def vstOk (et : BitVec 4) (rm : BitVec 2) (ovf : Bool) : Bool :=
  let e := et.toNat
  if 1 ≤ e && e ≤ 7 then rm.toNat ≤ 2 && (!ovf || e ≤ 4)
  else if e == 0 || e == 8 || e == 9 || e == 10 || e == 11 then rm.toNat == 0 && !ovf
  else false

/-- 06 Table 6.5: FSQRT, FEXP2 and FLOG2 do not use RB, which is then reserved; CVTFI and CVTIF take RA. -/
def FaluFn.unary : FaluFn → Bool
  | .fsqrt | .cvtfi | .cvtif | .fexp2 | .flog2 => true
  | _ => false

/-- 06 Table 6.9: the functions of VA alone. -/
def VfaluFn.unary : VfaluFn → Bool
  | .fsqrt | .fexp2 | .flog2 | .fabs | .fneg | .cvtfi | .cvtif => true
  | _ => false

/-- 06 Table 6.10: operands a QOP reads. -/
def QopFn.arity : QopFn → Nat
  | .not => 1
  | .ones | .zeros => 0
  | _ => 2

/-- A field that the form does not use is zero. -/
def unused (n : Nat) : Bool := n == 0

/-- Well-formedness of a command. -/
def Instr.wf : Instr → Bool
  | .falu _ _ _ rb fn => !fn.unary || rb == .s 0
  | .vfalu _ _ _ vb _ fn => !fn.unary || unused vb.val
  | .br _ c ra _ => c != .always || unused ra.val
  | .loop _ _ _ off => off.toNat != 0
  | .vld _ _ _ et _ => et.toNat ≤ 11
  | .vst _ _ _ vb et rm ovf _ => vstOk et rm ovf && (rm.toNat == 2 || unused vb.val)
  | .qop _ _ qa qb fn => (fn.arity ≥ 1 || unused qa.val) && (fn.arity ≥ 2 || unused qb.val)
  | .mpass _ f => f.skm || unused f.sk.val
  | .tmove _ f =>
    match f.dir with
    | .memMem => unused f.slot.toNat && !f.rel
    | .memSlot => unused f.hd.val && unused f.od.val && !f.rel
    | .slotMem => unused f.hs.val && unused f.os.val
  | .dispatch _ temps => temps.length == 16
  | .batchMemberArrival _ _ rows => 1 ≤ rows.n && rows.n ≤ 128
  | .hostMemWrite _ _ data => data.length == 64
  | .attest _ nonce => nonce.length == 32
  | .attestationNonce _ nonce => nonce.length == 32
  | .gatePulse _ reports => reports.length == 6
  | .hardRepair _ stack _ => stack < 20
  | .softRepair _ stack _ => stack < 20
  | .memorySelfTest _ stack _ => stack < 20
  | .fullTraining _ stack _ => stack < 20
  | _ => true

end Sys2Proof
end

