-- ==== Sys2Proof/Machine/Zuhan.lean ====
section
/-! DEFINITION. The Zuhan 2 encodings (06 Tables 6.1 to 6.17): an encoder, and a decoder that accepts a word only
when every reserved field is zero (R11), that is when it is the encoding of a well-formed instruction.
A decoded instruction carries the dummy issue ⟨0, 0⟩: the pair is known where it runs. -/
namespace Sys2Proof

/-- The issue field of an instruction taken from an image. -/
def noIssue : Issue := ⟨0, 0⟩

/-! ### Function codes -/

/-- 06 Table 6.4. -/
def ialuAll : List IaluFn :=
  [.add, .sub, .mul, .mulhs, .mulhu, .divs, .divu, .rems, .remu, .and, .or, .xor, .shl, .shr, .sra,
   .mins, .maxs, .minu, .maxu, .seq, .sne, .slts, .sltu, .sles, .sleu]

/-- 06 Table 6.5. -/
def faluAll : List FaluFn :=
  [.fadd, .fsub, .fmul, .fmac, .fdiv, .fsqrt, .fmin, .fmax, .feq, .flt, .fle, .cvtfi, .cvtif, .fexp2, .flog2]

/-- 06 Table 6.9. -/
def vfaluAll : List VfaluFn :=
  [.fadd, .fsub, .fmul, .fma, .fdiv, .fsqrt, .fmin, .fmax, .fexp2, .flog2, .fabs, .fneg, .cvtfi, .cvtif]
def vialuAll : List VialuFn := [.add, .sub, .mul, .and, .or, .xor, .shl, .shr, .sra, .mins, .maxs]
def vcmpAll : List VcmpFn := [.feq, .flt, .fle, .fun', .ieq, .ilt, .ile, .ult]

/-- 06 R163. -/
def vredAll : List VredFn := [.fsum, .fmax, .fmin, .isum, .imax, .imin]

/-- 06 Table 6.10. -/
def qopAll : List QopFn := [.and, .or, .xor, .andn, .not, .ones, .zeros]

/-- 06 Table 6.6. -/
def brAll : List BrCond := [.always, .eq0, .ne0, .lt0, .ge0, .gt0, .le0]

def dirAll : List Dir := [.memMem, .memSlot, .slotMem]
def sopAll : List ScatterOp := [.store, .add, .max, .min]

/-! ### Fields -/

/-- 06 R154. -/
def Src.code : Src → Nat
  | .s n => n.val
  | .p n => 64 + n.val

def Src.ofCode (c : Nat) : Option Src :=
  if c < 32 then some (.s (Fin.ofNat 32 c)) else if 64 ≤ c ∧ c < 128 then some (.p (Fin.ofNat 64 (c - 64))) else none

/-- PE in bit 8 and Q in bits [7:5] (Table 6.8). -/
def predCode : Option (Fin 8) → Nat
  | none => 0
  | some q => 256 + 32 * q.val

def predOf (w : Nat) : Option (Fin 8) := if bit w 8 then some (Fin.ofNat 8 (bits w 7 5)) else none

def sreg (w lo : Nat) : Fin 32 := Fin.ofNat 32 (bits w (lo + 4) lo)

/-! ### Encoding -/

/-- The word of a one-word instruction, with its operation code at [31:24]. -/
def zenc1 : Instr → Option Nat
  | .ialu _ rd ra rb fn =>
    some (0x01 * 2^24 + rd.val * 2^19 + ra.code * 2^12 + rb.code * 2^5 + ialuAll.idxOf fn)
  | .falu _ rd ra rb fn =>
    some (0x02 * 2^24 + rd.val * 2^19 + ra.code * 2^12 + rb.code * 2^5 + faluAll.idxOf fn)
  | .addi _ rd ra imm => some (0x03 * 2^24 + rd.val * 2^19 + ra.code * 2^12 + imm.toNat)
  | .andi _ rd ra imm => some (0x04 * 2^24 + rd.val * 2^19 + ra.code * 2^12 + imm.toNat)
  | .ori _ rd ra imm => some (0x05 * 2^24 + rd.val * 2^19 + ra.code * 2^12 + imm.toNat)
  | .xori _ rd ra imm => some (0x06 * 2^24 + rd.val * 2^19 + ra.code * 2^12 + imm.toNat)
  | .shli _ rd ra sh => some (0x07 * 2^24 + rd.val * 2^19 + ra.code * 2^12 + sh.toNat)
  | .shri _ rd ra sh => some (0x08 * 2^24 + rd.val * 2^19 + ra.code * 2^12 + sh.toNat)
  | .srai _ rd ra sh => some (0x09 * 2^24 + rd.val * 2^19 + ra.code * 2^12 + sh.toNat)
  | .slti _ rd ra imm => some (0x0A * 2^24 + rd.val * 2^19 + ra.code * 2^12 + imm.toNat)
  | .movz _ rd hw imm => some (0x0B * 2^24 + rd.val * 2^19 + hw.val * 2^17 + imm.toNat)
  | .movk _ rd hw imm => some (0x0C * 2^24 + rd.val * 2^19 + hw.val * 2^17 + imm.toNat)
  | .br _ c ra tgt => some (0x10 * 2^24 + brAll.idxOf c * 2^21 + ra.val * 2^16 + tgt.toNat)
  | .loop _ sc b off =>
    match b with
    | .imm n => some (0x11 * 2^24 + sc.val * 2^19 + n.val * 2^11 + off.toNat)
    | .param n => some (0x11 * 2^24 + sc.val * 2^19 + 2^18 + n.val * 2^11 + off.toNat)
  | .endL _ => some (0x12 * 2^24)
  | .part _ => some (0x13 * 2^24)
  | .signal _ k so sv sc =>
    let c := match sc with
      | none => 0
      | some r => r.val * 2^8 + 2^7
    some (0x14 * 2^24 + (if k == .sem then 2^23 else 0) + so.val * 2^18 + sv.val * 2^13 + c)
  | .waitfor _ k so sv =>
    some (0x15 * 2^24 + (if k == .sem then 2^23 else 0) + so.val * 2^18 + sv.val * 2^13)
  | .ltld _ ln src =>
    match src with
    | .image idx => some (0x16 * 2^24 + ln.val * 2^20 + idx.toNat)
    | .feed sa => some (0x16 * 2^24 + ln.val * 2^20 + 2^19 + sa.val * 2^14)
  | .tstat _ sd sh clr => some (0x17 * 2^24 + sd.val * 2^19 + sh.val * 2^14 + b2n clr * 2^13)
  | .vfalu _ vd va vb p fn =>
    some (0x20 * 2^24 + vd.val * 2^19 + va.val * 2^14 + vb.val * 2^9 + predCode p + vfaluAll.idxOf fn)
  | .vialu _ vd va vb p fn =>
    some (0x21 * 2^24 + vd.val * 2^19 + va.val * 2^14 + vb.val * 2^9 + predCode p + vialuAll.idxOf fn)
  | .vcmp _ qd va vb p fn =>
    some (0x22 * 2^24 + qd.val * 2^19 + va.val * 2^14 + vb.val * 2^9 + predCode p + vcmpAll.idxOf fn)
  | .vsel _ vd va vb q =>
    some (0x23 * 2^24 + vd.val * 2^19 + va.val * 2^14 + vb.val * 2^9 + predCode (some q))
  | .vbcast _ vd ra => some (0x24 * 2^24 + vd.val * 2^19 + ra.code * 2^12)
  | .vextr _ sd va lane => some (0x25 * 2^24 + sd.val * 2^19 + va.val * 2^14 + lane.val * 2^5)
  | .vidx _ vd => some (0x26 * 2^24 + vd.val * 2^19)
  | .vred _ sd va p fn =>
    some (0x27 * 2^24 + sd.val * 2^19 + va.val * 2^14 + predCode p + vredAll.idxOf fn)
  | .vld _ vd sa et rl =>
    some (0x28 * 2^24 + vd.val * 2^19 + sa.val * 2^14 + et.toNat * 2^5 + b2n rl * 2^4)
  | .vst _ va sa vb et rm ovf mk =>
    some (0x29 * 2^24 + va.val * 2^19 + sa.val * 2^14 + vb.val * 2^9 + et.toNat * 2^5 + rm.toNat * 2^3 +
      b2n ovf * 2^2 + b2n mk * 2)
  | .vrand _ vd va sk sn w =>
    some (0x2A * 2^24 + vd.val * 2^19 + va.val * 2^14 + sk.val * 2^9 + sn.val * 2^4 + w.val * 2^2)
  | .vrandj _ vd => some (0x2B * 2^24 + vd.val * 2^19)
  | .qop _ qd qa qb fn =>
    some (0x2C * 2^24 + qd.val * 2^19 + qa.val * 2^14 + qb.val * 2^9 + qopAll.idxOf fn)
  | _ => none

/-- The two words of a 64-bit instruction as one number, the first word in bits [63:32] (R152). -/
def zenc2 : Instr → Option Nat
  | .mpass _ f =>
    some (0x40 * 2^56 + f.ln.val * 2^52 + f.cls.toNat * 2^40 + b2n f.cont * 2^39 + b2n f.pre * 2^38 +
      b2n f.skm * 2^37 + b2n f.relA * 2^36 + b2n f.relB * 2^35 + b2n f.relSA * 2^34 + b2n f.relSB * 2^33 +
      f.rent.toNat * 2^25 + f.sk.val * 2^20)
  | .mpreload _ ax slot rel => some (0x41 * 2^56 + b2n ax * 2^55 + slot.toNat * 2^46 + b2n rel * 2^45)
  | .mdrain _ ax slot fent sd =>
    some (0x42 * 2^56 + b2n ax * 2^55 + slot.toNat * 2^46 + fent.toNat * 2^38 + sd.val * 2^33)
  | .tmove _ f =>
    some (0x48 * 2^56 + dirAll.idxOf f.dir * 2^54 + f.hd.val * 2^49 + f.hs.val * 2^44 + f.os.val * 2^39 +
      f.od.val * 2^34 + f.ex.val * 2^29 + f.sc.val * 2^24 + f.slot.toNat * 2^15 + b2n f.rel * 2^14)
  | .tgather _ hd hs hi ax sc =>
    some (0x49 * 2^56 + hd.val * 2^51 + hs.val * 2^46 + hi.val * 2^41 + ax.val * 2^38 + sc.val * 2^33)
  | .tscatter _ hd hs hi ax sc op =>
    some (0x4A * 2^56 + hd.val * 2^51 + hs.val * 2^46 + hi.val * 2^41 + ax.val * 2^38 + sc.val * 2^33 +
      sopAll.idxOf op * 2^31)
  | _ => none

/-- The words of a Zuhan instruction, first word first; none for another command. -/
def zencode (i : Instr) : Option (List W32) :=
  match zenc1 i with
  | some w => some [BitVec.ofNat 32 w]
  | none =>
    match zenc2 i with
    | some w => some [BitVec.ofNat 32 (w / 2^32), BitVec.ofNat 32 w]
    | none => none

/-! ### Decoding -/

/-- Source fields at [18:12] and [11:5]. -/
def srcRA (w : Nat) : Option Src := Src.ofCode (bits w 18 12)
def srcRB (w : Nat) : Option Src := Src.ofCode (bits w 11 5)

/-- An S-I instruction (Table 6.2). -/
def decSI (w : Nat) (mk : Issue → Fin 32 → Src → BitVec 12 → Instr) : Option Instr :=
  (srcRA w).map (fun ra => mk noIssue (sreg w 19) ra (BitVec.ofNat 12 (bits w 11 0)))

/-- A shift by an immediate. -/
def decSh (w : Nat) (mk : Issue → Fin 32 → Src → BitVec 6 → Instr) : Option Instr :=
  (srcRA w).map (fun ra => mk noIssue (sreg w 19) ra (BitVec.ofNat 6 (bits w 5 0)))

/-- The fields of a one-word instruction, its reserved fields not yet looked at. -/
def zfields1 (w : Nat) : Option Instr :=
  let fn := bits w 4 0
  match bits w 31 24 with
  | 0x01 =>
    match srcRA w, srcRB w, ialuAll[fn]? with
    | some ra, some rb, some f => some (.ialu noIssue (sreg w 19) ra rb f)
    | _, _, _ => none
  | 0x02 =>
    match srcRA w, srcRB w, faluAll[fn]? with
    | some ra, some rb, some f => some (.falu noIssue (sreg w 19) ra rb f)
    | _, _, _ => none
  | 0x03 => decSI w .addi
  | 0x04 => decSI w .andi
  | 0x05 => decSI w .ori
  | 0x06 => decSI w .xori
  | 0x07 => decSh w .shli
  | 0x08 => decSh w .shri
  | 0x09 => decSh w .srai
  | 0x0A => decSI w .slti
  | 0x0B => some (.movz noIssue (sreg w 19) (Fin.ofNat 4 (bits w 18 17)) (BitVec.ofNat 16 (bits w 15 0)))
  | 0x0C => some (.movk noIssue (sreg w 19) (Fin.ofNat 4 (bits w 18 17)) (BitVec.ofNat 16 (bits w 15 0)))
  | 0x10 => (brAll[bits w 23 21]?).map (fun c => .br noIssue c (sreg w 16) (BitVec.ofNat 15 (bits w 14 0)))
  | 0x11 =>
    let b := if bit w 18 then LoopBound.param (Fin.ofNat 64 (bits w 16 11)) else .imm (Fin.ofNat 128 (bits w 17 11))
    some (.loop noIssue (sreg w 19) b (BitVec.ofNat 11 (bits w 10 0)))
  | 0x12 => some (.endL noIssue)
  | 0x13 => some (.part noIssue)
  | 0x14 =>
    some (.signal noIssue (if bit w 23 then .sem else .fence) (sreg w 18) (sreg w 13)
      (if bit w 7 then some (sreg w 8) else none))
  | 0x15 => some (.waitfor noIssue (if bit w 23 then .sem else .fence) (sreg w 18) (sreg w 13))
  | 0x16 =>
    some (.ltld noIssue (Fin.ofNat 16 (bits w 23 20))
      (if bit w 19 then .feed (sreg w 14) else .image (BitVec.ofNat 10 (bits w 9 0))))
  | 0x17 => some (.tstat noIssue (sreg w 19) (sreg w 14) (bit w 13))
  | 0x20 => (vfaluAll[fn]?).map (fun f => .vfalu noIssue (sreg w 19) (sreg w 14) (sreg w 9) (predOf w) f)
  | 0x21 => (vialuAll[fn]?).map (fun f => .vialu noIssue (sreg w 19) (sreg w 14) (sreg w 9) (predOf w) f)
  | 0x22 =>
    (vcmpAll[fn]?).map (fun f =>
      .vcmp noIssue (Fin.ofNat 8 (bits w 21 19)) (sreg w 14) (sreg w 9) (predOf w) f)
  | 0x23 => (predOf w).map (fun q => .vsel noIssue (sreg w 19) (sreg w 14) (sreg w 9) q)
  | 0x24 => (srcRA w).map (fun ra => .vbcast noIssue (sreg w 19) ra)
  | 0x25 => some (.vextr noIssue (sreg w 19) (sreg w 14) (Fin.ofNat 512 (bits w 13 5)))
  | 0x26 => some (.vidx noIssue (sreg w 19))
  | 0x27 => (vredAll[fn]?).map (fun f => .vred noIssue (sreg w 19) (sreg w 14) (predOf w) f)
  | 0x28 => some (.vld noIssue (sreg w 19) (sreg w 14) (BitVec.ofNat 4 (bits w 8 5)) (bit w 4))
  | 0x29 =>
    some (.vst noIssue (sreg w 19) (sreg w 14) (sreg w 9) (BitVec.ofNat 4 (bits w 8 5))
      (BitVec.ofNat 2 (bits w 4 3)) (bit w 2) (bit w 1))
  | 0x2A =>
    some (.vrand noIssue (sreg w 19) (sreg w 14) (sreg w 9) (sreg w 4) (Fin.ofNat 4 (bits w 3 2)))
  | 0x2B => some (.vrandj noIssue (sreg w 19))
  | 0x2C =>
    (qopAll[bits w 2 0]?).map (fun f =>
      .qop noIssue (Fin.ofNat 8 (bits w 21 19)) (Fin.ofNat 8 (bits w 16 14)) (Fin.ofNat 8 (bits w 11 9)) f)
  | _ => none

/-- The fields of a two-word instruction. -/
def zfields2 (w : Nat) : Option Instr :=
  match bits w 63 56 with
  | 0x40 =>
    some (.mpass noIssue
      { ln := Fin.ofNat 16 (bits w 55 52), cls := BitVec.ofNat 12 (bits w 51 40), cont := bit w 39,
        pre := bit w 38, skm := bit w 37, relA := bit w 36, relB := bit w 35, relSA := bit w 34,
        relSB := bit w 33, rent := BitVec.ofNat 8 (bits w 32 25), sk := sreg w 20 })
  | 0x41 => some (.mpreload noIssue (bit w 55) (BitVec.ofNat 9 (bits w 54 46)) (bit w 45))
  | 0x42 =>
    some (.mdrain noIssue (bit w 55) (BitVec.ofNat 9 (bits w 54 46)) (BitVec.ofNat 8 (bits w 45 38)) (sreg w 33))
  | 0x48 =>
    (dirAll[bits w 55 54]?).map (fun d =>
      .tmove noIssue
        { dir := d, hd := sreg w 49, hs := sreg w 44, os := sreg w 39, od := sreg w 34, ex := sreg w 29,
          sc := sreg w 24, slot := BitVec.ofNat 9 (bits w 23 15), rel := bit w 14 })
  | 0x49 =>
    some (.tgather noIssue (sreg w 51) (sreg w 46) (sreg w 41) (Fin.ofNat 8 (bits w 40 38)) (sreg w 33))
  | 0x4A =>
    (sopAll[bits w 32 31]?).map (fun op =>
      .tscatter noIssue (sreg w 51) (sreg w 46) (sreg w 41) (Fin.ofNat 8 (bits w 40 38)) (sreg w 33) op)
  | _ => none

/-- R152: whether a first word begins a 64-bit instruction. -/
def isLong (w : W32) : Bool := 0x40 ≤ fld w 31 24 && fld w 31 24 ≤ 0x7F

/-- One-word instruction of a word: none where the opcode, a function or a reserved field is not defined. -/
def zdec1 (w : Nat) : Option Instr :=
  match zfields1 w with
  | some i => if i.wf && zenc1 i == some w then some i else none
  | none => none

/-- Two-word instruction of 64 bits. -/
def zdec2 (w : Nat) : Option Instr :=
  match zfields2 w with
  | some i => if i.wf && zenc2 i == some w then some i else none
  | none => none

/-- The instruction at the front of a list of words, and how many words it takes. -/
def zdecode : List W32 → Option (Instr × Nat)
  | [] => none
  | w :: rest =>
    if isLong w then
      match rest with
      | [] => none
      | v :: _ => (zdec2 (w.toNat * 2^32 + v.toNat)).map (·, 2)
    else (zdec1 w.toNat).map (·, 1)

/-! ### An image's instructions -/

/-- The instructions of an image's words with the word index of each; none where a word does not decode
(loader check 0x03). -/
def zprogF : Nat → Nat → List W32 → Option (List (Nat × Instr))
  | 0, _, ws => if ws.isEmpty then some [] else none
  | fuel + 1, pos, ws =>
    if ws.isEmpty then some []
    else
      match zdecode ws with
      | none => none
      | some (i, n) => (zprogF fuel (pos + n) (ws.drop n)).map ((pos, i) :: ·)

def zprog (code : List W32) : Option (List (Nat × Instr)) := zprogF code.length 0 code

/-- Words an instruction takes. -/
def zlen (i : Instr) : Nat := if (zenc2 i).isSome then 2 else 1

/-- The issue a Zuhan instruction carries, and the instruction without it. -/
def Instr.issue? : Instr → Option (Issue × Instr)
  | .ialu i a b c d => some (i, .ialu noIssue a b c d)
  | .falu i a b c d => some (i, .falu noIssue a b c d)
  | .addi i a b c => some (i, .addi noIssue a b c)
  | .andi i a b c => some (i, .andi noIssue a b c)
  | .ori i a b c => some (i, .ori noIssue a b c)
  | .xori i a b c => some (i, .xori noIssue a b c)
  | .shli i a b c => some (i, .shli noIssue a b c)
  | .shri i a b c => some (i, .shri noIssue a b c)
  | .srai i a b c => some (i, .srai noIssue a b c)
  | .slti i a b c => some (i, .slti noIssue a b c)
  | .movz i a b c => some (i, .movz noIssue a b c)
  | .movk i a b c => some (i, .movk noIssue a b c)
  | .br i a b c => some (i, .br noIssue a b c)
  | .loop i a b c => some (i, .loop noIssue a b c)
  | .endL i => some (i, .endL noIssue)
  | .part i => some (i, .part noIssue)
  | .signal i a b c d => some (i, .signal noIssue a b c d)
  | .waitfor i a b c => some (i, .waitfor noIssue a b c)
  | .ltld i a b => some (i, .ltld noIssue a b)
  | .tstat i a b c => some (i, .tstat noIssue a b c)
  | .vfalu i a b c d e => some (i, .vfalu noIssue a b c d e)
  | .vialu i a b c d e => some (i, .vialu noIssue a b c d e)
  | .vcmp i a b c d e => some (i, .vcmp noIssue a b c d e)
  | .vsel i a b c d => some (i, .vsel noIssue a b c d)
  | .vbcast i a b => some (i, .vbcast noIssue a b)
  | .vextr i a b c => some (i, .vextr noIssue a b c)
  | .vidx i a => some (i, .vidx noIssue a)
  | .vred i a b c d => some (i, .vred noIssue a b c d)
  | .vld i a b c d => some (i, .vld noIssue a b c d)
  | .vst i a b c d e f g => some (i, .vst noIssue a b c d e f g)
  | .vrand i a b c d e => some (i, .vrand noIssue a b c d e)
  | .vrandj i a => some (i, .vrandj noIssue a)
  | .qop i a b c d => some (i, .qop noIssue a b c d)
  | .mpass i f => some (i, .mpass noIssue f)
  | .mpreload i a b c => some (i, .mpreload noIssue a b c)
  | .mdrain i a b c d => some (i, .mdrain noIssue a b c d)
  | .tmove i f => some (i, .tmove noIssue f)
  | .tgather i a b c d e => some (i, .tgather noIssue a b c d e)
  | .tscatter i a b c d e f => some (i, .tscatter noIssue a b c d e f)
  | _ => none

end Sys2Proof
end

