-- ==== Sys2Proof/Machine/Operands.lean ====
section
/-! DEFINITION. The operand forms of Zuhan instructions and the arithmetic of the scalar, vector and predicate
instructions (06 R154 to R166), as functions on register banks: a launch's instructions and stage bodies
share them. -/
namespace Sys2Proof.Machine

/-! ### Registers (05 Table 5.2) -/

def laneCount : Nat := 512
def zeroLanes : Lanes := List.replicate laneCount 0
def noLanes : List Bool := List.replicate laneCount false

def Bank.sget (b : Bank) (n : Nat) : W64 := b.s.get 0 n
def Bank.vget (b : Bank) (n : Nat) : Lanes := b.v.get zeroLanes n
def Bank.qget (b : Bank) (n : Nat) : List Bool := b.q.get noLanes n
def Bank.sset (b : Bank) (n : Nat) (x : W64) : Bank := { b with s := b.s.put n x }
def Bank.vset (b : Bank) (n : Nat) (x : Lanes) : Bank := { b with v := b.v.put n x }
def Bank.qset (b : Bank) (n : Nat) (x : List Bool) : Bank := { b with q := b.q.put n x }

/-- R154: the value of a source field. -/
def srcVal (p : Tab W64) (b : Bank) : Src → W64
  | .s n => b.sget n.val
  | .p n => p.get 0 n.val

def bool64 (b : Bool) : W64 := if b then 1 else 0
def bool32 (b : Bool) : W32 := if b then 1 else 0

/-! ### Scalar integer functions (R157, Table 6.4) -/

def ialuFn (fn : IaluFn) (a b : W64) : W64 :=
  match fn with
  | .add => a + b
  | .sub => a - b
  | .mul => a * b
  | .mulhs => BitVec.ofInt 64 (a.toInt * b.toInt / 2 ^ 64)
  | .mulhu => BitVec.ofNat 64 (a.toNat * b.toNat / 2 ^ 64)
  | .divs => a.sdiv b
  | .divu => if b = 0 then 0 else a / b
  | .rems => a.srem b
  | .remu => if b = 0 then a else a % b
  | .and => a &&& b
  | .or => a ||| b
  | .xor => a ^^^ b
  | .shl => a <<< (b.toNat % 64)
  | .shr => a >>> (b.toNat % 64)
  | .sra => a.sshiftRight (b.toNat % 64)
  | .mins => if a.slt b then a else b
  | .maxs => if a.slt b then b else a
  | .minu => if a < b then a else b
  | .maxu => if a < b then b else a
  | .seq => bool64 (a == b)
  | .sne => bool64 (a != b)
  | .slts => bool64 (a.slt b)
  | .sltu => bool64 (a < b)
  | .sles => bool64 (!b.slt a)
  | .sleu => bool64 (!(b < a))

/-- Table 6.2: the immediate of an S-I instruction. -/
def simm (i : BitVec 12) : W64 := i.signExtend 64

/-- Table 6.3. -/
def movzVal (hw : Fin 4) (imm : W16) : W64 := (imm.zeroExtend 64) <<< (16 * hw.val)
def movkVal (old : W64) (hw : Fin 4) (imm : W16) : W64 :=
  (old &&& ~~~(0xFFFF#64 <<< (16 * hw.val))) ||| movzVal hw imm

/-! ### FP32 functions (R158, Table 6.5) -/

def low32 (x : W64) : W32 := BitVec.ofNat 32 x.toNat
def fv64 (x : W64) : FV := of32 (low32 x)
def up64 (x : W32) : W64 := x.zeroExtend 64

def FV.le (a b : FV) : Bool := a.lt b || a.eq b

/-- Table 6.5: RD's old value, RA and RB. -/
def faluFn (fn : FaluFn) (rd a b : W64) : W64 :=
  let x := fv64 a
  let y := fv64 b
  match fn with
  | .fadd => up64 (x.add y).to32
  | .fsub => up64 (x.add y.negate).to32
  | .fmul => up64 (x.mul y).to32
  | .fmac => up64 (x.fma y (fv64 rd)).to32
  | .fdiv => up64 (x.div y).to32
  | .fsqrt => up64 x.sqrt.to32
  | .fmin => up64 (x.min y).to32
  | .fmax => up64 (x.max y).to32
  | .feq => bool64 (x.eq y)
  | .flt => bool64 (x.lt y)
  | .fle => bool64 (FV.le x y)
  | .cvtfi =>
    match x with
    | .nan _ => 0
    | .inf s => if s then 0x8000000000000000#64 else 0x7FFFFFFFFFFFFFFF#64
    | .fin s m =>
      let q := m / 2 ^ unitE
      if s then (if q ≥ 2 ^ 63 then 0x8000000000000000#64 else BitVec.ofInt 64 (-(q : Int)))
      else if q ≥ 2 ^ 63 then 0x7FFFFFFFFFFFFFFF#64 else BitVec.ofNat 64 q
  | .cvtif => up64 (ofIntV a.toInt).rnd.to32
  | .fexp2 => up64 x.exp2.to32
  | .flog2 => up64 x.log2.to32

/-! ### Lanes (R162, Table 6.9) -/

/-- Table 6.9, VFALU: VD's old lane, VA and VB. -/
def vfaluFn (fn : VfaluFn) (vd a b : W32) : W32 :=
  let x := of32 a
  let y := of32 b
  match fn with
  | .fadd => (x.add y).to32
  | .fsub => (x.add y.negate).to32
  | .fmul => (x.mul y).to32
  | .fma => (x.fma y (of32 vd)).to32
  | .fdiv => (x.div y).to32
  | .fsqrt => x.sqrt.to32
  | .fmin => (x.min y).to32
  | .fmax => (x.max y).to32
  | .fexp2 => x.exp2.to32
  | .flog2 => x.log2.to32
  | .fabs => a &&& 0x7FFFFFFF#32
  | .fneg => a ^^^ 0x80000000#32
  | .cvtfi => BitVec.ofNat 32 (cvtInt 10 .nearest ⟨x, false⟩).1
  | .cvtif => (ofIntV a.toInt).rnd.to32

def vialuFn (fn : VialuFn) (a b : W32) : W32 :=
  match fn with
  | .add => a + b
  | .sub => a - b
  | .mul => a * b
  | .and => a &&& b
  | .or => a ||| b
  | .xor => a ^^^ b
  | .shl => a <<< (b.toNat % 32)
  | .shr => a >>> (b.toNat % 32)
  | .sra => a.sshiftRight (b.toNat % 32)
  | .mins => if a.slt b then a else b
  | .maxs => if a.slt b then b else a

def vcmpFn (fn : VcmpFn) (a b : W32) : Bool :=
  match fn with
  | .feq => (of32 a).eq (of32 b)
  | .flt => (of32 a).lt (of32 b)
  | .fle => FV.le (of32 a) (of32 b)
  | .fun' => (of32 a).isNan || (of32 b).isNan
  | .ieq => a == b
  | .ilt => a.slt b
  | .ile => !b.slt a
  | .ult => a < b

/-- The lanes a predicated instruction writes. -/
def predLanes (b : Bank) : Option (Fin 8) → Option (List Bool)
  | none => none
  | some q => some (b.qget q.val)

/-- R162: new lanes where the predicate is 1, old lanes elsewhere. -/
def mixLanes (p : Option (List Bool)) (old new : Lanes) : Lanes :=
  match p with
  | none => new
  | some q => List.zipWith (fun c (on : W32 × W32) => if c then on.2 else on.1) q (List.zip old new)

/-- R163: the identity of a reduction. -/
def vredId : VredFn → W32
  | .fsum => 0x80000000#32
  | .fmax => 0xFF800000#32
  | .fmin => 0x7F800000#32
  | .isum => 0
  | .imax => 0x80000000#32
  | .imin => 0x7FFFFFFF#32

def vredOp (fn : VredFn) (a b : W32) : W32 :=
  match fn with
  | .fsum => ((of32 a).add (of32 b)).to32
  | .fmax => ((of32 a).max (of32 b)).to32
  | .fmin => ((of32 a).min (of32 b)).to32
  | .isum => a + b
  | .imax => if a.slt b then b else a
  | .imin => if a.slt b then a else b

/-- R163: the value of SD. -/
def vredVal (fn : VredFn) (p : Option (List Bool)) (va : Lanes) : W64 :=
  let r := tree (vredOp fn) 0 (mixLanes p (List.replicate laneCount (vredId fn)) va)
  match fn with
  | .fsum | .fmax | .fmin => up64 r
  | .isum | .imax | .imin => r.signExtend 64

def qopFn (fn : QopFn) (a b : Bool) : Bool :=
  match fn with
  | .and => a && b
  | .or => a || b
  | .xor => xor a b
  | .andn => a && !b
  | .not => !a
  | .ones => true
  | .zeros => false

/-! ### Elements of a byte region (02 R44 to R46) -/

/-- Bytes `n` elements of a type take, the raw byte (0xB) included. -/
def bytesOf (et n : Nat) : Nat :=
  if et = 11 then n else if isFp6 et then cdiv n 4 * 3 else cdiv (n * etBits et) 8

/-- Element i of bytes packed from their start. -/
def elemAt (et : Nat) (bs : List Byte) (i : Nat) : Nat :=
  if et = 11 then (bs.getD i 0).toNat
  else if isFp6 et then bits (leNat ((bs.drop (3 * (i / 4))).take 3)) (6 * (i % 4) + 5) (6 * (i % 4))
  else if isFp4 et then bits (bs.getD (i / 2) 0).toNat (4 * (i % 2) + 3) (4 * (i % 2))
  else let w := etBits et / 8; leNat ((bs.drop (w * i)).take w)

/-- The first `n` elements. -/
def elemsOf (et n : Nat) (bs : List Byte) : List Nat := (List.range n).map (elemAt et bs)

/-- Elements packed into bytes; the last byte or group is filled with zero codes (R48). -/
def packElems (et : Nat) (xs : List Nat) : List Byte :=
  if et = 11 then xs.map (BitVec.ofNat 8)
  else if isFp6 et then
    (chunks 4 xs).flatMap (fun g => natLe 3 (g.foldr (fun x acc => x % 64 + 64 * acc) 0))
  else if isFp4 et then
    (chunks 2 xs).map (fun g => BitVec.ofNat 8 (g.foldr (fun x acc => x % 16 + 16 * acc) 0))
  else xs.flatMap (fun x => natLe (etBits et / 8) x)

/-- R164: the 32 bits of a lane loaded from an element. -/
def loadLane (et code : Nat) : W32 :=
  if et = 0 || et = 10 || et = 11 then BitVec.ofNat 32 code
  else
    match fmtOf et with
    | some f => (f.decode code).to32
    | none => BitVec.ofInt 32 (toSigned (etBits et) code)

/-- R165: the element a lane is stored as; `r` are the random bits of the VB lane. -/
def storeLane (et rm : Nat) (ovf : Bool) (x r : W32) : Nat :=
  if et = 0 || et = 10 then x.toNat
  else if et = 11 then x.toNat % 256
  else
    match fmtOf et with
    | some f => (cvtFloat f (rmode rm (r.toNat % 2 ^ 24)) ovf ⟨of32 x, false⟩).1
    | none =>
      let w := etBits et
      let i := x.toInt
      if i > (intMax et : Nat) then intMax et
      else if i < -((2 ^ (w - 1) : Nat) : Int) then 2 ^ (w - 1)
      else ofSigned w i

/-- R166: key and counter of VRAND are in two s registers. -/
def vrandOk (sk sn : W64) : Bool := fld sk 63 36 == 0 && fld sn 31 16 == 0

def vrandLanes (seed : Nat → BitVec 96) (sk sn : W64) (w : Fin 4) (va : Lanes) : Lanes :=
  va.map (fun x =>
    let word := chatterWord (seed (fld sk 35 32)) (fld sk 31 0) (fld sn 63 32)
      (fld sn 15 0 * 2 ^ 32 + x.toNat)
    BitVec.ofNat 32 (word >>> (32 * w.val)))

/-! ### The result of an instruction that only computes -/

/-- Where the registers come from: parameter values and seed slots. -/
structure Src3 where
  params : Tab W64
  seed : Nat → BitVec 96

def rIalu (e : Src3) (b : Bank) (rd : Fin 32) (ra rb : Src) (fn : IaluFn) : Bank :=
  b.sset rd.val (ialuFn fn (srcVal e.params b ra) (srcVal e.params b rb))
def rFalu (e : Src3) (b : Bank) (rd : Fin 32) (ra rb : Src) (fn : FaluFn) : Bank :=
  b.sset rd.val (faluFn fn (b.sget rd.val) (srcVal e.params b ra) (srcVal e.params b rb))
/-- Table 6.4: an S-I opcode applies an IALU function with IMM in place of RB. -/
def rImm (e : Src3) (b : Bank) (fn : IaluFn) (rd : Fin 32) (ra : Src) (imm : W64) : Bank :=
  b.sset rd.val (ialuFn fn (srcVal e.params b ra) imm)
def rMovz (b : Bank) (rd : Fin 32) (hw : Fin 4) (imm : W16) : Bank := b.sset rd.val (movzVal hw imm)
def rMovk (b : Bank) (rd : Fin 32) (hw : Fin 4) (imm : W16) : Bank :=
  b.sset rd.val (movkVal (b.sget rd.val) hw imm)
def rVfalu (b : Bank) (vd va vb : Fin 32) (p : Option (Fin 8)) (fn : VfaluFn) : Bank :=
  let old := b.vget vd.val
  let new := List.zipWith (fun d (ab : W32 × W32) => vfaluFn fn d ab.1 ab.2) old
    (List.zip (b.vget va.val) (b.vget vb.val))
  b.vset vd.val (mixLanes (predLanes b p) old new)
def rVialu (b : Bank) (vd va vb : Fin 32) (p : Option (Fin 8)) (fn : VialuFn) : Bank :=
  b.vset vd.val (mixLanes (predLanes b p) (b.vget vd.val)
    (List.zipWith (vialuFn fn) (b.vget va.val) (b.vget vb.val)))
def rVcmp (b : Bank) (qd : Fin 8) (va vb : Fin 32) (p : Option (Fin 8)) (fn : VcmpFn) : Bank :=
  let r := List.zipWith (vcmpFn fn) (b.vget va.val) (b.vget vb.val)
  b.qset qd.val (match predLanes b p with
    | none => r
    | some q => List.zipWith (fun c x => c && x) q r)
def rVsel (b : Bank) (vd va vb : Fin 32) (q : Fin 8) : Bank :=
  b.vset vd.val (mixLanes (some (b.qget q.val)) (b.vget vb.val) (b.vget va.val))
def rVbcast (e : Src3) (b : Bank) (vd : Fin 32) (ra : Src) : Bank :=
  b.vset vd.val (List.replicate laneCount (low32 (srcVal e.params b ra)))
def rVextr (b : Bank) (sd va : Fin 32) (lane : Fin 512) : Bank :=
  b.sset sd.val (up64 ((b.vget va.val).getD lane.val 0))
def rVidx (b : Bank) (vd : Fin 32) : Bank :=
  b.vset vd.val ((List.range laneCount).map (BitVec.ofNat 32))
def rVred (b : Bank) (sd va : Fin 32) (p : Option (Fin 8)) (fn : VredFn) : Bank :=
  b.sset sd.val (vredVal fn (predLanes b p) (b.vget va.val))
def rVrand (e : Src3) (b : Bank) (vd va sk sn : Fin 32) (w : Fin 4) : Bank :=
  b.vset vd.val (vrandLanes e.seed (b.sget sk.val) (b.sget sn.val) w (b.vget va.val))
def rQop (b : Bank) (qd qa qb : Fin 8) (fn : QopFn) : Bank :=
  b.qset qd.val (List.zipWith (qopFn fn) (b.qget qa.val) (b.qget qb.val))

/-- The bank after an instruction a stage body may hold (07 R182), VLD apart. -/
def rBody (e : Src3) (b : Bank) : Instr → Bank
  | .ialu _ rd ra rb fn => rIalu e b rd ra rb fn
  | .falu _ rd ra rb fn => rFalu e b rd ra rb fn
  | .addi _ rd ra imm => rImm e b .add rd ra (simm imm)
  | .andi _ rd ra imm => rImm e b .and rd ra (simm imm)
  | .ori _ rd ra imm => rImm e b .or rd ra (simm imm)
  | .xori _ rd ra imm => rImm e b .xor rd ra (simm imm)
  | .shli _ rd ra sh => rImm e b .shl rd ra (sh.zeroExtend 64)
  | .shri _ rd ra sh => rImm e b .shr rd ra (sh.zeroExtend 64)
  | .srai _ rd ra sh => rImm e b .sra rd ra (sh.zeroExtend 64)
  | .slti _ rd ra imm => rImm e b .slts rd ra (simm imm)
  | .movz _ rd hw imm => rMovz b rd hw imm
  | .movk _ rd hw imm => rMovk b rd hw imm
  | .vfalu _ vd va vb p fn => rVfalu b vd va vb p fn
  | .vialu _ vd va vb p fn => rVialu b vd va vb p fn
  | .vcmp _ qd va vb p fn => rVcmp b qd va vb p fn
  | .vsel _ vd va vb q => rVsel b vd va vb q
  | .vbcast _ vd ra => rVbcast e b vd ra
  | .vextr _ sd va lane => rVextr b sd va lane
  | .vidx _ vd => rVidx b vd
  | .vred _ sd va p fn => rVred b sd va p fn
  | .vrand _ vd va sk sn w => rVrand e b vd va sk sn w
  | .qop _ qd qa qb fn => rQop b qd qa qb fn
  | _ => b

end Sys2Proof.Machine
end

