-- ==== Sys2Proof/Machine/Cells.lean ====
section
/-! DEFINITION. What the cells of a matrix unit compute over one pass (02 R49 to R61, 03 R88, R95, 04 R116, R119,
R120, 09 R243, R246, R247), and the witness check of a captured tile (03 R96 to R98). -/
namespace Sys2Proof.Machine

/-! ### Operand elements -/

/-- Element p of a stream whose base is byte `base` of the feed store. -/
def feedElem (m : Mem) (base : Int) (et : Nat) (p : Int) : Nat :=
  if isFp4 et then bits (m.get (base + p / 2).toNat).toNat (4 * (p % 2).toNat + 3) (4 * (p % 2).toNat)
  else if isFp6 et then
    bits (leNat (m.read (base + 3 * (p / 4)).toNat 3)) (6 * (p % 4).toNat + 5) (6 * (p % 4).toNat)
  else leNat (m.read (base + p * (etBits et / 8 : Nat)).toNat (etBits et / 8))

/-- 02 R52: a scaled INT8 or INT4 element carries a fixed factor. -/
def scaledElem (et : Nat) (v : FV) : FV :=
  let sh := if et == 8 then 6 else if et == 9 then 2 else 0
  match v with
  | .fin s m => .fin s (m / 2 ^ sh)
  | v => v

/-- One operand position: its element's value, its scale, and the raw codes. -/
structure Elem where
  v : FV
  scale : FV
  code : Nat
  sbyte : Nat
deriving DecidableEq, Repr

def zeroElem : Elem := ⟨.fin false 0, .fin false (2 ^ unitE), 0, 0⟩

/-- The scaled value as the witness takes it. -/
def Elem.scaledV (e : Elem) : FV := e.v.mulExact e.scale

/-- What a pass's streams are: table, parameters, feed store and the byte where the image's range begins; before its own
positions stand those `pre` that wait from the pass before it, and its last `rest` positions wait for the next pass
(09 R243). Positions below are counted over both. -/
structure Stream3 where
  t : LTab
  p : Tab W64
  feed : Mem
  org : Nat
  pre : List HeldK := []
  rest : Nat := 0

/-- Positions that this pass takes. -/
def Stream3.count (x : Stream3) : Nat := x.pre.length + x.t.kReal x.p - x.rest

/-- The logical K index of a position (04 R119). -/
def Stream3.kLog (x : Stream3) (i : Nat) : Nat :=
  match x.pre[i]? with
  | some h => h.k
  | none => x.t.korg + (i - x.pre.length)

/-- Digits of a tile row or column over the bounds of its levels (R116). -/
def lvlDigits (ls : List Level) (x : Nat) : List Nat := digits (ls.map (·.bnd)) x

/-- R120: every index lies below its level's real extent. -/
def insideOf (ls : List Level) (p : Tab W64) (x : Nat) : Bool :=
  (List.zip ls (lvlDigits ls x)).all (fun e => e.2 < e.1.ext p)

/-- Indices of the K levels of real position kl (R119). -/
def Stream3.kDigits (x : Stream3) (kl : Nat) : List Nat := digits (x.t.ks.map (fun l => l.ext x.p)) kl

def scaleAt (m : Mem) (sf : Nat) (a : Int) : FV × Nat :=
  let b := (m.get a.toNat).toNat
  (scaleValue sf b, b)

/-- An unscaled element from its code. -/
def codeElem (et code : Nat) : Elem := ⟨etValue et code, .fin false (2 ^ unitE), code, 0⟩

/-- Element of A in the feed store at tile row i and real position kl; `roff` moves it to its reference (09 Table 9.1). -/
def Stream3.aFeed (x : Stream3) (roff : Int) (i kl : Nat) : Elem :=
  let t := x.t
  if !insideOf t.ms x.p i then zeroElem
  else
    let dm := lvlDigits t.ms i
    let off := dot (t.ms.map (·.sa)) dm + dot (t.ks.map (·.sa)) (x.kDigits kl)
    let code := feedElem x.feed ((x.org + t.basea : Nat) + roff) t.eta off
    if t.scaled then
      let (sv, sb) := scaleAt x.feed t.sfa ((x.org + t.basesa : Nat) + roff + dot (t.ms.map (·.ssa)) dm +
        t.markSsa * ((kl / t.g : Nat) : Int))
      ⟨scaledElem t.eta (etValue t.eta code), sv, code, sb⟩
    else ⟨etValue t.eta code, .fin false (2 ^ unitE), code, 0⟩

/-- Element of B in the feed store at real position kl and tile column j. -/
def Stream3.bFeed (x : Stream3) (kl j : Nat) : Elem :=
  let t := x.t
  if !insideOf t.ns x.p j then zeroElem
  else
    let dn := lvlDigits t.ns j
    let off := dot (t.ns.map (·.sb)) dn + dot (t.ks.map (·.sb)) (x.kDigits kl)
    let code := feedElem x.feed (x.org + t.baseb : Nat) t.etb off
    if t.scaled then
      let (sv, sb) := scaleAt x.feed t.sfb ((x.org + t.basesb : Nat) + dot (t.ns.map (·.ssb)) dn +
        t.markSsb * ((kl / t.g : Nat) : Int))
      ⟨scaledElem t.etb (etValue t.etb code), sv, code, sb⟩
    else ⟨etValue t.etb code, .fin false (2 ^ unitE), code, 0⟩

/-- Element of A at tile row i and position k, moved by `roff`. -/
def Stream3.aElem (x : Stream3) (roff : Int) (i k : Nat) : Elem :=
  match x.pre[k]? with
  | some h => codeElem h.eta ((if roff = 0 then h.a else h.ref).getD i 0)
  | none => x.aFeed roff i (k - x.pre.length)

/-- Element of B at position k and tile column j. -/
def Stream3.bElem (x : Stream3) (k j : Nat) : Elem :=
  match x.pre[k]? with
  | some h => codeElem h.etb (h.b.getD j 0)
  | none => x.bFeed (k - x.pre.length) j

/-- A position put aside. -/
def Stream3.hold (x : Stream3) (roff : Int) (k : Nat) : HeldK :=
  { k := x.kLog k, eta := ((x.pre[k]?).map (·.eta)).getD x.t.eta, etb := ((x.pre[k]?).map (·.etb)).getD x.t.etb
    a := (List.range x.t.m).map (fun i => (x.aElem 0 i k).code)
    ref := (List.range x.t.m).map (fun i => (x.aElem roff i k).code)
    b := (List.range x.t.n).map (fun j => (x.bElem k j).code) }

/-! ### One group in one cell (02 R55 to R61, Table 2.5) -/

/-- The group sum s: a NaN, an infinity or the exact sum of the products, the last group filled with zeros. -/
def groupSum (padded : Bool) (ps : List (FV × FV)) : FV :=
  let prods := ps.map (fun e => e.1.mulExact e.2)
  if ps.any (fun e => e.1.isNan || e.2.isNan) || prods.any FV.isNan then .nan false
  else
    let infs := prods.filter FV.isInf
    if infs.any FV.neg && infs.any (fun v => !v.neg) then .nan false
    else
      match infs with
      | v :: _ => v
      | [] =>
        let sum := (prods.map FV.toInt).foldl (· + ·) 0
        if sum = 0 then .fin (!padded && prods.all FV.neg && prods.all (fun v => v.mag = 0) && !prods.isEmpty) 0
        else .fin (sum < 0) sum.natAbs

/-- v of R56, or of R246 when a reference group stands beside the new one: the exact value added. -/
def groupValue (padded : Bool) (new : List (Elem × Elem)) (ref : Option (List (Elem × Elem))) : FV :=
  let half (ps : List (Elem × Elem)) : FV :=
    let s := groupSum padded (ps.map (fun e => (e.1.v, e.2.v)))
    s.mulExact ((ps.head?.map (fun e => e.1.scale)).getD (.fin false (2 ^ unitE)))
  let sb := (new.head?.map (fun e => e.2.scale)).getD (.fin false (2 ^ unitE))
  match ref with
  | none => (half new).mulExact sb
  | some r =>
    match half new, half r with
    | .nan _, _ => .nan false
    | _, .nan _ => .nan false
    | .inf a, .inf b => if a == b then .nan false else (FV.inf a).mulExact sb
    | .inf a, _ => (FV.inf a).mulExact sb
    | _, .inf b => (FV.inf (!b)).mulExact sb
    | .fin a m, .fin b n =>
      let d := (FV.fin a m).toInt - (FV.fin b n).toInt
      (if d = 0 then FV.fin (a && !b) 0 else FV.fin (d < 0) d.natAbs).mulExact sb

/-- The exact sum of an integer group. -/
def intGroup (ps : List (Elem × Elem)) : Int :=
  let one : Int := (2 ^ unitE : Nat)
  (ps.map (fun e => (e.1.v.toInt / one) * (e.2.v.toInt / one))).foldl (· + ·) 0

/-- One addition of a cell: R59 in FP32, R61 modulo 2^32 with the overflow seen exactly. -/
def cellAdd (int : Bool) (acc : W32) (v : FV) (g : Int) : W32 × Bool :=
  if int then
    let x := acc.toInt + g
    (BitVec.ofInt 32 x, x < -(2 ^ 31 : Int) || x > 2 ^ 31 - 1)
  else (((of32 acc).add v).to32, false)

/-! ### Groups of a pass, and what a skim cut skips -/

/-- Positions of group b. -/
def Stream3.group (x : Stream3) (b : Nat) : List Nat :=
  (List.range x.t.g).filterMap (fun i => let k := b * x.t.g + i; if k < x.count then some k else none)

def Stream3.groups (x : Stream3) : Nat := cdiv x.count x.t.g

/-- A skimmed pass that the run goes on behind, in groups of one position, puts the positions of its last tile block aside
where the block is not whole, so that the block is judged over all its positions (09 R243). -/
def Stream3.split (x : Stream3) (cont : Bool) : Stream3 :=
  let fin := x.t.korg + x.t.kReal x.p
  if cont && x.t.g == 1 && fin % 16 ≠ 0 then
    { x with rest := ((List.range x.count).filter (fun k => x.kLog k / 16 == fin / 16)).length }
  else x

/-- The positions put aside. -/
def Stream3.aside (x : Stream3) (roff : Int) : List HeldK := (List.range x.rest).map (fun i => x.hold roff (x.count + i))

/-- 09 R251: τ of a code, as a fraction numerator / 2^den; 255 is 0. -/
def tau (code : Nat) : Nat × Nat := if code ≥ 128 then (0, 0) else (8 - code % 4, code / 4 + 3)

/-- 09 R243: the tile block of logical K positions 16b to 16b + 15 is below threshold. -/
def Stream3.below (x : Stream3) (roff : Int) (code b : Nat) : Bool :=
  let (num, den) := tau code
  let ks := (List.range x.count).filter (fun k => x.kLog k / 16 == b)
  let es := (List.range x.t.m).flatMap (fun i => ks.map (fun k => (x.aElem 0 i k, x.aElem roff i k)))
  let bad (v : FV) := v.isNan || v.isInf
  let vals := es.map (fun e => (e.1.scaledV, e.2.scaledV))
  if num = 0 || vals.any (fun e => bad e.1 || bad e.2) then false
  else
    let d := maxN (vals.map (fun e => (e.1.toInt - e.2.toInt).natAbs))
    let mb := maxN (vals.map (fun e => e.2.mag))
    d * 2 ^ den ≤ num * mb

/-- Tile blocks a group overlaps. -/
def Stream3.blocksOf (x : Stream3) (b : Nat) : List Nat := ((x.group b).map (fun k => x.kLog k / 16)).eraseDups

/-- Groups the current code would skip. -/
def Stream3.cut (x : Stream3) (roff : Int) (code b : Nat) : Bool := (x.blocksOf b).all (x.below roff code)

/-! ### Witness sums (03 R95) -/

/-- FP32 value of a scaled element as the feeders sum it. -/
def witOf (v : FV) : W32 := v.rnd.to32

def fadd32 (a b : W32) : W32 := ((of32 a).add (of32 b)).to32
def ffma32 (a b c : W32) : W32 := ((of32 a).fma (of32 b) (of32 c)).to32
def fabs32 (a : W32) : W32 := a &&& 0x7FFFFFFF#32
def iabs32 (a : W32) : W32 := if a.slt 0 then 0 - a else a

def wsum (int : Bool) (xs : List W32) : W32 := tree (if int then (· + ·) else fadd32) 0 xs
def wfma (int : Bool) (a b c : W32) : W32 := if int then a * b + c else ffma32 a b c
def wabs (int : Bool) (a : W32) : W32 := if int then iabs32 a else fabs32 a

/-- One K element in the witness cells: `as'` the M scaled elements of A, `bs` the N of B. -/
def Run.witness (r : Run) (as' bs : List W32) : Run :=
  let n := bs.length
  let segs := chunks 128 as'
  let asum := segs.map (wsum r.int)
  let aabs := segs.map (fun g => wsum r.int (g.map (wabs r.int)))
  let bsum := wsum r.int bs
  let babs := wsum r.int (bs.map (wabs r.int))
  let rowOf (sums : List W32) (bs : List W32) (old : List W32) : List W32 :=
    (List.range 512).map (fun c =>
      wfma r.int (sums.getD (c / n) 0) (bs.getD (c % n) 0) (old.getD c 0))
  let colOf (as' : List W32) (b : W32) (old : List W32) : List W32 :=
    (List.range 128).map (fun q =>
      (List.range segs.length).foldl (fun acc sg => wfma r.int (as'.getD (q + 128 * sg) 0) b acc) (old.getD q 0))
  { r with
    wr := rowOf asum bs r.wr
    wra := rowOf aabs (bs.map (wabs r.int)) r.wra
    wc := colOf as' bsum r.wc
    wca := colOf (as'.map (wabs r.int)) babs r.wca
    wk := asum.foldl (fun acc a => wfma r.int a bsum acc) r.wk
    wka := aabs.foldl (fun acc a => wfma r.int a babs acc) r.wka }

/-! ### Starting a run -/

/-- R88: the logical tile element (row, column) at array row r and array column c. -/
def tileOf (n r c : Nat) : Nat × Nat := (r + 128 * (c / n), c % n)

/-- Values of an array row, and of an array column, in ascending logical array order. -/
def rowLine (n : Nat) (vals : List W32) (r : Nat) : List W32 :=
  (List.range 512).map (fun c => let (i, j) := tileOf n r c; vals.getD (i * n + j) 0)
def colLine (n : Nat) (vals : List W32) (c : Nat) : List W32 :=
  (List.range 128).map (fun r => let (i, j) := tileOf n r c; vals.getD (i * n + j) 0)

/-- A run before its first group: the accumulators at their preload, or at -0 (0 for integers). -/
def Run.start (fold : Nat) (int : Bool) (pre : Option (List W32)) : Run :=
  let n := 512 / 2 ^ fold
  let z : W32 := if int then 0 else 0x80000000#32
  match pre with
  | none =>
    { fold, int, vals := List.replicate 65536 z, iovf := false, skipped := false,
      wr := List.replicate 512 z, wra := List.replicate 512 z, wc := List.replicate 128 z,
      wca := List.replicate 128 z, wk := z, wka := z, nb := 0, preloaded := false, skip := none, steps := 0 }
  | some v =>
    let cols := (List.range 512).map (colLine n v)
    let rows := (List.range 128).map (rowLine n v)
    let ab (xs : List W32) := xs.map (wabs int)
    { fold, int, vals := v, iovf := false, skipped := false,
      wr := cols.map (wsum int), wra := cols.map (fun l => wsum int (ab l)),
      wc := rows.map (wsum int), wca := rows.map (fun l => wsum int (ab l)),
      wk := wsum int (rows.map (wsum int)), wka := wsum int (rows.map (fun l => wsum int (ab l))),
      nb := 0, preloaded := true, skip := none, steps := 0 }

/-! ### A pass -/

/-- The mode of a pass: plain, or with the reference stream at a byte offset. -/
inductive PassMode where
  | plain
  /-- 09 R246 -/
  | skim (roff : Int) (code : Nat)
  /-- 09 R247: whether the skip accumulators are in use -/
  | truing (roff : Int) (code : Nat) (acc : Bool)
deriving DecidableEq, Repr

/-- One group over the whole tile. -/
def Stream3.addGroup (x : Stream3) (mode : PassMode) (b : Nat) (r : Run) : Run :=
  let t := x.t
  let ks := x.group b
  let padded := ks.length < t.g
  let bcol (j : Nat) := ks.map (fun k => x.bElem k j)
  let arow (roff : Int) (i : Nat) := ks.map (fun k => x.aElem roff i k)
  let cell (f : Nat → Nat → W32 → W32 × Bool) (vals : List W32) : List (W32 × Bool) :=
    (List.zip (List.range vals.length) vals).map (fun e => f (e.1 / t.n) (e.1 % t.n) e.2)
  let plainV (i j : Nat) := List.zip (arow 0 i) (bcol j)
  let refV (roff : Int) (i j : Nat) := List.zip (arow roff i) (bcol j)
  let wit (diff : Option Int) (r : Run) : Run :=
    ks.foldl (fun r k =>
      let aw (i : Nat) : W32 :=
        if t.intPass then BitVec.ofInt 32 ((x.aElem 0 i k).v.toInt / ((2 ^ unitE : Nat) : Int))
        else
          match diff with
          | none => witOf (x.aElem 0 i k).scaledV
          | some roff => ((x.aElem 0 i k).scaledV.add (x.aElem roff i k).scaledV.negate).to32
      let bw (j : Nat) : W32 :=
        if t.intPass then BitVec.ofInt 32 ((x.bElem k j).v.toInt / ((2 ^ unitE : Nat) : Int))
        else witOf (x.bElem k j).scaledV
      r.witness ((List.range t.m).map aw) ((List.range t.n).map bw)) r
  let add (g : Nat → Nat → FV) (r : Run) : Run :=
    let out := cell (fun i j acc => cellAdd t.intPass acc (g i j) (if t.intPass then intGroup (plainV i j) else 0)) r.vals
    { r with vals := out.map (·.1), iovf := r.iovf || out.any (·.2), nb := r.nb + 1,
             steps := r.steps + t.stepsOf t.g }
  match mode with
  | .plain => wit none (add (fun i j => groupValue padded (plainV i j) none) r)
  | .skim roff code =>
    if x.cut roff code b then { r with skipped := true }
    else wit (some roff) (add (fun i j => groupValue padded (plainV i j) (some (refV roff i j))) r)
  | .truing roff code acc =>
    let r' := wit none (add (fun i j => groupValue padded (plainV i j) none) r)
    if acc && x.cut roff code b then
      match r'.skip with
      | some sk =>
        { r' with skip := some ((cell (fun i j a =>
            cellAdd false a (groupValue padded (plainV i j) (some (refV roff i j))) 0) sk).map (·.1)) }
      | none => r'
    else r'

/-- All groups of a pass, in ascending logical K order (02 R56). -/
def Stream3.addPass (x : Stream3) (mode : PassMode) (r : Run) : Run :=
  (List.range x.groups).foldl (fun r b => x.addGroup mode b r) r

/-- Tile blocks of the pass, skipped and streamed (09 Table 9.1). -/
def Stream3.blockCounts (x : Stream3) (mode : PassMode) : Nat × Nat :=
  let all := ((List.range x.groups).flatMap x.blocksOf).eraseDups
  match mode with
  | .skim roff code =>
    let cutG := (List.range x.groups).filter (x.cut roff code)
    let gone := (cutG.flatMap x.blocksOf).eraseDups
    (gone.length, all.length - gone.length)
  | _ => (0, all.length)

/-! ### Capture and check (03 R74, R96 to R98) -/

def repRv (w : W32) : Bool := flag w 8
def repRidx (w : W32) : Nat := fld w 7 0
def repCv (w : W32) : Bool := flag w 19
def repCidx (w : W32) : Nat := fld w 18 9
def repOos (w : W32) : Bool := flag w 20

/-- R74. -/
def physRow (w : W32) (x : Nat) : Nat := if repRv w && repRidx w ≤ 127 && x ≥ repRidx w then x + 1 else x
def physCol (w : W32) (y : Nat) : Nat := if repCv w && repCidx w ≤ 511 && y ≥ repCidx w then y + 1 else y
def witRow (w : W32) : Nat := if repRv w && repRidx w == 128 then 128 else 129
def witCol (w : W32) : Nat := if repCv w && repCidx w == 512 then 512 else 513

/-- Changes forced on physical cells at capture; a line that is replaced is never read. -/
def Run.upset (r : Run) (w : W32) (ups : List CellUpset) : Run :=
  ups.foldl (fun r u =>
    let n := 512 / 2 ^ r.fold
    let rx := (List.range 128).find? (fun x => physRow w x == u.row)
    let cx := (List.range 512).find? (fun y => physCol w y == u.col)
    match rx, cx with
    | some a, some c =>
      let (i, j) := tileOf n a c
      { r with vals := r.vals.set (i * n + j) (r.vals.getD (i * n + j) 0 ^^^ u.xor) }
    | none, some c => if u.row == witRow w then { r with wr := r.wr.set c (r.wr.getD c 0 ^^^ u.xor) } else r
    | some a, none => if u.col == witCol w then { r with wc := r.wc.set a (r.wc.getD a 0 ^^^ u.xor) } else r
    | none, none => if u.row == witRow w && u.col == witCol w then { r with wk := r.wk ^^^ u.xor } else r) r

/-- Outcome of one line: checked and passed, failed, or not checked. -/
inductive LineR where
  | pass | fail | unchecked
deriving DecidableEq, Repr

/-- R96, R97: a line sum against its witness value and magnitude, with log2 of its length. -/
def lineCheck (int : Bool) (nb lg : Nat) (s w e : W32) : LineR :=
  if int then (if s == w then .pass else .fail)
  else
    match of32 e with
    | .fin _ em =>
      if em > 2 ^ (unitE + 126) then .unchecked
      else
        match of32 s, of32 w with
        | .fin a m, .fin b n =>
          let d := ((FV.fin b n).toInt - (FV.fin a m).toInt).natAbs
          if d * 2 ^ 24 > (2 * nb + 2 * lg + 24) * em + 2 ^ lg * 2 ^ (unitE - 149) * 2 ^ 24 then .fail else .pass
        | _, _ => .fail
    | _ => .unchecked

/-- Every line of a captured tile: rows, columns, corner. -/
def Run.lines (r : Run) : List LineR × List LineR × LineR :=
  let n := 512 / 2 ^ r.fold
  let nb := r.nb + b2n r.preloaded
  let rowS := (List.range 128).map (fun a => wsum r.int (rowLine n r.vals a))
  let colS := (List.range 512).map (fun c => wsum r.int (colLine n r.vals c))
  ((List.range 128).map (fun a => lineCheck r.int nb 9 (rowS.getD a 0) (r.wc.getD a 0) (r.wca.getD a 0)),
   (List.range 512).map (fun c => lineCheck r.int nb 7 (colS.getD c 0) (r.wr.getD c 0) (r.wra.getD c 0)),
   lineCheck r.int nb 16 (wsum r.int rowS) r.wk r.wka)

/-- R98, Tables 3.4 and 3.8: the tile status word. A corner that is not checked classifies the tile as one that passes
(DESIGN CHOICE, log 86). -/
def Run.statusWord (r : Run) (w : W32) : W32 :=
  let (rows, cols, corner) := r.lines
  let failing (ls : List LineR) := (List.range ls.length).filter (fun i => ls[i]? == some LineR.fail)
  let un := (rows ++ cols ++ [corner]).filter (· == LineR.unchecked)
  let flags := b2n r.iovf * 2 ^ 29 + b2n r.skipped * 2 ^ 28 + un.length
  let word (wres row col : Nat) : W32 := BitVec.ofNat 32 (wres * 2 ^ 30 + flags + col * 2 ^ 18 + row * 2 ^ 10)
  if un.length = 641 then word 3 0 0
  else
    match failing rows, failing cols, corner with
    | [], [], .fail => word 1 (witRow w) (witCol w)
    | [], [], _ => word 0 0 0
    | [a], [c], _ => word 1 (physRow w a) (physCol w c)
    | [], [c], .fail => let _ := c; word 2 0 0
    | [], [c], _ => word 1 (witRow w) (physCol w c)
    | [a], [], .fail => let _ := a; word 2 0 0
    | [a], [], _ => word 1 (physRow w a) (witCol w)
    | _, _, _ => word 2 0 0

def wres (st : W32) : Nat := fld st 31 30

end Sys2Proof.Machine
end

