-- ==== Sys2Proof/Machine/Retire.lean ====
section
/-! DEFINITION. How a sequencer pair issues and retires an instruction (05 R128 to R133, 06 R174, R175), and hands a launch
over at a parting point (05 R142, 13 R328, R337). -/
namespace Sys2Proof.Machine

/-! ### Where an instruction stands -/

/-- A pair that runs a launch, with what the launch names. -/
structure Site where
  u : Nat
  l : Nat
  x : Launch
  c : Ctx
  prog : Program
  p : Pair

/-- Word index in the instruction store (Table 5.1 IADDR). -/
def Site.word (a : Site) : Nat := a.prog.ibase + a.p.pc

/-- Word index in the image, as a launch record names it (20 Table 20.5; DEDUCED, log 77). -/
def Site.iaddr (a : Site) : Nat := a.p.pc

/-- The bank's surroundings of an instruction of a launch. -/
def Site.src3 (a : Site) : Src3 := { params := a.x.params, seed := a.c.seed }

def Site.die (a : Site) : Nat := unitDie a.u

/-- The pair runs a launch whose word at its position is this instruction. -/
def State.site (s : State) (i : Issue) (z : Instr) : Option Site :=
  let u := i.unit.val
  let p := s.pair u
  match p.launch with
  | none => none
  | some l =>
    match s.launches.find l with
    | none => none
    | some x =>
      match s.ctxs.find x.ctx with
      | none => none
      | some c =>
        match c.progs.find x.prog with
        | none => none
        | some g =>
          if !p.stopped && x.st == .running u && (zdecode (g.image.code.drop p.pc)).map (·.1) == some z then
            some { u, l, x, c, prog := g, p }
          else none

/-! ### Presence of scalar registers (R132) -/

def srcRegs : Src → List Nat
  | .s n => [n.val]
  | .p _ => []

/-- The s registers an instruction reads or writes; a field that its form does not use names none (06 R155). -/
def sUses : Instr → List Nat
  | .ialu _ rd ra rb _ => rd.val :: srcRegs ra ++ srcRegs rb
  | .falu _ rd ra rb fn => rd.val :: srcRegs ra ++ (if fn.unary then [] else srcRegs rb)
  | .addi _ rd ra _ | .andi _ rd ra _ | .ori _ rd ra _ | .xori _ rd ra _ | .slti _ rd ra _ => rd.val :: srcRegs ra
  | .shli _ rd ra _ | .shri _ rd ra _ | .srai _ rd ra _ => rd.val :: srcRegs ra
  | .movz _ rd _ _ | .movk _ rd _ _ => [rd.val]
  | .br _ cond ra _ => if cond == .always then [] else [ra.val]
  | .loop _ sc _ _ => [sc.val]
  | .signal _ _ so sv sc => [so.val, sv.val] ++ (match sc with | some r => [r.val] | none => [])
  | .waitfor _ _ so sv => [so.val, sv.val]
  | .ltld _ _ (.feed sa) => [sa.val]
  | .tstat _ sd sh _ => [sd.val, sh.val]
  | .vbcast _ _ ra => srcRegs ra
  | .vextr _ sd _ _ => [sd.val]
  | .vred _ sd _ _ _ => [sd.val]
  | .vld _ _ sa _ _ => [sa.val]
  | .vst _ _ sa _ _ _ _ _ => [sa.val]
  | .vrand _ _ _ sk sn _ => [sk.val, sn.val]
  | .mpass _ f => if f.skm then [f.sk.val] else []
  | .mdrain _ _ _ _ sd => [sd.val]
  | .tmove _ f =>
    f.sc.val :: f.ex.val ::
      (match f.dir with
        | .memMem => [f.hd.val, f.hs.val, f.os.val, f.od.val]
        | .memSlot => [f.hs.val, f.os.val]
        | .slotMem => [f.hd.val, f.od.val])
  | .tgather _ hd hs hi _ sc => [hd.val, hs.val, hi.val, sc.val]
  | .tscatter _ hd hs hi _ sc _ => [hd.val, hs.val, hi.val, sc.val]
  | _ => []

/-- R132: an instruction issues where its pair stands at it and no register it names is pending; otherwise nothing
happens yet. A word of the instruction store with a detected error aborts the launch (20 Table 20.6). -/
def State.issue (s : State) (i : Issue) (z : Instr) (f : Site → State) : State :=
  match s.site i z with
  | none => s
  | some a =>
    if (sUses z).any a.p.pend.contains then s
    else
      match s.sramRead a.die (a.u % 16) (istoreBase + a.word) (istoreBase + a.word) with
      | (_, none) => f a
      | (s, some (w, y)) =>
        (s.raise (sramRecord a.die (a.u % 16) w y (some a.c.part) (some a.x.ctx) (some a.x.queue))).abortWith a.l 0x20
          a.iaddr a.x.icount

/-! ### Retirement (R128, R129) -/

/-- Table 5.1. -/
def tokenOf (iaddr dcls dnum : Nat) (taken : Bool) (crc : W32) : W64 :=
  BitVec.ofNat 64 (iaddr % 2 ^ 15 * 2 ^ 49 + dcls * 2 ^ 46 + dnum % 2 ^ 9 * 2 ^ 37 + b2n taken * 2 ^ 36 + crc.toNat)

/-- The position moves on behind an instruction that has issued. -/
def State.advance (s : State) (a : Site) (next : Nat) : State :=
  (s.modPair a.u (fun p => { p with pc := next, parted := false, wait := none })).modLaunch a.l
    (fun x => { x with icount := x.icount + 1 })

/-- R129: a difference between the two tokens is a sequencer fault; else the token is kept, the position moves on and
the result becomes visible. -/
def State.retire (s : State) (a : Site) (i : Issue) (tok : W64) (next : Nat) (f : State → State) : State :=
  if i.upset ≠ 0 then s.seqFault a.u a.l a.iaddr a.x.icount
  else f ((s.advance a next).modPair a.u (fun p => { p with token := tok }))

/-- 06 Table 6.19: an MPASS, an MDRAIN or a move has issued and retires later, where its two tokens are compared; its
entry `f` enters the state now. -/
def State.enter (s : State) (a : Site) (next : Nat) (f : State → State) : State := f (s.advance a next)

/-- 06 Table 6.19: such an instruction retires: its tokens agree, and the pair keeps its token. -/
def State.keepToken (s : State) (u : Nat) (tok : W64) : State := s.modPair u (fun p => { p with token := tok })

/-- The word after an instruction. -/
def Site.after (a : Site) (z : Instr) : Nat := a.p.pc + zlen z

/-- A fault at issue: the instruction has no effect and the launch is aborted (R175). -/
def State.faultAt (s : State) (a : Site) (cause : Nat) : State :=
  s.abortLaunch a.l { cause, iaddr := a.iaddr, ino := a.x.icount }

def lanesLe (v : Lanes) : List Byte := v.flatMap (fun x => natLe 4 x.toNat)
def boolsLe (v : List Bool) : List Byte := (chunks 8 v).map (fun g => BitVec.ofNat 8 (g.foldr (fun b n => b2n b + 2 * n) 0))

/-- An instruction that writes one s register. -/
def State.retireS (s : State) (a : Site) (i : Issue) (z : Instr) (n : Nat) (b : Bank) : State :=
  s.retire a i (tokenOf a.word 1 n false (crc32c (natLe 8 (b.sget n).toNat))) (a.after z)
    (fun s => s.modPair a.u (fun p => { p with bank := b }))

/-- An instruction that writes one v register. -/
def State.retireV (s : State) (a : Site) (i : Issue) (z : Instr) (n : Nat) (b : Bank) : State :=
  s.retire a i (tokenOf a.word 3 n false (crc32c (lanesLe (b.vget n)))) (a.after z)
    (fun s => s.modPair a.u (fun p => { p with bank := b }))

/-- An instruction that writes one q register. -/
def State.retireQ (s : State) (a : Site) (i : Issue) (z : Instr) (n : Nat) (b : Bank) : State :=
  s.retire a i (tokenOf a.word 2 n false (crc32c (boolsLe (b.qget n)))) (a.after z)
    (fun s => s.modPair a.u (fun p => { p with bank := b }))

/-! ### Handing over at a parting point -/

/-- R142: nothing of the launch is under way and every completion register is present. -/
def State.quiet (s : State) (u l : Nat) : Bool :=
  !s.busyWith l && (s.pair u).pend.isEmpty &&
    (s.mu u).drainQ.all (fun e => e.launch != l) && (s.mu u).preQ.all (fun e => e.launch != l)

/-- R328, R337: the launch leaves its pair, its position `pc` kept. A disable stops it (Table 13.11 order 3), a deadline
drop stops it; otherwise it is parked on its die, ready to resume. -/
def State.handOver (s : State) (u l pc : Nat) : State :=
  match s.launches.find l with
  | none => s
  | some x =>
    let p := s.pair u
    if x.why.contains .disable then
      let s := s.modItem x.queue x.item (fun it => { it with forced :=
        match it.forced with
        | some (4, _, _) => it.forced
        | some (8, _, _) => it.forced
        | _ => some (5, 0, 0) })
      s.closeLaunch l
    else if x.why.contains .drop then s.closeLaunch l
    else
      (s.detach l).modLaunch l (fun y => { y with
        st := .parked (unitDie u) p.bank.s p.l p.lRun pc, why := [], reqBy := none })

/-- A launch with a request pending hands over once R142 holds; until then it waits. -/
def State.tryHandOver (s : State) (a : Site) (pc : Nat) : State :=
  if s.quiet a.u a.l then s.handOver a.u a.l pc else s

/-! ### Words of a feed store with a detected error (20 Table 20.6, class 1) -/

/-- The record of a word that a launch met. -/
def State.sramRaise (s : State) (l d block idx synd : Nat) : State :=
  let x := s.launches.find l
  s.raise (sramRecord d block idx synd
    ((x.bind (fun x => s.ctxs.find x.ctx)).map (·.part)) (x.map (·.ctx)) (x.map (·.queue)))

/-- The reading launch is aborted with cause 0x20 after the record of the word. -/
def State.sramAbort (s : State) (l d block idx synd : Nat) : State := (s.sramRaise l d block idx synd).abortFor l 0x20

/-! ### Feed-store addresses of an image (R150, R164) -/

/-- The absolute byte address and slot of a register's address, where the access of `n` bytes is aligned, in range and
within one slot; none is a slot fault. -/
def Site.feedAddr (a : Site) (v : W64) (n : Nat) : Option (Nat × Nat) :=
  let x := v.toNat
  if x % 128 = 0 && x + n ≤ slotBytes * a.prog.image.slots && x / slotBytes == (x + n - 1) / slotBytes then
    some (slotBytes * a.prog.base + x, a.prog.base + x / slotBytes)
  else none

end Sys2Proof.Machine
end

