-- ==== Sys2Proof/Machine/Flags.lean ====
section
/-! DEFINITION. Status words and completion values: completion registers (06 R168, R173, Table 6.18), descriptor status
counters (04 R110, 02 R69) and the working estimates of tile classes (05 R139). -/
namespace Sys2Proof.Machine

/-! ### Completion values (Table 6.18) -/

def complValue (code count : Nat) : W64 := BitVec.ofNat 64 (code * 2 ^ 60 + count % 2 ^ 48)

/-- A completion register of a launch becomes present with its value; nothing happens where the launch has left its
pair. -/
def State.complete (s : State) (u l sd : Nat) (v : W64) : State :=
  if (s.pair u).launch == some l then
    s.modPair u (fun p => { p with bank := p.bank.sset sd v, pend := p.pend.filter (· != sd) })
  else s

/-! ### Descriptor status (Table 4.4) -/

def sat20 (x : Nat) : Nat := min x 0xFFFFF

/-- Add to OOR, OVFC and NANC; each saturates. -/
def statusAdd (st : W64) (oor : Nat) (c : Cnt) : W64 :=
  BitVec.ofNat 64 (sat20 (fld st 59 40 + oor) * 2 ^ 40 + sat20 (fld st 39 20 + c.ovf) * 2 ^ 20 +
    sat20 (fld st 19 0 + c.nan))

def State.countDesc (s : State) (ctx h oor : Nat) (c : Cnt) : State :=
  if oor = 0 && c.ovf = 0 && c.nan = 0 then s
  else s.modCtx ctx (fun x => { x with descs := x.descs.upd h (fun d => { d with status := statusAdd d.status oor c }) })

/-! ### Working estimates (05 R139) -/

def estKey (ctx prog cls : Nat) : Nat := 4096 * (65536 * ctx + prog) + cls

/-- A die's working estimate of a class: steps and energy in nJ. -/
def State.estimate (s : State) (d ctx prog cls : Nat) : Nat × Nat :=
  match (s.die d).west.find (estKey ctx prog cls) with
  | some e => e
  | none =>
    match (s.ctxs.find ctx).bind (fun c => c.progs.find prog) with
    | some g => ((g.image.est[cls]?).map (fun e => (e.1.toNat, e.2.toNat))).getD (0, 0)
    | none => (0, 0)

/-- R139: a tile of a class completes: its measured steps and energy (a free value) replace the estimate. -/
def State.measured (s : State) (d ctx prog cls steps : Nat) : State :=
  let (k, s) := s.draw
  let key := estKey ctx prog cls
  s.modDie d (fun x => { x with
    west := x.west.put key (steps % 2 ^ 32, Config.freeNat k (2 ^ 32) % 2 ^ 32)
    firstDone := if x.firstDone.contains key then x.firstDone else key :: x.firstDone })

/-- The working estimates of the images a test names, by context * 65536 + handle, are gone: an image that comes under
the same handle starts at its own table's values, and one tile of each class at a time (R139, R140). -/
def State.forget (s : State) (p : Nat → Bool) : State :=
  { s with dies := s.dies.map (fun e => (e.1, { e.2 with
      west := e.2.west.filter (fun w => !p (w.1 / 4096)), firstDone := e.2.firstDone.filter (fun w => !p (w / 4096)) })) }

end Sys2Proof.Machine
end

