-- ==== Sys2Proof/Machine/Disabling.lean ====
section
/-! DEFINITION. Disabling with work in flight (13 R335 to R337, Table 13.11): a queue, a context, a compute die or a codec
engine stops accepting work, its work stops, and its fence is signalled. -/
namespace Sys2Proof.Machine

/-! ### Orders 1 to 3 -/

/-- The ending an item takes when its work has stopped, unless it already has one. -/
def State.forceItem (s : State) (q id : Nat) (e : Nat × Nat × W64) : State :=
  s.modItem q id (fun i => if i.forced.isSome then i else { i with forced := some e })

/-- R335 order 2: end the items of a queue that have not started, in submission order. -/
def State.cancelWaiting (s : State) (q : Nat) : State :=
  let ids := (((s.queues.find q).map (·.items)).getD []).filterMap (fun i => if i.st == .waiting then some i.id else none)
  ids.foldl (fun s id => s.finishItem q id 4 0 0) s

/-- Stop one launch: a running one at its next parting point, another at once. -/
def State.stopLaunch (s : State) (l : Nat) (why : ParkWhy) (e : Nat × Nat × W64) : State :=
  match s.launches.find l with
  | none => s
  | some x =>
    match x.st with
    | .running _ => s.modLaunch l (fun y => { y with why := if y.why.contains why then y.why else y.why ++ [why] })
    | .fresh => (s.forceItem x.queue x.item e).closeLaunch l
    | .parked _ _ _ _ _ => (s.forceItem x.queue x.item e).closeLaunch l
    | _ => s

/-- Launches that meet a test. -/
def State.launchesOf (s : State) (p : Launch → Bool) : List Nat := (s.launches.filter (fun e => p e.2)).map (·.1)

/-- Keep of the items that wait on a stream those that pass a test. -/
def Stream.cutReady (x : Stream) (p : Nat × Nat × W64 → Bool) : Stream :=
  let ready := x.ready.filter p
  { x with ready, readyAt := if ready.head? == x.ready.head? then x.readyAt else none }

/-- 15 R370: a frame of a queue in progress will be abandoned; frames that wait end with STATUS 4. -/
def State.stopFrames (s : State) (q : Nat) : State :=
  let ids := s.codecs.flatMap (fun e => e.2.streams.flatMap (fun x =>
    (x.2.ready.filter (fun r => r.1 == q)).map (fun r => r.2.1)))
  let cut (x : Stream) : Stream := x.cutReady (fun r => r.1 != q)
  let stop (f : FrameRun) : FrameRun := if f.queue == q then { f with stop := true } else f
  let codecs : Tab Engine := s.codecs.map (fun e =>
    (e.1, { e.2 with streams := e.2.streams.map (fun x => (x.1, cut x.2)), cur := e.2.cur.map stop }))
  ids.foldl (fun s id => s.finishItem q id 4 0 0) { s with codecs }

/-- R335 order 4, 10 R271: of the Spindle jobs that meet a test, one whose row an engine runs stops after that row; the
others end now. -/
def State.stopJobs (s : State) (p : Nat → SpinJob → Bool) (e : Nat × Nat × W64) : State :=
  let runs (d : Nat) (j : SpinJob) : Bool := (s.die d).spinCur == some (j.queue, j.item)
  let gone := s.spin.flatMap (fun x => x.2.filter (fun j => p x.1 j && !runs x.1 j))
  let mark (d : Nat) (j : SpinJob) : SpinJob := if p d j then { j with stop := true } else j
  let spin : Tab (List SpinJob) := s.spin.map (fun x =>
    (x.1, (x.2.filter (fun j => !p x.1 j || runs x.1 j)).map (mark x.1)))
  gone.foldl (fun s j => (s.forceItem j.queue j.item e).doneItem j.queue j.item 0) { s with spin }

/-- R335 order 3 for the REPLAYs of a queue that run: they end with STATUS 5 when their entries have ended. -/
def State.stopReplays (s : State) (q : Nat) (e : Nat × Nat × W64) : State :=
  let stop (i : QItem) : QItem := match i.body with
    | .replay _ _ => if i.st == .started && i.forced.isNone then { i with forced := some e } else i
    | _ => i
  s.modQueue q (fun x => { x with items := x.items.map stop })

/-- R335 orders 1 to 3 for one queue. -/
def State.disableQueue (s : State) (q : Nat) : State :=
  let s := (((s.modQueue q (fun x => { x with disabled := true })).stopReplays q (5, 0, 0)).cancelWaiting q).stopFrames q
  let s := s.stopJobs (fun _ j => j.queue == q) (5, 0, 0)
  (s.launchesOf (fun x => x.queue == q)).foldl (fun s l => s.stopLaunch l .disable (5, 0, 0)) s

/-- The queues of a context. -/
def State.queuesOf (s : State) (c : Nat) : List Nat := (s.queues.filter (fun e => e.2.ctx == some c)).map (·.1)

def State.disableCtx (s : State) (c : Nat) : State :=
  (s.queuesOf c).foldl State.disableQueue (s.modCtx c (fun x => { x with disabled := true }))

/-- R336: a context marked not restorable accepts nothing more; all its queues are disabled. -/
def State.markNotRestorable (s : State) (c : Nat) : State :=
  match s.ctxs.find c with
  | some x => if x.notRestorable then s else (s.modCtx c (fun x => { x with notRestorable := true })).disableCtx c
  | none => s

/-- Dies that may still take a launch. -/
def State.dieTakes (s : State) (d : Nat) : Bool :=
  d < 4 && (s.die d).present && !(s.die d).failed && !(s.die d).disabled

/-- R335, a launch of a die disable: one that is on the die stops; one that could run only there cancels its item. -/
def State.dieLaunch (s : State) (d l : Nat) : State :=
  match s.launches.find l with
  | none => s
  | some x =>
    match x.st with
    | .running u => if unitDie u = d then s.stopLaunch l .disable (5, 0, 0) else s
    | .parked e _ _ _ _ => if e = d then s.stopLaunch l .disable (5, 0, 0) else s
    | .fresh =>
      if x.dies.any s.dieTakes then s
      else
        let s := s.forceItem x.queue x.item (4, 0, 0)
        (s.launchesOf (fun y => y.queue == x.queue && y.item == x.item && y.st == .fresh)).foldl State.closeLaunch s
    | _ => s

/-- R335 for a compute die; its debits are released (14 Table 14.3). -/
def State.disableDie (s : State) (d : Nat) : State :=
  let s := s.modDie d (fun x => { x with disabled := true, debits := [] })
  let s := s.stopJobs (fun e _ => e == d) (5, 0, 0)
  (s.launches.keys).foldl (fun s l => s.dieLaunch d l) s

/-- 15 R369: an engine stops after its frame in progress; items of its streams that wait end with STATUS 4. -/
def State.disableEngine (s : State) (e : Nat) : State :=
  let items := (s.engine e).streams.flatMap (fun x => x.2.ready.map (fun r => (r.1, r.2.1)))
  let streams : Tab Stream := (s.engine e).streams.map (fun x => (x.1, { x.2 with ready := [], readyAt := none }))
  let stop (f : FrameRun) : FrameRun := { f with stop := true }
  let s := s.modEngine e (fun g => { g with disabled := true, streams, cur := g.cur.map stop })
  items.foldl (fun s i => s.finishItem i.1 i.2 4 0 0) s

/-- Start a disable: orders 1 to 3. -/
def State.startDisable (s : State) (d : Disable) : State :=
  let s := { s with disables := s.disables.put s.nextDisable d, nextDisable := s.nextDisable + 1 }
  match d.scope with
  | .queue q => s.disableQueue q
  | .ctx c => s.disableCtx c
  | .die n => s.disableDie n
  | .codec e => s.disableEngine e

/-! ### Orders 4 to 7 -/

/-- A pass, tile, drain or preload is under way on a unit. -/
def MUnit.busy (m : MUnit) : Bool :=
  !m.passQ.isEmpty || !m.arr.isEmpty || m.shadow.isSome || !m.fin.isEmpty || m.closing.isSome

/-- Orders 2 to 5 are done: nothing in scope is left. -/
def State.scopeIdle (s : State) : Scope → Bool
  | .queue q => ((s.queues.find q).map (fun x => x.items.isEmpty)).getD true
  | .ctx c => (s.queuesOf c).all (fun q => ((s.queues.find q).map (fun x => x.items.isEmpty)).getD true) &&
      !s.launches.any (fun e => e.2.ctx == c && !e.2.isDone)
  | .die d =>
    !(List.range 16).any (fun k => (s.pair (16 * d + k)).launch.isSome) &&
      !s.moves.any (fun e => unitDie e.2.unit == d) && !s.mus.any (fun e => unitDie e.1 == d && e.2.busy) &&
      (s.spin.get [] d).isEmpty
  | .codec e => (s.engine e).cur.isNone

/-- Queues homed on a port (16 R385). -/
def State.homed (s : State) (p : Nat) : List Nat :=
  (s.queues.filter (fun e => e.2.ctx.isSome && e.2.port == p)).map (·.1)

/-- 16 R393: a port whose quiesce has no disable left completes it; a port that is not enabled holds its link down. -/
def State.quiesceDone (s : State) (p : Nat) : State :=
  let qs := s.homed p
  if (s.port p).quiescing && !s.disables.any (fun e => match e.2.scope with | .queue q => qs.contains q | _ => false) then
    let off := s.cfg 0x4035 (p + 1) == 0
    s.modPort p (fun x => { x with quiescing := false, quiesced := true, state := if off then 6 else x.state })
  else s

def State.quiesceAll (s : State) : State := (List.range 8).foldl State.quiesceDone s

/-- 16 R393: a port refuses doorbells and its queues are disabled. -/
def State.quiesce (s : State) (p : Nat) : State :=
  let s := s.modPort p (fun x => { x with quiescing := true })
  ((s.homed p).foldl (fun s q =>
    s.startDisable { scope := .queue q, fence := none, at' := s.clock.refc }) s).quiesceDone p

/-- Order 6: the fence is signalled with its value, and the item that asked for the disable ends. -/
def State.closeDisable (s : State) (n : Nat) (d : Disable) : State :=
  let s := ({ s with disables := s.disables.del n }).quiesceAll
  let s := match d.fence with | some (k, v) => s.modSem k (fun x => x.raise v false) | none => s
  match d.item with | some (q, id) => s.doneItem q id 0 | none => s

/-- R337: the queue disables inside a context's disable are closed first. -/
def State.innerDisables (s : State) : Scope → List (Nat × Disable)
  | .ctx c => s.disables.filter (fun e => match e.2.scope with | .queue q => (s.queuesOf c).contains q | _ => false)
  | _ => []

/-- DISABLE_COMPLETE. -/
def execDisableComplete (n : Nat) (s : State) : Out :=
  match s.disables.find n with
  | some d =>
    if s.scopeIdle d.scope then
      .next (((s.innerDisables d.scope).foldl (fun s e => s.closeDisable e.1 e.2) s).closeDisable n d)
    else .next s
  | none => .next s

/-- Whether a launch lies in a scope. -/
def Launch.inScope (x : Launch) : Scope → Bool
  | .queue q => x.queue == q
  | .ctx c => x.ctx == c
  | .die d => match x.st with | .running u => unitDie u == d | _ => false
  | .codec _ => false

def SpinJob.inScope (j : SpinJob) (die : Nat) : Scope → Bool
  | .queue q => j.queue == q
  | .ctx c => j.ctx == c
  | .die d => die == d
  | .codec _ => false

def FrameRun.inScope (f : FrameRun) (s : State) (e : Nat) : Scope → Bool
  | .queue q => f.queue == q
  | .ctx c => (s.queuesOf c).contains f.queue
  | .die _ => false
  | .codec k => e == k

/-- Order 7 on launches: aborted under R175 with cause 0x39 at the oldest instruction not retired (20 R461, log 77), their
items end with STATUS 8 and the first one's launch record, their contexts are not restorable. -/
def State.timeoutLaunch (s : State) (l : Nat) : State :=
  match s.launches.find l with
  | none => s
  | some x =>
    let (ia, n) := s.oldestOf l
    let y := x.blame { cause := 0x39, iaddr := ia, ino := n } s.log.seq
    let s := s.modItem x.queue x.item (fun i => { i with forced :=
      match i.forced with
      | some (8, c, v) => some (8, c, v)
      | _ => some (8, 0x39, y.lrec) })
    ((s.abortWith l 0x39 ia n).modCtx x.ctx (fun c => { c with notRestorable := true })).disableCtx x.ctx

/-- Order 7 on Spindle jobs and codec frames. -/
def State.timeoutItem (s : State) (q id : Nat) : State :=
  let c := (s.queues.find q).bind (·.ctx)
  let s := (s.modItem q id (fun i => { i with forced := some (8, 0, 0) })).doneItem q id 0
  match c with
  | some c => (s.modCtx c (fun x => { x with notRestorable := true })).disableCtx c
  | none => s

/-- The launches, jobs and frames still running in a scope, and the items they belong to; a launch aborted before is not
running. -/
def State.scopeWork (s : State) (sc : Scope) : List Nat × List (Nat × Nat) :=
  (s.launchesOf (fun x => !x.isDone && x.cause.isNone && x.inScope sc),
   s.spin.flatMap (fun e => (e.2.filter (fun j => j.inScope e.1 sc)).map (fun j => (j.queue, j.item))) ++
   s.codecs.flatMap (fun e => ((e.2.cur.toList).filter (fun f => f.inScope s e.1 sc)).map (fun f => (f.queue, f.item))))

/-- The record of a disable timeout (20 Table 20.4, cause 0x39). -/
def State.timeoutRecord (s : State) (sc : Scope) (n : Nat) : EvRec :=
  let base : EvRec := { cause := 0x39, sev := 2, detail := BitVec.ofNat 64 (n % 2 ^ 16) }
  match sc with
  | .queue q => { base with
      part := (s.queues.find q).map (·.part), ctx := (s.queues.find q).bind (·.ctx), queue := some q }
  | .ctx c => { base with part := (s.ctxs.find c).map (·.part), ctx := some c }
  | .die d => { base with die := d }
  | .codec e => { base with die := codecDie e, block := 32 + e % 2 }

/-- Started items of a scope's queues. -/
def State.scopeItems (s : State) (sc : Scope) : List (Nat × QItem) :=
  let ofQueue (q : Nat) : List (Nat × QItem) :=
    (((s.queues.find q).map (·.items)).getD []).filterMap (fun i => if i.st == .started then some (q, i) else none)
  match sc with
  | .queue q => ofQueue q
  | .ctx c => (s.queuesOf c).flatMap ofQueue
  | _ => []

/-- Order 7 on an item that neither a launch, a job nor a frame keeps: one that waits ends; a REPLAY ends with its entries. -/
def State.timeoutWait (s : State) (q : Nat) (i : QItem) : State :=
  match i.body with
  | .launch _ | .spindleRun _ | .codecFrame _ => s
  | .replay _ _ => s.modItem q i.id (fun i => { i with forced := some (8, 0, 0) })
  | _ => s.timeoutItem q i.id

/-- DISABLE_TIMEOUT: 2 ms have passed and work in scope still runs. What waits for passes already issued ends when they have,
and the fence is signalled then. -/
def execDisableTimeout (n : Nat) (s : State) : Out :=
  match s.disables.find n with
  | some d =>
    if !d.timedOut && s.now ≥ d.at'.toNat + usCounts 2000 && !s.scopeIdle d.scope then
      let (ls, its) := s.scopeWork d.scope
      let waits := s.scopeItems d.scope
      let items := ((ls.filterMap (fun l => (s.launches.find l).map (fun x => (x.queue, x.item)))) ++ its).eraseDups
      let s := s.raise (s.timeoutRecord d.scope items.length)
      let s := ls.foldl State.timeoutLaunch s
      let s := its.foldl (fun s i => s.timeoutItem i.1 i.2) s
      let spin : Tab (List SpinJob) := s.spin.map (fun e => (e.1, e.2.filter (fun j => !its.contains (j.queue, j.item))))
      let codecs : Tab Engine := s.codecs.map (fun e =>
        (e.1, { e.2 with cur := e.2.cur.filter (fun f => !its.contains (f.queue, f.item)) }))
      let s := waits.foldl (fun s w => s.timeoutWait w.1 w.2) { s with spin, codecs }
      let s := { s with disables := s.disables.upd n (fun d => { d with timedOut := true }) }
      .next (if !s.scopeIdle d.scope then s else ((s.innerDisables d.scope).foldl (fun s e => s.closeDisable e.1 e.2) s).closeDisable n d)
    else .next s
  | none => .next s

end Sys2Proof.Machine
end

