-- ==== Sys2Proof/Machine/Foot.lean ====
section
/-! DEFINITION. Footprints (13 R313, R314, R329, R330, R336): their overlap, their save at an eviction and their restore. -/
namespace Sys2Proof.Machine

/-- The slots of a footprint on a die: first, count. -/
def Ctx.slotsOn (c : Ctx) (d : Nat) : Nat × Nat := (c.slotBase.getD d 0, c.fsr.getD d 0)

/-- The scratch slices of a footprint on a die. -/
def Ctx.slicesOn (c : Ctx) (d : Nat) : List Nat := (List.range 16).filter (flag (c.slices.getD d 0))

/-- R314: two footprints overlap on a die. -/
def Ctx.overlapsOn (a b : Ctx) (d : Nat) : Bool :=
  let x := a.slotsOn d
  let y := b.slotsOn d
  (x.1 < y.1 + y.2 && y.1 < x.1 + x.2) || (a.slicesOn d).any (fun i => (b.slicesOn d).contains i)

/-- The units of a die. -/
def unitsOf (d : Nat) : List Nat := (List.range 16).map (16 * d + ·)

/-- First address of a scratch slice's window (12 R298). -/
def sliceAddr (d i : Nat) : Nat := slmBase + slmRange * d + sliceBytes * i

/-- R329: a footprint's contents on a die. -/
def State.footOf (s : State) (c : Ctx) (d : Nat) : SavedFoot :=
  let (b, n) := c.slotsOn d
  { units := (unitsOf d).map (fun u =>
      let m := s.mu u
      (u % 16, { feed := m.feed.cutOut (slotBytes * b) (slotBytes * n)
                 toks := (m.toks.filter (fun e => b ≤ e.1 && e.1 < b + n)).map (fun e => (e.1 - b, e.2)) }))
    slices := (c.slicesOn d).map (fun i => (i, s.mem.cutOut (sliceAddr d i) sliceBytes)) }

/-- SRAM words a footprint lies in on a die: block, first and last word. -/
def Ctx.wordsOn (c : Ctx) (d : Nat) : List (Nat × Nat × Nat) :=
  let (b, n) := c.slotsOn d
  (if n = 0 then [] else (List.range 16).map (fun k => (k, b * 4096, (b + n) * 4096 - 1))) ++
    (c.slicesOn d).map (fun i => (26, sliceWord i 0, sliceWord i (sliceBytes - 1)))

/-- Read the words of a footprint for a save: the records of those with a detected error. -/
def State.readFoot (s : State) (c : Nat) (part d : Nat) : List (Nat × Nat × Nat) → State × Bool
  | [] => (s, true)
  | (k, lo, hi) :: ws =>
    match s.sramRead d k lo hi with
    | (s, none) => State.readFoot s c part d ws
    | (s, some (idx, sy)) =>
      let (s, _) := State.readFoot (s.raise (sramRecord d k idx sy (some part) (some c) none)) c part d ws
      (s, false)

/-- R314: evict a context from a die: its footprint is saved, or discarded when it is not restorable (R336). A word with
a detected error makes it not restorable (20 Table 20.6). -/
def State.evict (s : State) (c d : Nat) : State :=
  match s.ctxs.find c with
  | none => s
  | some x =>
    if x.notRestorable then
      s.modCtx c (fun x => { x with resident := x.resident.filter (· != d), savedFoot := x.savedFoot.del d })
    else
      let f := s.footOf x d
      let (s, good) := s.readFoot c x.part d (x.wordsOn d)
      let s := s.modCtx c (fun x => { x with
        resident := x.resident.filter (· != d), savedFoot := x.savedFoot.put d f })
      if good then s else s.markNotRestorable c

/-- A unit's slots with saved contents, or with undefined contents and no tokens. -/
def State.fillUnit (s : State) (u b n : Nat) (f : Option SavedUnit) : State :=
  let s := s.sramWrite (unitDie u) (u % 16) (b * 4096) ((b + n) * 4096 - 1)
  match f with
  | some f => s.modMu u (fun m => { m with
      feed := m.feed.paste (slotBytes * b) (slotBytes * n) f.feed
      toks := f.toks.foldl (fun t e => t.put (e.1 + b) e.2) (m.toks.filter (fun e => e.1 < b || b + n ≤ e.1)) })
  | none =>
    let (k, s) := s.draw
    s.modMu u (fun m => { m with
      feed := m.feed.scramble (slotBytes * b) (slotBytes * n) k
      toks := m.toks.filter (fun e => e.1 < b || b + n ≤ e.1) })

def State.fillSlice (s : State) (d i : Nat) (f : Option Mem) : State :=
  let s := s.sramWrite d 26 (sliceWord i 0) (sliceWord i (sliceBytes - 1))
  match f with
  | some f => { s with mem := s.mem.paste (sliceAddr d i) sliceBytes f }
  | none => s.scrambleMem (sliceAddr d i) sliceBytes

/-- R314: make a context resident on a die: its saved footprint is restored; a footprint never saved holds nothing. -/
def State.makeResident (s : State) (c d : Nat) : State :=
  match s.ctxs.find c with
  | none => s
  | some x =>
    if x.resident.contains d then s
    else
      let f := x.savedFoot.find d
      let (b, n) := x.slotsOn d
      let s := if n = 0 then s else (unitsOf d).foldl (fun s u =>
        s.fillUnit u b n (f.bind (fun f => f.units.find (u % 16)))) s
      let s := (x.slicesOn d).foldl (fun s i => s.fillSlice d i (f.bind (fun f => f.slices.find i))) s
      s.modCtx c (fun x => { x with resident := d :: x.resident, savedFoot := x.savedFoot.del d })

/-- The resident contexts whose footprints stand in a context's way on a die. -/
def State.inWay (s : State) (c d : Nat) : List Nat :=
  match s.ctxs.find c with
  | some x =>
    (s.ctxs.filter (fun e => e.1 != c && e.2.resident.contains d && e.2.overlapsOn x d)).map (·.1)
  | none => []

/-- Work of a context that is still on a die. -/
def State.workOn (s : State) (c d : Nat) : List Nat :=
  (s.launches.filter (fun e => e.2.ctx == c &&
    ((match e.2.st with | .running u => unitDie u == d | _ => false) ||
     s.moves.any (fun m => m.2.launch == e.1 && unitDie m.2.unit == d) ||
     s.mus.any (fun m => unitDie m.1 == d && m.2.holds e.1)))).map (·.1)

end Sys2Proof.Machine
end

