-- ==== Sys2Proof/Machine/StageTable.lean ====
section
/-! DEFINITION. The stage table (07 R178 to R182): the fields of an entry, the instructions a body may hold, and
what an entry costs (R201). -/
namespace Sys2Proof.Machine

/-- 07 Table 7.1. -/
structure StageE where
  code : Nat
  len : Nat
  rough : Bool
  conf : Bool
  guide : Bool
  stat : Nat
  push : Bool
  ctype : Nat
  crm : Nat
  covf : Bool
  is' : List Nat
  iv : List Nat
  ns : Nat
  nv : Nat
  orgm : Nat
  orgn : Nat
  dst : Nat
  gd : Nat
  gsr : Nat
  srco : Nat
  stype : Nat
  rstr : Bool
  rrel : Bool
  nst : Nat
  ccode : Nat
  clen : Nat
  crow : Nat
  recR : Nat
  wp : Nat
  cf : Nat
  rsv : Nat
deriving DecidableEq, Repr

def stageOf (e : BitVec 256) : StageE :=
  let n := e.toNat
  { code := bits n 63 49, len := bits n 48 41, rough := bit n 40, conf := bit n 39, guide := bit n 38,
    stat := bits n 37 36, push := bit n 35, ctype := bits n 34 31, crm := bits n 30 30, covf := bit n 29,
    is' := [bits n 127 123, bits n 122 118, bits n 117 113, bits n 112 108],
    iv := [bits n 107 103, bits n 102 98, bits n 97 93, bits n 92 88],
    ns := bits n 87 85, nv := bits n 84 82, orgm := bits n 81 77, orgn := bits n 76 72,
    dst := bits n 191 187, gd := bits n 186 177, gsr := bits n 176 172, srco := bits n 171 163,
    stype := bits n 162 159, rstr := bit n 158, rrel := bit n 157, nst := bits n 156 143,
    ccode := bits n 255 241, clen := bits n 240 233, crow := bits n 232 225, recR := bits n 224 220,
    wp := bits n 219 214, cf := bits n 213 208,
    rsv := bits n 28 0 + bits n 71 64 + bits n 142 128 + bits n 207 192 }

/-- The reserved fields of an entry: those its KIND, PUSH, GUIDE and STAT leave unused (R178). -/
def StageE.reservedOk (e : StageE) : Bool :=
  e.rsv == 0 &&
  (if e.rough then
    !e.conf && !e.guide && e.stat == 0 && !e.push && e.ctype == 0 && e.orgm == 0 && e.orgn == 0 && e.dst == 0 &&
      e.gd == 0 && e.gsr == 0 && e.ccode == 0 && e.clen == 0 && e.crow == 0 && e.recR == 0 && e.wp == 0 && e.cf == 0
  else
    e.srco == 0 && e.stype == 0 && !e.rstr && !e.rrel && e.nst == 0 && (e.push || e.dst == 0) && (e.guide || e.gd == 0))

/-- Unused import fields are zero too, and the field ranges hold. -/
def StageE.fieldsOk (e : StageE) : Bool :=
  e.reservedOk && e.ns ≤ 4 && e.nv ≤ 4 && e.stat ≤ 2 &&
  (if e.rough then e.stype != 10 && e.stype ≤ 9 && 1 ≤ e.nst && e.nst ≤ 11776
   else
    (e.stat == 0 || e.push) && (!e.conf || e.ctype ≤ 7) && e.crow ≤ e.clen &&
      (!e.guide || (1 ≤ e.gd && e.gd ≤ 512)))

/-- R182: an instruction a body or closing code may hold. -/
def stageInstr : Instr → Bool
  | .ialu .. | .falu .. | .addi .. | .andi .. | .ori .. | .xori .. | .shli .. | .shri .. | .srai .. | .slti ..
  | .movz .. | .movk .. | .vfalu .. | .vialu .. | .vcmp .. | .vsel .. | .qop .. | .vbcast .. | .vextr .. | .vidx ..
  | .vred .. | .vrand .. => true
  | .vld _ _ _ _ rl => !rl
  | _ => false

/-- `n` instructions of a program from word `at'` on; none where the range is not in the image. -/
def bodyOf (prog : List (Nat × Instr)) : Nat → Nat → Option (List Instr)
  | 0, _ => some []
  | n + 1, at' =>
    match prog.find? (fun e => e.1 == at') with
    | some (_, i) => (bodyOf prog n (at' + zlen i)).map (i :: ·)
    | none => none

def StageE.body (e : StageE) (prog : List (Nat × Instr)) : Option (List Instr) := bodyOf prog e.len e.code
def StageE.closing (e : StageE) (prog : List (Nat × Instr)) : Option (List Instr) := bodyOf prog e.clen e.ccode

def StageE.codeOk (e : StageE) (prog : List (Nat × Instr)) : Bool :=
  (match e.body prog with | some b => b.all stageInstr | none => false) &&
  (e.clen == 0 || (match e.closing prog with | some b => b.all stageInstr | none => false))

/-! ### Charges (07 R201, Table 7.6), in thirds of a nanosecond -/

/-- Instruction times of a finishing run of a tile of shape M × N. -/
def StageE.finishTimes (e : StageE) : Nat :=
  let per := e.len + b2n e.conf * (if e.guide then 2 else 1) + (if e.guide then 2 else 0) +
    (if e.stat == 1 && !e.conf then 3 else if e.stat == 2 && !e.conf then 4 else 0) + 1 +
    (if e.push then 2 else 0)
  (if e.guide then 64 else 128) * per

/-- The closing pass a STAT stage may trigger: rows of a tile, width bound W and N. -/
def StageE.closeCharge (e : StageE) (m n w : Nat) : Nat :=
  let strips := cdiv w 512
  let rows := if e.guide then m / 2 else m
  let t := cdiv w n
  let stats := if e.conf then 2 * strips + 2 else t
  let vec := rows * (stats + e.crow + strips * (e.clen - e.crow + 1)) * 3
  -- bytes at 512 GB/s: 512 bytes a nanosecond
  let move := cdiv ((if e.conf then 3 else 2) * rows * w * 4 * 3) 512
  if e.stat = 0 then 0 else max vec move

/-- Instruction times of a roughing run. -/
def StageE.roughTimes (e : StageE) : Nat := e.nst * (e.len + 1 + 2)

end Sys2Proof.Machine
end

