-- ==== Sys2Proof/Machine/Loader.lean ====
section
/-! DEFINITION. The loader's checks on a program image (05 Table 5.3, R141 to R144, R503; 06 R160, R161, R167; 07
R179, R201) and the lead classes of 14 R342. Charges are in thirds of a nanosecond, so that a step at
1.5 x 10^9 a second counts two. -/
namespace Sys2Proof.Machine

/-! ### The image -/

/-- The instructions of an image; empty where a word does not decode. -/
abbrev Prog := List (Nat × Instr)

def Prog.at' (p : Prog) (n : Nat) : Option Instr := (p.find? (fun e => e.1 == n)).map (·.2)

/-- 06 R160: the declared maximum of a parameter register. -/
def imgMax (im : Image) (n : Nat) : W64 := im.pmax.getD n 0xFFFFFFFFFFFFFFFF#64

def imgTab (im : Image) (i : Nat) : LTab := ltabOf (im.ltabs.getD i 0)

def imgStage (im : Image) (n : Nat) : Option StageE :=
  if n = 0 then none else (im.stages[n - 1]?).map stageOf

/-! ### Control flow (R503) -/

/-- Words execution may reach from the instruction at `n`, a LOOP's back edge left out. -/
def flowNext (p : Prog) (n : Nat) : List Nat :=
  match p.at' n with
  | none => []
  | some i =>
    match i with
    | .endL _ => []
    | .br _ c _ t => if c == .always then [t.toNat] else [t.toNat, n + 1]
    | _ => [n + zlen i]

/-- The bodies of the loops: first word and the LOOP's word. -/
def bodies (p : Prog) : List (Nat × Nat) :=
  p.filterMap (fun e => match e.2 with | .loop _ _ _ off => some (e.1 - off.toNat, e.1) | _ => none)

/-- Every jump, from and to. -/
def jumps (p : Prog) : List (Nat × Nat) :=
  p.filterMap (fun e => match e.2 with
    | .br _ _ _ t => some (e.1, t.toNat)
    | .loop _ _ _ off => some (e.1, e.1 - off.toNat)
    | _ => none)

/-- The words reachable from a list of words, not passing beyond a word that `stop` holds of. -/
def reachF (next : Nat → List Nat) (stop : Nat → Bool) : Nat → List Nat → List Nat → List Nat
  | 0, _, seen => seen
  | _ + 1, [], seen => seen
  | fuel + 1, n :: work, seen =>
    if seen.contains n then reachF next stop fuel work seen
    else reachF next stop fuel (if stop n then work else next n ++ work) (n :: seen)

def Prog.isPart (p : Prog) (n : Nat) : Bool :=
  match p.at' n with
  | some (.part _) => true
  | _ => false

/-- Form 4: a cycle that no LOOP closes meets a PART. Every such cycle has a BR to its own word or an earlier one. -/
def cyclesOk (p : Prog) : Bool :=
  p.all (fun e =>
    match e.2 with
    | .br _ _ _ t =>
      e.1 < t.toNat || !((reachF (flowNext p) p.isPart (4 * p.length + 8) (flowNext p e.1) []).contains e.1)
    | _ => true)

/-- The trip bound of a LOOP, when the loader can read one (R159, R160). -/
def tripBound (im : Image) : LoopBound → Option Nat
  | .imm b => some (b.val + 1)
  | .param n => let m := imgMax im n.val; if m == 0xFFFFFFFFFFFFFFFF#64 then none else some (max m.toNat 1)

/-- Forms 1, 2, 3 and 5 of R503, and a trip bound on every LOOP. -/
def flowForm (im : Image) (p : Prog) : Bool :=
  (match p.getLast? with
    | some (_, .endL _) => true
    | some (_, .br _ c _ _) => c == .always
    | _ => false) &&
  p.all (fun e => match e.2 with
    | .loop _ _ b off => off.toNat ≤ e.1 && (tripBound im b).isSome
    | _ => true) &&
  (jumps p).all (fun j => (p.at' j.2).isSome) &&
  (bodies p).all (fun a => (bodies p).all (fun b =>
    a.2 < b.1 || b.2 < a.1 || (a.1 ≤ b.1 && b.2 ≤ a.2) || (b.1 ≤ a.1 && a.2 ≤ b.2))) &&
  (jumps p).all (fun j => (bodies p).all (fun b =>
    !(b.1 < j.2 && j.2 ≤ b.2) || (b.1 ≤ j.1 && j.1 ≤ b.2)))

/-! ### What holds on every path: runs, pairings, tables (R79, R141, R161, R167) -/

/-- What the loader follows along a path: an open run with the end of its last pass, its chunk and its first position,
where that pass's table decides them; the finishing stages of unclaimed drains; unclaimed preloads; the image table in
each L register, plus one (0: one loaded at run time). -/
structure Flow where
  run : Option (Option (Nat × Nat × Nat)) := none
  drains : List Nat := []
  pres : Nat := 0
  lt : Tab Nat := []
deriving DecidableEq, Repr

/-- The table a pass reads, where the path fixes it to an image table. -/
def Flow.table (im : Image) (f : Flow) (ln : Nat) : Option LTab :=
  match f.lt.find ln with
  | some (i + 1) => some (imgTab im i)
  | _ => none

/-- Guidance shape of R179. -/
def guideOk (e : StageE) (t : LTab) : Bool := !e.guide || ((e.gd * t.n) % 512 == 0 && t.m % (2 * e.gd) == 0)

/-- Output region of a roughing run: bytes from BASEA or BASEB, inside its stream's span (R179, R191). -/
def roughSpanOk (e : StageE) (t : LTab) : Bool :=
  let et := if e.rstr then t.etb else t.eta
  let base := if e.rstr then t.baseb else t.basea
  let i : Nat := if e.rstr then 1 else 0
  match t.ranges[i]? with
  | some (lo, hi) => lo ≤ base && ((base : Int) + lastByte et (e.nst * 512 - 1 : Nat)) ≤ hi
  | none => false

/-- The run rules on a pass whose table is an image table and whose K levels take no extent from a parameter: against
the pass before it where that one is such a pass too, else for itself (R79). -/
def runKnown (t : LTab) (prev : Option (Nat × Nat × Nat)) : Option (Nat × Nat × Nat) :=
  if t.ks.all (fun l => !l.extv) then some (t.korg + t.kBound, t.chunk, (prev.map (·.2.2)).getD t.korg) else none

/-- One instruction on a path: the codes of the checks it fails, and the flow after it. A path that collects more drains
or preloads than the image has words goes round a cycle that no pass claims them on, and fails already. -/
def flowStep (im : Image) (f : Flow) (i : Instr) : List Nat × Flow :=
  match i with
  | .mdrain _ _ _ fent _ => ([], { f with drains := (f.drains ++ [fent.toNat]).take im.code.length })
  | .mpreload .. => ([], { f with pres := min im.code.length (f.pres + 1) })
  | .ltld _ ln (.image idx) => ([], { f with lt := f.lt.put ln.val (idx.toNat + 1) })
  | .ltld _ ln (.feed _) => ([], { f with lt := f.lt.put ln.val 0 })
  | .part _ => (if f.run.isSome || f.pres > 0 then [8] else [], f)
  | .endL _ => (if f.run.isSome || !f.drains.isEmpty || f.pres > 0 then [5] else [], f)
  | .mpass _ m =>
    let t := f.table im m.ln.val
    let first := f.run.isNone
    let pairing := (!m.cont && f.drains.isEmpty) || (m.pre && !first) || (m.pre && f.pres == 0)
    let prev : Option (Nat × Nat × Nat) := f.run.getD none
    let known := t.bind (fun t => runKnown t prev)
    let runBad := match t with
      | some t => (known.isSome && !t.runOk [] prev) || (m.pre && t.slots.length + 16 > 368)
      | none => false
    let stage := match f.drains.head?.bind (imgStage im), t with
      | some e, some t => !m.cont && !guideOk e t
      | _, _ => false
    let rough := match imgStage im m.rent.toNat, t with
      | some e, some t => !roughSpanOk e t
      | _, _ => false
    ((if stage || rough then [3] else []) ++ (if pairing then [5] else []) ++ (if runBad then [6] else []),
      { f with run := if m.cont then some known else none,
               drains := if m.cont then f.drains else f.drains.drop 1,
               pres := if m.pre then f.pres - 1 else f.pres })
  | _ => ([], f)

/-- Words that follow one, back edges of loops included. -/
def allNext (p : Prog) (n : Nat) : List Nat :=
  match p.at' n with
  | some (.loop _ _ _ off) => [n - off.toNat, n + 1]
  | _ => flowNext p n

/-- Every state a path can be in at every word, and the failing codes met on the way. -/
def flowsF (im : Image) (p : Prog) : Nat → List (Nat × Flow) → List (Nat × Flow) → List Nat → List (Nat × Flow) × List Nat
  | 0, _, seen, codes => (seen, codes)
  | _ + 1, [], seen, codes => (seen, codes)
  | fuel + 1, (n, f) :: work, seen, codes =>
    if seen.contains (n, f) then flowsF im p fuel work seen codes
    else
      match p.at' n with
      | none => flowsF im p fuel work ((n, f) :: seen) codes
      | some i =>
        let (cs, f') := flowStep im f i
        flowsF im p fuel ((allNext p n).map (·, f') ++ work) ((n, f) :: seen) (cs ++ codes)

/-- More than the states there are: words, L registers, open runs, and lists of at most 32,768 drains. -/
def flowFuel : Nat := 2 ^ 262656

def flows (im : Image) (p : Prog) : List (Nat × Flow) × List Nat := flowsF im p flowFuel [(0, {})] [] []

/-! ### Vector registers and predicates live at a PART (R141) -/

def predReads : Option (Fin 8) → List Nat
  | some q => [32 + q.val]
  | none => []

/-- v registers (0 to 31) and q registers (32 to 39) an instruction reads; a stage's imports with the MDRAIN or
MPASS that names it (07 R180). -/
def vqReads (im : Image) : Instr → List Nat
  | .vfalu _ vd va vb pr fn =>
    va.val :: (if fn.unary then [] else [vb.val]) ++ predReads pr ++
      (if pr.isSome || fn == .fma then [vd.val] else [])
  | .vialu _ vd va vb pr _ => va.val :: vb.val :: predReads pr ++ (if pr.isSome then [vd.val] else [])
  | .vcmp _ _ va vb pr _ => va.val :: vb.val :: predReads pr
  | .vsel _ _ va vb q => [va.val, vb.val, 32 + q.val]
  | .vextr _ _ va _ => [va.val]
  | .vred _ _ va pr _ => va.val :: predReads pr
  | .vst _ va _ vb _ rm _ _ => va.val :: (if rm.toNat == 2 then [vb.val] else [])
  | .vrand _ _ va _ _ _ => [va.val]
  | .qop _ _ qa qb fn => (if fn.arity ≥ 1 then [32 + qa.val] else []) ++ (if fn.arity ≥ 2 then [32 + qb.val] else [])
  | .mdrain _ _ _ fent _ => ((imgStage im fent.toNat).map (fun e => e.iv.take e.nv)).getD []
  | .mpass _ f => ((imgStage im f.rent.toNat).map (fun e => e.iv.take e.nv)).getD []
  | _ => []

/-- Registers an instruction overwrites whole. -/
def vqWrites : Instr → List Nat
  | .vfalu _ vd _ _ pr _ => if pr.isSome then [] else [vd.val]
  | .vialu _ vd _ _ pr _ => if pr.isSome then [] else [vd.val]
  | .vcmp _ qd .. => [32 + qd.val]
  | .vsel _ vd .. => [vd.val]
  | .vbcast _ vd _ => [vd.val]
  | .vidx _ vd => [vd.val]
  | .vld _ vd .. => [vd.val]
  | .vrand _ vd .. => [vd.val]
  | .vrandj _ vd => [vd.val]
  | .qop _ qd .. => [32 + qd.val]
  | _ => []

/-- Register r may be read after the PART at word n before it is overwritten. -/
def liveAfter (im : Image) (p : Prog) (n r : Nat) : Bool :=
  let reads (k : Nat) := ((p.at' k).map (fun i => (vqReads im i).contains r)).getD false
  let writes (k : Nat) := ((p.at' k).map (fun i => (vqWrites i).contains r)).getD false
  (reachF (allNext p) (fun k => reads k || writes k) (4 * p.length + 8) (allNext p n) []).any reads

def partsOk (im : Image) (p : Prog) : Bool :=
  p.all (fun e => !p.isPart e.1 || (List.range 40).all (fun r => !liveAfter im p e.1 r))

/-- R143: a WAITFOR immediately follows a PART, on every way to it. -/
def waitsOk (p : Prog) : Bool :=
  let isWait (e : Nat × Instr) : Bool := match e.2 with | .waitfor .. => true | _ => false
  p.all (fun e => !isWait e || (0 < e.1 && p.isPart (e.1 - 1) && !(jumps p).any (fun j => j.2 == e.1)))

/-! ### The charge (R144) -/

/-- The largest step count of an image's loop tables, 0 where it holds none. -/
def imgMaxSteps (im : Image) : Nat := maxN ((List.range im.ltabs.length).map (fun i => (imgTab im i).stepsOf (imgTab im i).kBound))

/-- Steps a pass is charged. -/
def passSteps (im : Image) (f : Flow) (ln : Nat) : Nat :=
  match f.lt.find ln with
  | some (i + 1) => (imgTab im i).stepsOf (imgTab im i).kBound
  | some 0 => imgMaxSteps im
  | none => 0

/-- The shapes an image's tables name. -/
def imgFolds (im : Image) : List Nat :=
  if im.ltabs.isEmpty then [0] else (List.range im.ltabs.length).map (fun i => (imgTab im i).fold)

/-- The shapes of a pass: its table's, or where that is loaded at run time those of the image's tables (log 81). -/
def Flow.folds (im : Image) (f : Flow) (ln : Nat) : List Nat :=
  match f.lt.find ln with
  | some (i + 1) => [(imgTab im i).fold]
  | some 0 => imgFolds im
  | none => [0]

/-- The closing pass that a drain's stage may bring, in the costliest of some shapes (R201). -/
def closeCharge (im : Image) (fent : Nat) (folds : List Nat) : Nat :=
  match imgStage im fent with
  | some e => maxN (folds.map (fun f => e.closeCharge (128 * 2 ^ f) (512 / 2 ^ f) (imgMax im e.wp).toNat))
  | none => 0

/-- The shapes of the passes that may take the k-th unclaimed drain, on the paths from some words and L registers. -/
def takersF (im : Image) (p : Prog) : Nat → List (Nat × Nat × Tab Nat) → List (Nat × Nat × Tab Nat) → List Nat → List Nat
  | 0, _, _, acc => acc
  | _ + 1, [], _, acc => acc
  | fuel + 1, x :: work, seen, acc =>
    if seen.contains x then takersF im p fuel work seen acc
    else
      let f : Flow := { lt := x.2.2 }
      let go (k : Nat) (lt : Tab Nat) := (allNext p x.1).map (fun n => (n, k, lt)) ++ work
      match p.at' x.1 with
      | none => takersF im p fuel work (x :: seen) acc
      | some (.mpass _ m) =>
        if m.cont then takersF im p fuel (go x.2.1 x.2.2) (x :: seen) acc
        else if x.2.1 = 0 then takersF im p fuel work (x :: seen) (f.folds im m.ln.val ++ acc)
        else takersF im p fuel (go (x.2.1 - 1) x.2.2) (x :: seen) acc
      | some i => takersF im p fuel (go x.2.1 (flowStep im f i).2.lt) (x :: seen) acc

def takers (im : Image) (p : Prog) (n k : Nat) (lt : Tab Nat) : List Nat := takersF im p flowFuel [(n, k, lt)] [] []

/-- What an instruction adds, given the steps of the pass before it and whether that one drained. -/
def chargeOf (im : Image) (f : Flow) (prev : Nat × Bool) (i : Instr) : Nat × (Nat × Bool) :=
  match i with
  | .mpass _ m =>
    let st := passSteps im f m.ln.val
    let rough := ((imgStage im m.rent.toNat).map (fun e => 3 * e.roughTimes)).getD 0
    (2 * st + (if prev.2 then 2 * (128 - st) else 0) + (if m.pre then 2 * (128 - prev.1) else 0) + rough,
      (st, !m.cont))
  | .mdrain _ _ _ fent _ =>
    (((imgStage im fent.toNat).map (fun e => 3 * e.finishTimes)).getD 0, prev)
  | .tmove .. | .tgather .. | .tscatter .. | .signal .. | .ltld .. => (12, prev)
  | .mpreload .. | .part _ | .endL _ | .waitfor .. => (0, prev)
  | _ => (3, prev)

def hasPass (p : Prog) : Bool := p.any (fun e => match e.2 with | .mpass .. => true | _ => false)

/-- Where a path stands: the next word, the charge behind it, the image table in each L register, the pass before, and
the drains no pass has claimed, each with its stage (0: none, or one charged to an earlier path). -/
structure PathPt where
  n : Nat
  c : Nat
  lt : Tab Nat
  prev : Nat × Bool
  drains : List Nat := []
deriving DecidableEq, Repr

/-- Where the paths of a stretch of code lead: out of it, to the LOOP that closes it, or beyond the limit. -/
structure Paths where
  out : List PathPt := []
  turn : List PathPt := []
  bad : Bool := false
deriving DecidableEq, Repr

/-- Of points alike in all but the charge the costliest is kept. -/
def joinPt (x : PathPt) (ys : List PathPt) : List PathPt :=
  let same (y : PathPt) : Bool := y.n == x.n && y.prev == x.prev && y.lt == x.lt && y.drains == x.drains
  if ys.any (fun y => same y && x.c ≤ y.c) then ys else x :: ys.filter (fun y => !same y)

def Paths.join (a b : Paths) : Paths :=
  { out := b.out.foldr joinPt a.out, turn := b.turn.foldr joinPt a.turn, bad := a.bad || b.bad }

/-- A closing pass is charged to the path of its MDRAIN, in the shape of the pass that takes it: at that pass, or at the
PART that ends the path before one does. -/
def PathPt.closing (im : Image) (p : Prog) (x : PathPt) (i : Instr) : Nat :=
  match i with
  | .mpass _ m => if m.cont then 0 else closeCharge im (x.drains.headD 0) (Flow.folds im { lt := x.lt } m.ln.val)
  | .part _ => sumN ((List.range x.drains.length).map (fun k =>
      let fent := x.drains.getD k 0
      if fent = 0 then 0 else closeCharge im fent (takers im p (x.n + 1) k x.lt)))
  | _ => 0

/-- A point after the instruction at its word; a path ends at a PART and at an END. -/
def PathPt.after (im : Image) (p : Prog) (x : PathPt) : List PathPt :=
  match p.at' x.n with
  | none => []
  | some i =>
    let f : Flow := { lt := x.lt, drains := x.drains }
    let (k, prev) := chargeOf im f x.prev i
    let g := (flowStep im f i).2
    let y : PathPt := { x with c := x.c + k + x.closing im p i, lt := g.lt, drains := g.drains, prev }
    match i with
    | .part _ => [{ y with n := 32768 }]
    | .endL _ => [{ y with n := 32768 }]
    | .br _ cond _ t => { y with n := t.toNat } :: (if cond != .always then [{ y with n := x.n + 1 }] else [])
    | _ => [{ y with n := x.n + zlen i }]

/-- A LOOP: the first word of its body, its own word, its trip bound. -/
structure LoopAt where
  head : Nat
  word : Nat
  trips : Nat
deriving DecidableEq, Repr

def loopsOf (im : Image) (p : Prog) : List LoopAt :=
  p.filterMap (fun e => match e.2 with
    | .loop _ _ b off => some ⟨e.1 - off.toNat, e.1, (tripBound im b).getD 1⟩
    | _ => none)

/-- The trips of a body: the first from any words of it, each later one from its head. Every trip may be the last. -/
def tripsF (limit : Nat) (body : List PathPt → Paths) (head word : Nat) : Nat → List PathPt → Paths → Paths
  | 0, _, acc => acc
  | k + 1, xs, acc =>
    if xs.isEmpty || acc.bad then acc
    else
      let r := body xs
      let turns := r.turn.map (fun x => { x with c := x.c + 3 })
      let acc := acc.join
        { out := r.out ++ turns.map (fun x => { x with n := word + 1 }), bad := r.bad || turns.any (fun x => x.c > limit) }
      tripsF limit body head word k (turns.map (fun x => { x with n := head })) acc

/-- Paths through a stretch of code from the points waiting, the one at the lowest word first; `inner` follows the loops
inside it, `own` is the LOOP that closes it. -/
def stretchF (im : Image) (p : Prog) (limit lo hi : Nat) (own : Option Nat) (inner : LoopAt → List PathPt → Paths)
    (loops : List LoopAt) : Nat → List PathPt → Paths → Paths
  | 0, _, acc => acc
  | fuel + 1, work, acc =>
    if acc.bad then acc
    else
      match bestBy (fun a b => a.n < b.n) work with
      | none => acc
      | some x =>
        let rest := work.filter (· != x)
        if x.n < lo || hi < x.n then stretchF im p limit lo hi own inner loops fuel rest (acc.join { out := [x] })
        else if own == some x.n then stretchF im p limit lo hi own inner loops fuel rest (acc.join { turn := [x] })
        else
          match bestBy (fun a b => b.word - b.head < a.word - a.head)
              (loops.filter (fun l => l.head ≤ x.n && x.n ≤ l.word)) with
          | some l =>
            let here := work.filter (fun y => y.n == x.n)
            let r := inner l here
            stretchF im p limit lo hi own inner loops fuel (r.out.foldr joinPt (work.filter (fun y => y.n != x.n)))
              { acc with bad := r.bad }
          | none =>
            let ys := x.after im p
            stretchF im p limit lo hi own inner loops fuel (ys.foldr joinPt rest)
              { acc with bad := ys.any (fun y => y.c > limit) }

/-- Paths through a loop, its trips counted, with the loops inside it followed in turn. -/
def loopPaths (im : Image) (p : Prog) (limit : Nat) : Nat → LoopAt → List PathPt → Paths
  | 0, _, _ => {}
  | depth + 1, l, xs =>
    let loops := (loopsOf im p).filter (fun k => l.head ≤ k.head && k.word < l.word)
    let body (ys : List PathPt) : Paths :=
      stretchF im p limit l.head l.word (some l.word) (loopPaths im p limit depth) loops (300001 * 300001) ys {}
    tripsF limit body l.head l.word l.trips xs {}

/-- R144: some path between parting points is charged more than 100 us. -/
def chargeBad (im : Image) (p : Prog) : Bool :=
  let limit := 300000 - (if hasPass p then 256 else 0)
  let starts : List PathPt := ⟨0, 0, [], (0, true), []⟩ ::
    ((flows im p).1.filter (fun e => p.isPart e.1)).map (fun e =>
      ⟨e.1 + 1, 0, e.2.lt, (0, true), List.replicate e.2.drains.length 0⟩)
  let loops := loopsOf im p
  starts.any (fun x =>
    (stretchF im p limit 0 32767 none (loopPaths im p limit loops.length) loops (300001 * 300001) [x] {}).bad)

/-! ### Table 5.3 -/

def slotsNamed (im : Image) (i : Instr) : List Nat :=
  match i with
  | .mpreload _ _ sl _ => [sl.toNat, sl.toNat + 15]
  | .mdrain _ _ sl _ _ => [sl.toNat, sl.toNat + 15]
  | .tmove _ f => if f.dir == .memMem then [] else [f.slot.toNat]
  | .ltld _ _ (.image idx) => (imgTab im idx.toNat).slots
  | _ => []

/-- Stage numbers named by an MPASS or MDRAIN exist and have the right kind; STAT and GUIDE need AX 0. -/
def stageUseOk (im : Image) : Instr → Bool
  | .mpass _ f =>
    f.rent.toNat == 0 || ((imgStage im f.rent.toNat).map (·.rough)).getD false
  | .mdrain _ ax _ fent _ =>
    fent.toNat == 0 ||
      ((imgStage im fent.toNat).map (fun e => !e.rough && (!ax || (e.stat == 0 && !e.guide)))).getD false
  | _ => true

def roughSlotsOk (im : Image) (e : StageE) : Bool :=
  !e.rough || e.srco + cdiv ((lastByte e.stype ((e.nst * 512 - 1 : Nat) : Int)).toNat + 1) 0x4000 ≤ im.slots

def encodingOk (im : Image) (p : Prog) : Bool :=
  im.stages.length ≤ 255 &&
  im.stages.all (fun w =>
    let e := stageOf w
    e.fieldsOk && e.codeOk p && roughSlotsOk im e &&
      (e.stat == 0 || imgMax im e.wp != 0xFFFFFFFFFFFFFFFF#64)) &&
  p.all (fun e => stageUseOk im e.2)

def operandsOk (im : Image) (p : Prog) : Bool :=
  p.all (fun e => match e.2 with | .ltld _ _ (.image idx) => idx.toNat < im.ltabs.length | _ => true)

def classesOk (im : Image) (p : Prog) : Bool :=
  p.all (fun e => match e.2 with | .mpass _ f => f.cls.toNat < im.est.length | _ => true)

/-- The first failing check of Table 5.3 before the room check; 0 when all pass. -/
def loadCode (im : Image) : Nat :=
  if im.isa != 2 || im.rsv != 0 then 1
  else if im.code.length > 32768 || im.est.length > 4096 || im.ltabs.length > 1024 then 2
  else
    match zprog im.code with
    | none => 3
    | some p =>
      let formed := flowForm im p && cyclesOk p
      let codes := (flows im p).2
      if !encodingOk im p || codes.contains 3 then 3
      else if !operandsOk im p then 4
      else if !formed || codes.contains 5 then 5
      else if !(im.ltabs.all (fun t => (ltabOf t).ok)) || codes.contains 6 then 6
      else if im.slots > 384 || !(p.all (fun e => (slotsNamed im e.2).all (· < im.slots))) ||
          !((List.range im.ltabs.length).all (fun i => (imgTab im i).slots.all (· < im.slots))) then 7
      else if !partsOk im p || codes.contains 8 then 8
      else if !waitsOk p then 9
      else if chargeBad im p then 0xA
      else if !classesOk im p then 0xB
      else 0

/-- R151: the image uses the KD1 jump mode. -/
def usesJump (p : Prog) : Bool := p.any (fun e => match e.2 with | .vrandj .. => true | _ => false)

/-! ### Lead classes (14 R342) -/

/-- The classes of the passes a path from word n reaches before its next PART. -/
def classesFrom (p : Prog) (n : Nat) : List Nat :=
  let ws := reachF (allNext p) p.isPart (4 * p.length + 8) [n] []
  ws.filterMap (fun k => match p.at' k with | some (.mpass _ f) => some f.cls.toNat | _ => none)

/-- The lead class of the point before word n: the tile class of greatest energy estimate. -/
def leadClass (im : Image) (p : Prog) (n : Nat) : Option Nat :=
  bestBy (fun a b => ((im.est.getD b (0, 0)).2 < (im.est.getD a (0, 0)).2)) (classesFrom p n)

end Sys2Proof.Machine
end

