-- ==== Sys2Proof/Machine/Control.lean ====
section
/-! DEFINITION. Control, synchronisation and table instructions (06 R159 to R161, R171, R172; 05 R142, R143). -/
namespace Sys2Proof.Machine

/-- 06 Table 6.6: COND holds of a value. -/
def brHolds (c : BrCond) (v : W64) : Bool :=
  match c with
  | .always => true
  | .eq0 => v == 0
  | .ne0 => v != 0
  | .lt0 => v.slt 0
  | .ge0 => !v.slt 0
  | .gt0 => !v.slt 0 && v != 0
  | .le0 => v.slt 0 || v == 0

/-- 06 R153, Table 6.6. -/
def execBr (i : Issue) (cond : BrCond) (ra : Fin 32) (tgt : BitVec 15) (s : State) : Out :=
  let z := Instr.br noIssue cond ra tgt
  .next (s.issue i z (fun a =>
    let t := brHolds cond (a.p.bank.sget ra.val)
    s.retire a i (tokenOf a.word 0 0 t 0) (if t then tgt.toNat else a.after z) id))

/-- 06 Table 6.7: the bound of a LOOP. -/
def boundOf (p : Tab W64) : LoopBound → Nat
  | .imm b => b.val + 1
  | .param n => (p.get 0 n.val).toNat

/-- 06 R159. -/
def execLoop (i : Issue) (sc : Fin 32) (bound : LoopBound) (off : BitVec 11) (s : State) : Out :=
  let z := Instr.loop noIssue sc bound off
  .next (s.issue i z (fun a =>
    let c := (a.p.bank.sget sc.val).toNat + 1
    let v : W64 := BitVec.ofNat 64 c
    let t := c < boundOf a.x.params bound
    s.retire a i (tokenOf a.word 1 sc.val t (crc32c (natLe 8 v.toNat)))
      (if t then a.p.pc - off.toNat else a.after z)
      (fun s => s.modPair a.u (fun p => { p with bank := p.bank.sset sc.val v }))))

/-- 06 R161: retires when nothing of the launch is under way, and completes it. -/
def execEnd (i : Issue) (s : State) : Out :=
  let z := Instr.endL noIssue
  .next (s.issue i z (fun a =>
    if s.quiet a.u a.l then
      s.retire a i (tokenOf a.word 0 0 false 0) (a.after z) (fun s => s.closeLaunch a.l)
    else s))

/-- 05 R142: with no request pending PART retires at once; with one it waits for R142 and hands the launch over. -/
def execPart (i : Issue) (s : State) : Out :=
  let z := Instr.part noIssue
  .next (s.issue i z (fun a =>
    if a.x.why.isEmpty then
      s.retire a i (tokenOf a.word 0 0 false 0) (a.after z)
        (fun s => (s.modPair a.u (fun p => { p with parted := true })).modDie a.die (fun d => d.dropLead a.l))
    else if s.quiet a.u a.l then
      s.retire a i (tokenOf a.word 0 0 false 0) (a.after z) (fun s => s.handOver a.u a.l (a.after z))
    else s))

/-- A die fence's key in its context. -/
def fenceKey (d n : Nat) : Nat := d * 64 + n

/-- 06 R172: what SIGNAL or WAITFOR names: a die fence, or a synchronisation object the context holds. -/
def Site.syncFault (a : Site) (s : State) (kind : SyncKind) (so : W64) : Option Nat :=
  match kind with
  | .fence => if so.toNat > 63 then some 0x16 else none
  | .sem =>
    match s.sems.find so.toNat with
    | some k => if k.part == a.c.part then none else some 0x18
    | none => some 0x18

/-- 06 R172: the value a WAITFOR compares. -/
def Site.syncValue (a : Site) (s : State) (kind : SyncKind) (so : W64) : W64 :=
  match kind with
  | .fence => a.c.fences.get 0 (fenceKey a.die so.toNat)
  | .sem => ((s.sems.find so.toNat).map (·.value)).getD 0

/-- R172: add to a die fence, saturating. -/
def Ctx.addFence (c : Ctx) (d n : Nat) (v : W64) : Ctx :=
  let old := c.fences.get 0 (fenceKey d n)
  { c with fences := c.fences.put (fenceKey d n) (BitVec.ofNat 64 (min (old.toNat + v.toNat) (2 ^ 64 - 1))) }

/-- The CRC of a synchronisation instruction: its words, then its resolved operands (log 18). -/
def syncCrc (z : Instr) (xs : List Nat) : W32 :=
  Config.resolvedCrc ((((zencode z).getD []).map (·.toNat)) ++ xs)

/-- 06 R172, 05 R136. -/
def execSignal (i : Issue) (kind : SyncKind) (so sv : Fin 32) (sc : Option (Fin 32)) (s : State) : Out :=
  let z := Instr.signal noIssue kind so sv sc
  .next (s.issue i z (fun a =>
    let n := a.p.bank.sget so.val
    let v := a.p.bank.sget sv.val
    match a.syncFault s kind n with
    | some cause => s.faultAt a cause
    | none =>
      s.retire a i (tokenOf a.word 7 0 false (syncCrc z [n.toNat, v.toNat])) (a.after z) (fun s =>
        match kind with
        | .fence => s.modCtx a.x.ctx (fun c => c.addFence a.die n.toNat v)
        | .sem => s.modSem n.toNat (fun k => k.raise v false))))

/-- 06 R172, 05 R143, 13 R328: waits until the value is reached; a request pending meanwhile takes the launch off at
this instruction. The object is checked when the instruction issues; a value reached after that satisfies it, though
the object goes meanwhile (SEM-DESTROY notes it). -/
def execWaitfor (i : Issue) (kind : SyncKind) (so sv : Fin 32) (s : State) : Out :=
  let z := Instr.waitfor noIssue kind so sv
  .next (s.issue i z (fun a =>
    let n := a.p.bank.sget so.val
    let v := a.p.bank.sget sv.val
    match a.syncFault s kind n with
    | some cause =>
      match a.p.wait with
      | some (_, _, true) => s.retire a i (tokenOf a.word 7 0 false (syncCrc z [n.toNat, v.toNat])) (a.after z) id
      | some (_, _, false) => if a.x.why.isEmpty then s else s.tryHandOver a a.p.pc
      | none => s.faultAt a cause
    | none =>
      if v ≤ a.syncValue s kind n then
        s.retire a i (tokenOf a.word 7 0 false (syncCrc z [n.toNat, v.toNat])) (a.after z) id
      else if a.x.why.isEmpty then
        match kind with
        | .sem => s.modPair a.u (fun p => { p with wait := some (n.toNat, v, false) })
        | .fence => s
      else s.tryHandOver a a.p.pc))

/-- 06 R172: an object goes while WAITFORs stand at it: those whose value it has reached are satisfied. -/
def State.noteWaits (s : State) (k : Nat) (value : W64) : State :=
  { s with pairs := s.pairs.map (fun e => (e.1, { e.2 with wait :=
      match e.2.wait with
      | some (n, v, met) => some (n, v, met || (n == k && v ≤ value))
      | none => none })) }

/-- Load an L register: the table and whether it was read at run time. -/
def State.retireL (s : State) (a : Site) (i : Issue) (z : Instr) (ln : Nat) (t : BitVec 1024) (run : Bool) : State :=
  s.retire a i (tokenOf a.word 4 ln false (crc32c (natLe 128 t.toNat))) (a.after z)
    (fun s => s.modPair a.u (fun p => { p with
      l := p.l.put ln t
      lRun := if run then ln :: p.lRun.filter (· != ln) else p.lRun.filter (· != ln) }))

/-- 06 R171, Table 6.16. -/
def execLtld (i : Issue) (ln : Fin 16) (src : LtSrc) (s : State) : Out :=
  let z := Instr.ltld noIssue ln src
  .next (s.issue i z (fun a =>
    match src with
    | .image idx => s.retireL a i z ln.val (a.prog.image.ltabs.getD idx.toNat 0) false
    | .feed sa =>
      match a.feedAddr (a.p.bank.sget sa.val) 128 with
      | none => s.faultAt a 0x17
      | some (at', slot) =>
        if !(s.mu a.u).tok slot then s
        else
          match s.feedRead a.u at' 128 with
          | (s, .ok, bs) =>
            let t : BitVec 1024 := BitVec.ofNat 1024 (leNat bs)
            if !(ltabOf t).ok then s.faultAt a 0x11
            else if !((ltabOf t).slots.all (· < a.prog.image.slots)) then s.faultAt a 0x17
            else s.retireL a i z ln.val t true
          | (s, .sram d b idx sy, _) => s.sramAbort a.l d b idx sy
          | (s, _, _) => s))

/-- A live descriptor of a context: not destroyed (04 R114). -/
def Ctx.desc (c : Ctx) (h : Nat) : Option Desc :=
  match c.descs.find h with
  | some d => if d.dead then none else some d
  | none => none

/-- 06 R171, 04 R110. A register that holds no live handle, reserved bits set or not, is a handle fault (Table 6.20 gives
TSTAT no other). -/
def execTstat (i : Issue) (sd sh : Fin 32) (clr : Bool) (s : State) : Out :=
  let z := Instr.tstat noIssue sd sh clr
  .next (s.issue i z (fun a =>
    let h := (a.p.bank.sget sh.val).toNat
    match a.c.desc h with
    | none => s.faultAt a 0x15
    | some d =>
      let b := a.p.bank.sset sd.val d.status
      s.retire a i (tokenOf a.word 1 sd.val false (crc32c (natLe 8 d.status.toNat))) (a.after z) (fun s =>
        let s := s.modPair a.u (fun p => { p with bank := b })
        if clr then
          s.modCtx a.x.ctx (fun c => { c with descs := c.descs.upd h (fun e => { e with status := 0 }) })
        else s)))

end Sys2Proof.Machine
end

