-- ==== Sys2Proof/Machine/Descriptors.lean ====
section
/-! DEFINITION. Tensor descriptors (04 R103 to R113): the fields of an image, element addresses, reads and writes of
elements through a descriptor, scales (R105, R502). -/
namespace Sys2Proof.Machine

/-- 04 Tables 4.1, 4.2. -/
structure DescF where
  draw : Nat
  sdim : Nat
  valid : Bool
  inj : Bool
  use : Nat
  kind : Nat
  gs : Nat
  sfmt : Nat
  imode : Nat
  wmode : Nat
  ovf : Bool
  rmode : Nat
  rank : Nat
  etype : Nat
  base : Nat
  sdesc : Nat
  alloc : Nat
  stream : Nat
  seedSlot : Nat
  sizes : List Nat
  strides : List Int
  rsv : Nat
  rawSizes : List Nat
  rawStrides : List Nat
deriving DecidableEq, Repr

def descOf (im : BitVec 1024) : DescF :=
  let n := im.toNat
  let rank := bits n 7 4
  let sz := (List.range 8).map (fun d => bits n (8 * (0x20 + 4 * d) + 31) (8 * (0x20 + 4 * d)))
  let st := (List.range 8).map (fun d => bits n (8 * (0x40 + 8 * d) + 63) (8 * (0x40 + 8 * d)))
  { draw := bits n 63 32, sdim := bits n 26 24, valid := bit n 23, inj := bit n 22, use := bits n 21 20,
    kind := bits n 19 19, gs := bits n 18 18, sfmt := bits n 17 14, imode := bits n 13 13, wmode := bits n 12 11,
    ovf := bit n 10, rmode := bits n 9 8, rank, etype := bits n 3 0, base := bits n 111 64,
    sdesc := bits n 175 160, alloc := bits n 159 128, stream := bits n 255 224, seedSlot := bits n 195 192,
    sizes := sz.take rank, strides := (st.take rank).map (toSigned 48),
    rsv := bits n 31 27 + bits n 127 112 + bits n 191 176 + bits n 223 196 +
      sumN (st.map (fun x => bits x 63 48)),
    rawSizes := sz, rawStrides := st.map (fun x => bits x 47 0) }

/-- Element bits of a descriptor: a scale array has bytes (R105). -/
def DescF.ebits (f : DescF) : Nat := if f.kind = 1 then 8 else etBits f.etype

def DescF.packed (f : DescF) : Bool := f.kind == 0 && isPacked f.etype

/-- Byte functions of R107. -/
def DescF.firstB (f : DescF) (p : Int) : Int := if f.kind = 1 then p else firstByte' f.etype p
where
  firstByte' (et : Nat) (p : Int) : Int :=
    if isFp4 et then p / 2 else if isFp6 et then 3 * (p / 4) else p * (etBits et / 8 : Nat)

def DescF.lastB (f : DescF) (p : Int) : Int :=
  if f.kind = 1 then p
  else if isFp4 f.etype then p / 2
  else if isFp6 f.etype then 3 * (p / 4) + 2
  else p * (etBits f.etype / 8 : Nat) + (etBits f.etype / 8 : Nat) - 1

/-- R107: first and last byte a descriptor reaches. -/
def DescF.span (f : DescF) : Int × Int :=
  let (lo, hi) := (List.zip f.sizes f.strides).foldl (fun (acc : Int × Int) e =>
    let v := e.2 * ((e.1 - 1 : Nat) : Int)
    if e.2 < 0 then (acc.1 + v, acc.2) else (acc.1, acc.2 + v)) (0, 0)
  ((f.base : Int) + f.firstB lo, (f.base : Int) + f.lastB hi)

/-- R108: the injectivity test. -/
def DescF.isInj (f : DescF) : Bool :=
  let ds := sortBy (fun (a b : Nat × Nat) => a.2 < b.2)
    (((List.zip f.sizes f.strides).filter (fun e => e.1 > 1)).map (fun e => (e.1, e.2.natAbs)))
  (ds.foldl (fun (acc : Nat × Bool) e =>
    (acc.1 + e.2 * (e.1 - 1), acc.2 && !(e.2 ≤ acc.1))) (0, true)).2

/-- R103: whether an index lies in the index space, its logical linear index and its element offset. -/
def DescF.inside (f : DescF) (x : List Int) : Bool :=
  x.length == f.rank && (List.zip x f.sizes).all (fun e => 0 ≤ e.1 && e.1 < (e.2 : Int))

def DescF.linear (f : DescF) (x : List Nat) : Nat := (List.zip x f.sizes).foldl (fun acc e => acc * e.2 + e.1) 0

def DescF.offset (f : DescF) (x : List Nat) : Int :=
  (List.zip x f.strides).foldl (fun acc e => acc + (e.1 : Int) * e.2) 0

/-- First byte address and bit position of an element, and the bytes its read touches. -/
def DescF.cell (f : DescF) (x : List Nat) : Nat × Nat × Nat :=
  let p := f.offset x
  let a := ((f.base : Int) + f.firstB p).toNat
  if f.kind = 1 then (a, 0, 1)
  else if isFp4 f.etype then (a, 4 * (p % 2).toNat, 1)
  else if isFp6 f.etype then (a, 6 * (p % 4).toNat, 3)
  else (a, 0, etBits f.etype / 8)

/-- Read one element's code. -/
def State.descGet (s : State) (c : Ctx) (f : DescF) (x : List Nat) : State × AccR × Nat :=
  let (a, lo, n) := f.cell x
  match s.ctxRead c a n with
  | (s, .ok, bs) => (s, .ok, bits (leNat bs) (lo + f.ebits - 1) lo)
  | (s, e, _) => (s, e, 0)

/-- The last element of its row, where a packed row may end inside a byte or a group (02 R48). -/
def DescF.endsRow (f : DescF) (x : List Nat) : Bool := x.getLastD 0 + 1 == f.sizes.getLastD 0

/-- Write one element's code: a packed element shares its bytes, which are read and written whole; behind the last
element of a row the rest of the byte or group is written as zero codes (02 R48). -/
def State.descPut (s : State) (c : Ctx) (f : DescF) (x : List Nat) (code : Nat) : State × AccR :=
  let (a, lo, n) := f.cell x
  if f.packed then
    match s.ctxRead c a n with
    | (s, .ok, bs) =>
      let w := f.ebits
      let old := leNat bs
      let rest := if f.endsRow x then 0 else old / 2 ^ (lo + w) * 2 ^ (lo + w)
      s.ctxWrite c a (natLe n (rest + code % 2 ^ w * 2 ^ lo + old % 2 ^ lo))
    | (s, e, _) => (s, e)
  else s.ctxWrite c a (natLe n code)

/-! ### Scales (R105, R502) -/

/-- Group size of a scaled descriptor. -/
def DescF.g (f : DescF) : Nat := if f.gs = 1 then 32 else 16

/-- The index of an element's scale. -/
def DescF.scaleIdx (f : DescF) (x : List Nat) : List Nat :=
  (List.zip (List.range x.length) x).map (fun e => if e.1 = f.sdim then e.2 / f.g else e.2)

/-- The scale array's fields. -/
def Ctx.scaleOf (c : Ctx) (f : DescF) : Option DescF :=
  if f.kind = 0 && f.sfmt ≠ 0 then (c.descs.find f.sdesc).map (fun d => descOf d.image) else none

/-- The factor of a scale byte for a descriptor's elements: scaled INT8 and INT4 carry theirs (02 R52). -/
def scaleFactor (f : DescF) (b : Nat) : FV :=
  let sh := if f.etype == 8 then 6 else if f.etype == 9 then 2 else 0
  match scaleValue f.sfmt b with
  | .fin n m => .fin n (m / 2 ^ sh)
  | v => v

/-- The scale of an element, 1 where the descriptor is not scaled. -/
def State.descScale (s : State) (c : Ctx) (f : DescF) (x : List Nat) : State × AccR × FV :=
  match c.scaleOf f with
  | none => (s, .ok, .fin false (2 ^ unitE))
  | some g =>
    match s.descGet c g (f.scaleIdx x) with
    | (s, .ok, b) => (s, .ok, scaleFactor f b)
    | (s, e, _) => (s, e, .fin false 0)

/-- An element's real value (R502). The element of a block-scaled tensor is a product, so a NaN element has sign 0 (02 R43;
DEDUCED, log 83). -/
def State.descValue (s : State) (c : Ctx) (f : DescF) (x : List Nat) : State × AccR × FV :=
  match s.descGet c f x with
  | (s, .ok, code) =>
    let v := etValue f.etype code
    if f.sfmt = 0 then (s, .ok, v)
    else
      match s.descScale c f x with
      | (s, .ok, sc) => (s, .ok, v.mulExact sc)
      | (s, e, _) => (s, e, v)
  | (s, e, _) => (s, e, .fin false 0)

/-- The code an exact value becomes at a destination element (02 R66 to R69, R498; 04 R502), with the random bits of
R67 for logical linear index `lin`. A block-scaled source element that no FP32 holds reaches an FP32 destination
rounded to nearest-even, and counts nothing (DESIGN CHOICE, log 83). -/
def DescF.convert (f : DescF) (seed : BitVec 96) (sc : FV) (lin : Nat) (v : FV) : Nat × Cnt :=
  let r := if f.rmode = 2 then chatter24 seed f.stream f.draw lin else 0
  if f.sfmt = 0 then
    if f.etype = 0 then (v.rnd.to32.toNat, {}) else cvtTo f.etype (Sys2Proof.rmode f.rmode r) f.ovf ⟨v, false⟩
  else cvtTo f.etype (Sys2Proof.rmode f.rmode r) f.ovf (v.quot sc)

end Sys2Proof.Machine
end

