-- ==== Sys2Proof/Machine/MatrixUnit.lean ====
section
/-! DEFINITION. Matrix instructions and the events of a matrix unit's array (06 R167, R168, Tables 6.11 to 6.13; 03 R77, R82,
R84, R87, R98 to R102; 07 R179 to R181; 09 R240 to R249). -/
namespace Sys2Proof.Machine

/-! ### What a stage latches (07 R180) -/

/-- s registers a stage reads at its MDRAIN or MPASS. -/
def StageE.sRegs (e : StageE) : List Nat :=
  e.is'.take e.ns ++ (if e.rough then [] else
    [e.orgm, e.orgn] ++ (if e.push then [e.dst] else []) ++ (if e.guide then [e.gsr] else []) ++
      (if e.stat ≠ 0 then [e.recR] else []))

def Site.latch (a : Site) (e : StageE) : StageLatch :=
  let b := a.p.bank
  let dst := if e.push then (b.sget e.dst).toNat else 0
  let slot := ((a.c.desc dst).map (fun d => (descOf d.image).seedSlot)).getD 0
  { sImp := (e.is'.take e.ns).map b.sget, vImp := (e.iv.take e.nv).map b.vget,
    orgm := if e.rough then 0 else b.sget e.orgm, orgn := if e.rough then 0 else b.sget e.orgn,
    dst, recH := if e.stat ≠ 0 then (b.sget e.recR).toNat else 0,
    gs := if e.guide then low32 (b.sget e.gsr) else 0, seed := a.c.seed slot, params := a.x.params }

/-! ### MDRAIN and MPRELOAD -/

/-- R180, R187, R189, R195: a stage's DST and REC handles. -/
def Ctx.stageHandlesOk (c : Ctx) (e : StageE) (dst recH : Nat) : Bool :=
  (!e.push ||
    (match c.desc dst with
      | some d =>
        let f := descOf d.image
        f.kind == 0 && bit f.use 1 && f.rank == 2 && (f.sfmt == 0 || (f.sdim == 1 && !f.ovf)) &&
          (e.stat == 0 || (f.wmode == 0 && f.sfmt == 0 && f.use == 3))
      | none => false)) &&
  (e.stat == 0 ||
    (match c.desc recH with
      | some d => let f := descOf d.image; f.kind == 0 && f.etype == 10 && f.rank == 2 && f.use == 3
      | none => false))

/-- Sixteen slots of an image's range. -/
def Site.sixteen (a : Site) (slot : BitVec 9) : Option Nat :=
  if slot.toNat + 16 ≤ a.prog.image.slots then some (a.prog.base + slot.toNat) else none

/-- The CRC of a matrix or move instruction: its words, then its resolved operands (log 18). -/
def opCrc (z : Instr) (xs : List Nat) : W32 := Config.resolvedCrc ((((zencode z).getD []).map (·.toNat)) ++ xs)

/-- 06 R168, Table 6.11 order 1. -/
def execMdrain (i : Issue) (ax : Bool) (slot : BitVec 9) (fent : Byte) (sd : Fin 32) (s : State) : Out :=
  let z := Instr.mdrain noIssue ax slot fent sd
  .next (s.issue i z (fun a =>
    let e := imgStage a.prog.image fent.toNat
    let m := s.mu a.u
    if (match e with | some e => e.sRegs.any a.p.pend.contains | none => false) then s
    else
      let la := match e with
        | some e => a.latch e
        | none => {}
      let big := match e with
        | some e => la.orgm.toNat ≥ 2 ^ 31 || la.orgn.toNat ≥ 2 ^ 31 || (e.push && la.dst ≥ 2 ^ 16) || la.recH ≥ 2 ^ 16
        | none => false
      if big then s.faultAt a 0x16
      else if (match e with | some e => !a.c.stageHandlesOk e la.dst la.recH | none => false) then s.faultAt a 0x15
      else
        match a.sixteen slot with
        | none => s.faultAt a 0x17
        | some sl =>
          let slots := (List.range 16).map (sl + ·)
          if m.drainQ.length ≥ 2 || slots.any (fun k => m.tok k || m.resv.contains k) then s
          else
            s.enter a (a.after z) (fun s =>
              let s := s.modPair a.u (fun p => { p with pend := sd.val :: p.pend })
              s.modMu a.u (fun m => { m with
                resv := slots ++ m.resv
                drainQ := m.drainQ ++
                  [{ launch := a.l, ino := a.x.icount, iaddr := a.iaddr, ax, slot := sl, fent := fent.toNat,
                     sd := sd.val, latch := la, upset := i.upset
                     tok := tokenOf a.word 1 sd.val false (opCrc z [sl, la.dst, la.recH]) }] }))))

/-- 06 R168, Table 6.11 order 2. -/
def execMpreload (i : Issue) (ax : Bool) (slot : BitVec 9) (rel : Bool) (s : State) : Out :=
  let z := Instr.mpreload noIssue ax slot rel
  .next (s.issue i z (fun a =>
    match a.sixteen slot with
    | none => s.faultAt a 0x17
    | some sl =>
      if (s.mu a.u).preQ.length ≥ 2 then s
      else
        s.retire a i (tokenOf a.word 0 0 false (opCrc z [sl])) (a.after z) (fun s =>
          s.modMu a.u (fun m => { m with preQ := m.preQ ++ [{ launch := a.l, ax, slot := sl, rel }] }))))

/-! ### MPASS -/

/-- 09 Table 9.2: the skim operand, checked against the context's skim table. -/
def Ctx.skimOperand (c : Ctx) (ctx : Nat) (v : W64) : Option SkimLatch :=
  let h := fld v 15 0
  match c.skims.find h with
  | some r =>
    if fld v 19 17 = 0 && !r.dead then
      some { ctx, recH := h, col := fld v 63 42, row := fld v 41 20, wrx := flag v 16, true' := true, tcode := 0,
             par := false }
    else none
  | none => none

/-- 09 Table 9.1: ROFF. -/
def SkimRec.roff (r : SkimRec) : Int := toSigned 24 (bits r.image.toNat 87 64)

/-- Byte ranges of the reference of a skimmed pass: A, and SA for a scaled A, moved by ROFF. -/
def LTab.refRanges (t : LTab) (roff : Int) : List (Int × Int) :=
  ((t.ranges.take 1) ++ (if t.scaled then (t.ranges.drop 2).take 1 else [])).map (fun r => (r.1 + roff, r.2 + roff))

/-- R241, on the table and the run. -/
def skimFormatOk (t : LTab) (pre first : Bool) (roff : Int) : Bool :=
  !t.ints && !t.axa && (!first || pre) &&
    (t.refRanges roff).all (fun r => 0 ≤ r.1 && r.2 ≤ 0x5FFFFF) &&
    ((t.slots ++ (t.refRanges roff).flatMap rangeSlots).eraseDups.length + 16 * b2n pre ≤ 368)

/-- R239: the input reference has the A element type, and is scaled as A is. The manual names no fault for a pass that
breaks this: a format fault (DESIGN CHOICE, log 60). -/
def xrefFits (t : LTab) (x : DescF) : Bool :=
  x.etype == t.eta && x.sfmt == t.sfa && (!t.scaled || ((x.gs == 1) == t.gs && x.sdim == 2))

/-- The input-reference descriptor of a skim record. -/
def Ctx.xrefOf (c : Ctx) (h : Nat) : Option DescF :=
  (c.skims.find h).bind (fun r => (c.descs.find (bits r.image.toNat 63 48)).map (fun d => descOf d.image))

/-- A run that is open on a unit: the end of its last pass, its chunk, its first position, whether it is skimmed and its
record. -/
abbrev OpenRun := Nat × Nat × Nat × Bool × Nat

/-- The format checks of R175 in their order, for a pass about to enter the queue. -/
def Site.passFormatOk (a : Site) (s : State) (f : MpassF) (t : LTab) (sk : Option (SkimLatch × Int)) : Bool :=
  let m := s.mu a.u
  let prev : Option OpenRun := m.openRun
  let first := prev.isNone
  let run := prev.map (fun e => (e.1, e.2.1, e.2.2.1))
  t.ok && t.runOk a.x.params run &&
    (!a.p.lRun.contains f.ln.val || t.stepsOf t.kBound ≤ imgMaxSteps a.prog.image) &&
    !(f.pre && !first) &&
    (f.cont || m.drainQ.any (fun e => e.launch == a.l && !e.claimed)) &&
    (!f.pre || m.preQ.any (fun e => e.launch == a.l && !e.claimed)) &&
    (!f.pre || t.slots.length + 16 ≤ 368) &&
    (match sk with
      | some (k, roff) => skimFormatOk t f.pre first roff && (match a.c.xrefOf k.recH with | some x => xrefFits t x | none => true)
      | none => true) &&
    (match prev with
      | some (_, _, _, skm, h) => skm == f.skm && (!skm || (sk.map (·.1.recH)).getD 0 == h)
      | none => true)

/-- Mark the oldest unclaimed entry of a launch. -/
def claimDrain (l : Nat) : List DrainEntry → List DrainEntry
  | [] => []
  | e :: t => if e.launch == l && !e.claimed then { e with claimed := true } :: t else e :: claimDrain l t

def claimPre (l : Nat) : List PreEntry → List PreEntry
  | [] => []
  | e :: t => if e.launch == l && !e.claimed then { e with claimed := true } :: t else e :: claimPre l t

/-- Parameter registers a table names (05 R133), in level order. -/
def LTab.paramsRead (t : LTab) : List Nat := (t.used.filter (·.extv)).map (·.extp)

/-- 06 R167, Table 6.11 order 3; 14 R341 debits the estimate. -/
def execMpass (i : Issue) (f : MpassF) (s : State) : Out :=
  let z := Instr.mpass noIssue f
  .next (s.issue i z (fun a =>
    let m := s.mu a.u
    let tab := a.p.l.get 0 f.ln.val
    let t := ltabOf tab
    let e := imgStage a.prog.image f.rent.toNat
    if (match e with | some e => e.sRegs.any a.p.pend.contains | none => false) then s
    else
      let sk := if f.skm then a.c.skimOperand a.x.ctx (a.p.bank.sget f.sk.val) else none
      if f.skm && sk.isNone then s.faultAt a 0x15
      else
        let skr := sk.map (fun k => (k, ((a.c.skims.find k.recH).map SkimRec.roff).getD 0))
        if !a.passFormatOk s f t skr then s.faultAt a 0x11
        else if !t.extentsOk a.x.params then s.faultAt a 0x12
        else if m.passQ.length ≥ 2 then s
        else
          let est := s.estimate a.die a.x.ctx a.x.prog f.cls.toNat
          let entry : PassEntry :=
            { launch := a.l, ino := a.x.icount, iaddr := a.iaddr, tab, params := a.x.params,
              slotBase := a.prog.base, prog := a.x.prog, cls := f.cls.toNat, cont := f.cont, pre := f.pre,
              first := m.openRun.isNone, skim := sk, relA := f.relA, relB := f.relB, relSA := f.relSA,
              relSB := f.relSB, rent := f.rent.toNat, upset := i.upset
              tok := tokenOf a.word 0 0 false
                (opCrc z (tab.toNat :: (t.paramsRead.map (fun n => (a.x.params.get 0 n).toNat)) ++ (sk.map (·.recH)).toList)),
              latch := match e with | some e => a.latch e | none => {} }
          let fin := t.korg + t.kReal a.x.params
          let run : OpenRun := (fin, t.chunk, ((m.openRun.map (fun r => r.2.2.1)).getD t.korg), f.skm,
            (sk.map (·.recH)).getD 0)
          s.enter a (a.after z) (fun s =>
            let s := s.modMu a.u (fun m => { m with
              passQ := m.passQ ++ [entry]
              drainQ := if f.cont then m.drainQ else claimDrain a.l m.drainQ
              preQ := if f.pre then claimPre a.l m.preQ else m.preQ
              openRun := if f.cont then some run else none })
            s.modDie a.die (fun d => { d with debits := d.debits ++ [⟨0, a.l, f.cls.toNat, est.2⟩] }))))

/-! ### PASS_ISSUE (R77) -/

def PassEntry.t (e : PassEntry) : LTab := ltabOf e.tab

/-- Slots a pass reads, absolute. -/
def PassEntry.reads (e : PassEntry) (roff : Option Int) (pre : Option PreEntry) : List Nat :=
  (e.t.slots ++ (match roff with | some r => (e.t.refRanges r).flatMap rangeSlots | none => [])).map (e.slotBase + ·) ++
    (match pre with | some p => (List.range 16).map (p.slot + ·) | none => [])

def State.roffOf (s : State) (e : PassEntry) : Option Int :=
  e.skim.map (fun k => (((s.ctxs.find k.ctx).bind (fun c => c.skims.find k.recH)).map SkimRec.roff).getD 0)

/-- What a pass latches of its skim record at its issue (09 R245). -/
def State.skimLatch (s : State) (k : SkimLatch) : SkimLatch :=
  match (s.ctxs.find k.ctx).bind (fun c => c.skims.find k.recH) with
  | some r => { k with true' := r.true', tcode := r.tcode, par := r.par, valid := r.valid }
  | none => k

/-- A tile of the pass's class that began before it is still on the unit (05 R139). -/
def MUnit.earlierTile (m : MUnit) (cls prog : Nat) : Bool :=
  m.arr.any (fun e => !e.cont && e.cls == cls && e.prog == prog) ||
    (m.shadow.map (fun t => t.pass.cls == cls && t.pass.prog == prog)).getD false

/-- R179: pass-type and guidance-shape rules, and R181's limit on rows and columns, when the pass takes its entry. -/
def takeFault (im : Image) (t : LTab) (d : DrainEntry) : Option Nat :=
  match imgStage im d.fent with
  | none => none
  | some e =>
    let rows := if e.guide then t.m / 2 else t.m
    if d.latch.orgm.toNat + rows > 2 ^ 31 || d.latch.orgn.toNat + t.n > 2 ^ 31 then some 0x16
    else if t.intPass && (e.guide || e.stat ≠ 0 || e.conf) then some 0x11
    else if !guideOk e t then some 0x11
    else none

/-- Remove the first element that meets a test. -/
def dropFirst {α : Type} (p : α → Bool) : List α → List α
  | [] => []
  | x :: xs => if p x then xs else x :: dropFirst p xs

def State.imageOf (s : State) (l prog : Nat) : Image :=
  match (s.launches.find l).bind (fun x => s.ctxs.find x.ctx) with
  | some c => ((c.progs.find prog).map (·.image)).getD { code := [] }
  | none => { code := [] }

/-- 03 R77, 06 Table 6.11 orders 4 to 6. -/
def State.passIssue (s : State) (u : Nat) : State :=
  let m := s.mu u
  match m.passQ with
  | [] => s
  | e :: rest =>
    let pre := if e.pre then m.preQ.head? else none
    let dr := if e.cont then none else m.drainQ.head?
    let d := unitDie u
    let held := !(s.die d).firstDone.contains
      (estKey (((s.launches.find e.launch).map (·.ctx)).getD 0) e.prog e.cls) && m.earlierTile e.cls e.prog
    if held || (e.rent ≠ 0 && !e.roughed) || !((e.reads (s.roffOf e) pre).all m.tok) ||
        (!e.cont && dr.isNone) || (e.pre && pre.isNone) then s
    else
      match dr.bind (takeFault (s.imageOf e.launch e.prog) e.t) with
      | some 0x16 =>
        s.abortLaunch e.launch { cause := 0x16, iaddr := (dr.map (·.iaddr)).getD 0, ino := (dr.map (·.ino)).getD 0 }
      | some cause => s.abortLaunch e.launch { cause, iaddr := e.iaddr, ino := e.ino }
      | none =>
        if e.upset ≠ 0 then s.seqFault u e.launch e.iaddr e.ino
        else
        let s := s.keepToken u e.tok
        let e' := { e with drain := dr, preload := pre, skim := e.skim.map s.skimLatch }
        let s := s.modMu u (fun m => { m with
          passQ := rest, arr := m.arr ++ [e']
          drainQ := if e.cont then m.drainQ else m.drainQ.drop 1
          preQ := if e.pre then m.preQ.drop 1 else m.preQ })
        s.modDie d (fun x =>
          let x := x.dropLead e.launch
          { x with debits := dropFirst (fun b => b.kind == 0 && b.owner == e.launch && b.cls == e.cls) x.debits })

def execPassIssue (u : Fin 64) (s : State) : Out := .next (s.passIssue u.val)

/-! ### PRELOAD_FILL (Table 3.3 order 10) -/

/-- A truing pass discards its preload (09 R247). -/
def PassEntry.truing (e : PassEntry) : Bool := (e.skim.map (·.true')).getD false

/-- The next preloaded pass issued, when no truing run stands before it: the preload registers are then its skip
accumulators up to its hand-off (09 Table 9.3). -/
def nextPreload : List PassEntry → Option (PassEntry × PreEntry)
  | [] => none
  | e :: t =>
    if e.truing then none
    else
      match e.preload with
      | some p => some (e, p)
      | none => nextPreload t

/-- Drop a launch's passes from the array after an uncorrectable word: nothing of them is committed. -/
def State.dropPasses (s : State) (u l : Nat) : State :=
  (s.spoilSkims ((s.mu u).arr.filter (fun e => e.launch == l))).modMu u (fun m =>
    let gone := m.arr.filter (fun e => e.launch == l)
    { m with
      arr := m.arr.filter (fun e => e.launch != l), run := none, preReg := none
      resv := m.resv.filter (fun r => !(gone.any (fun e =>
        match e.drain with | some d => d.slot ≤ r && r < d.slot + 16 | none => false))) })

/-- The preload tile of 16 slots, in tile order M × N. -/
def preTile (bs : List Byte) (ax : Bool) (m n : Nat) : List W32 :=
  let raw := elemsOf 10 65536 bs
  (List.range 65536).map (fun p =>
    let i := p / n
    let j := p % n
    BitVec.ofNat 32 (raw.getD (if ax then j * m + i else p) 0))

/-- 03 R82, 06 R168. -/
def State.preloadFill (s : State) (u : Nat) : State :=
  let m := s.mu u
  if m.preReg.isSome || (m.run.map (·.truing)).getD false then s
  else
    match nextPreload m.arr with
    | none => s
    | some (e, p) =>
      match s.feedRead u (slotBytes * p.slot) (16 * slotBytes) with
      | (s, .ok, bs) =>
        let t := e.t
        s.modMu u (fun m =>
          let m := { m with preReg := some (preTile bs p.ax t.m t.n) }
          if p.rel then m.setToks p.slot 16 false else m)
      | (s, .sram d k idx sy, _) => ((s.sramAbort e.launch d k idx sy).dropPasses u e.launch).settle e.launch
      | (s, _, _) => s

def execPreloadFill (u : Fin 64) (s : State) : Out := .next (s.preloadFill u.val)

/-! ### PASS_BOUNDARY (R82) -/

/-- The streams of a pass behind what its run holds for it. -/
def PassEntry.stream (e : PassEntry) (m : MUnit) : Stream3 :=
  let x : Stream3 :=
    { t := e.t, p := e.params, feed := m.feed, org := slotBytes * e.slotBase
      pre := if e.first then [] else (m.run.map (·.held)).getD [] }
  if e.skim.isSome then x.split e.cont else x

def PassEntry.mode (e : PassEntry) (roff : Int) : PassMode :=
  match e.skim with
  | none => .plain
  | some k => if k.true' then .truing roff k.tcode k.valid else .skim roff k.tcode

/-- 09 R248: the row block a run with a WRX pass writes into the input reference, as far as these groups give it. -/
def Stream3.reference (x : Stream3) (mode : PassMode) : List (Nat × Nat × Nat) × List (Nat × Nat × Nat) :=
  let old (b : Nat) : Option Int := match mode with
    | .skim roff code => if x.cut roff code b then some roff else none
    | _ => none
  let rows := (List.range x.t.m).filter (insideOf x.t.ms x.p)
  let per (i : Nat) := (List.range x.groups).flatMap (fun b =>
    (x.group b).map (fun k => (i, x.kLog k, (x.aElem ((old b).getD 0) i k).code)))
  let sc (i : Nat) := (List.range x.groups).filterMap (fun b =>
    ((x.group b).head?).map (fun k => (i, x.t.korg / x.t.g + b, (x.aElem ((old b).getD 0) i k).sbyte)))
  (rows.flatMap per, if x.t.scaled then rows.flatMap sc else [])

/-- Count blocks in a skim record, saturating (Table 9.1). -/
def SkimRec.count (r : SkimRec) (skip strm : Nat) : SkimRec :=
  { r with skipb := satAdd 32 r.skipb skip, strmb := satAdd 32 r.strmb strm }

/-- 14 R352: a die ran a pass of the sample's records in this step. -/
def State.ranPass (s : State) (ctx h d : Nat) : State :=
  match (s.ctxs.find ctx).bind (fun c => c.skims.find h) with
  | some r =>
    let f (q : Sample) : Sample := if q.ranDies.contains d then q else { q with ranDies := d :: q.ranDies }
    { s with samples := s.samples.upd (bits r.image.toNat 31 25) f }
  | none => s

/-- Words of the streams with a detected error. -/
def State.streamErr (s : State) (u : Nat) (e : PassEntry) (roff : Option Int) : State × AccR :=
  ((e.t.ranges ++ (match roff with | some r => e.t.refRanges r | none => [])).foldl
    (fun (acc : State × AccR) r =>
      match acc with
      | (s, .ok) =>
        let org := slotBytes * e.slotBase
        match s.sramRead (unitDie u) (u % 16) ((org + r.1.toNat) / 4) ((org + r.2.toNat) / 4) with
        | (s, some (idx, sy)) => (s, .sram (unitDie u) (u % 16) idx sy)
        | (s, none) => (s, .ok)
      | r => r) (s, .ok))

/-- Release the slots of the streams whose flags are set (Table 3.3 order 8). -/
def PassEntry.releases (e : PassEntry) : List Nat :=
  ((if e.relA then e.t.streamSlots 0 else []) ++ (if e.relB then e.t.streamSlots 1 else []) ++
    (if e.relSA then e.t.streamSlots 2 else []) ++ (if e.relSB then e.t.streamSlots 3 else [])).map (e.slotBase + ·)

def MUnit.drop (m : MUnit) (slots : List Nat) : MUnit := { m with toks := slots.foldl Tab.del m.toks }

/-- 03 R82 orders 2 to 8: the oldest issued pass ends; a pass that is not continuing is captured. -/
def State.passBoundary (s : State) (u : Nat) (ups : List CellUpset) : State :=
  let m := s.mu u
  match m.arr with
  | [] => s
  | e :: rest =>
    let needs := e.first && e.preload.isSome && !e.truing
    if (!e.cont && m.shadow.isSome) || (needs && m.preReg.isNone) then s
    else
      let roff := s.roffOf e
      match s.streamErr u e roff with
      | (s, .sram d k idx sy) => ((s.sramAbort e.launch d k idx sy).dropPasses u e.launch).settle e.launch
      | (s, _) =>
        let t := e.t
        let mode := e.mode (roff.getD 0)
        let x := e.stream m
        let r0 := match m.run with
          | some r => if e.first then Run.start t.fold t.intPass none else r
          | none => Run.start t.fold t.intPass none
        let r0 := if needs then Run.start t.fold t.intPass m.preReg else r0
        let r0 := match mode with
          | .truing _ _ true => if r0.skip.isNone then { r0 with skip := some (List.replicate 65536 0x80000000#32) } else r0
          | _ => r0
        let r := x.addPass mode r0
        let wrx := (e.skim.map (·.wrx)).getD false
        let ref := if e.skim.isSome then x.reference mode else ([], [])
        let aSlots := ((t.streamSlots 0) ++ (t.streamSlots 2)).map (e.slotBase + ·)
        let rel := e.releases
        let r := { r with
          truing := r.truing || e.truing, held := x.aside (roff.getD 0), wrx := r.wrx || wrx
          xnew := r.xnew ++ ref.1, xscale := r.xscale ++ ref.2
          relLater := r.relLater ++ (if wrx then rel.filter aSlots.contains else []) }
        let s := match e.skim with
          | some k =>
            let n := x.blockCounts mode
            (s.modSkim k.ctx k.recH (fun q => q.count n.1 n.2)).ranPass k.ctx k.recH (unitDie u)
          | none => s
        let s := s.modMu u (fun m =>
          let m := { m with arr := rest, preReg := if needs then none else m.preReg }
          let m := m.drop (if wrx then rel.filter (fun q => !aSlots.contains q) else rel)
          let m := match e.preload with
            | some p => if e.truing && p.rel then m.setToks p.slot 16 false else m
            | none => m
          match e.drain with
          | none => { m with run := some r }
          | some d => { m with
              run := none
              shadow := some { run := r.upset m.repair ups, pass := e, drain := d,
                               inRow := (List.range t.m).map (insideOf t.ms e.params),
                               inCol := (List.range t.n).map (insideOf t.ns e.params) } })
        s.settle e.launch

def execPassBoundary (u : Fin 64) (ups : List CellUpset) (s : State) : Out := .next (s.passBoundary u.val ups)

/-! ### TILE_CHECK (R84 to R89, R99 to R102) -/

/-- R101, R481: the spare a located cell is assigned in the proposed word w, and its code in the record.
The word in force, rep, says which physical lines are the witness lines (R74). -/
def assignSpare (rep w : W32) (row col : Nat) : W32 × Nat :=
  let setRow (r : Nat) : W32 := BitVec.ofNat 32 (w.toNat - fld w 8 0 + 256 + r)
  let setCol (c : Nat) : W32 := BitVec.ofNat 32 (w.toNat - fld w 19 9 * 512 + 2 ^ 19 + c * 512)
  let oos : W32 := w ||| BitVec.ofNat 32 (2 ^ 20)
  if row == witRow rep then (if repRv w then (oos, 3) else (setRow 128, 1))
  else if col == witCol rep then (if repCv w then (oos, 3) else (setCol 512, 2))
  else if !repRv w && row ≤ 127 then (setRow row, 1)
  else if !repCv w && col ≤ 511 then (setCol col, 2)
  else (oos, 3)

/-- The landing values of a tile (R84, R120): row-major M × N, or its transpose; outside elements are +0. -/
def Tile.landing (t : Tile) : List W32 :=
  let n := 512 / 2 ^ t.run.fold
  let m := 128 * 2 ^ t.run.fold
  let at' (i j : Nat) : W32 :=
    if (t.inRow.getD i false) && (t.inCol.getD j false) then t.run.vals.getD (i * n + j) 0 else 0
  (List.range 65536).map (fun p => if t.drain.ax then at' (p % m) (p / m) else at' (p / n) (p % n))

def MUnit.unreserve (m : MUnit) (slot : Nat) : MUnit :=
  { m with resv := m.resv.filter (fun r => !(slot ≤ r && r < slot + 16)) }

/-- 09 R247: ε_t of a truing tile, as FP32. -/
def Tile.epsilon (t : Tile) : Option W32 :=
  match t.run.skip with
  | none => none
  | some sk =>
    let n := 512 / 2 ^ t.run.fold
    let ps := (List.range 65536).filter (fun p => t.inRow.getD (p / n) false && t.inCol.getD (p % n) false)
    let es := ps.map (fun p => of32 (sk.getD p 0))
    let ys := ps.map (fun p => of32 (t.run.vals.getD p 0))
    if (es ++ ys).any (fun v => !v.isFin) then some 0x7F800000#32
    else
      let e := maxN (es.map FV.mag)
      let y := maxN (ys.map FV.mag)
      if e = 0 then some 0 else some ((FV.fin false e).div (FV.fin false y)).to32

/-- Keep the largest measurement of a layer in the step (09 R247). -/
def Sample.measure (k : Sample) (layer : Nat) (e : W32) : Sample :=
  let old := k.meas.get 0 layer
  { k with meas := k.meas.put layer (if (of32 old).lt (of32 e) || !(k.meas.has layer) then e else old) }

/-- Write elements of a descriptor in order, stopping at a fault, and count those written. -/
def State.putCount (s : State) (c : Ctx) (f : DescF) : List (List Nat × Nat) → Nat → State × AccR × Nat
  | [], n => (s, .ok, n)
  | (x, code) :: t, n =>
    if !f.inside (x.map Int.ofNat) then State.putCount s c f t n
    else
      match s.descPut c f x code with
      | (s, .ok) => State.putCount s c f t (n + 1)
      | (s, e) => (s, e, n)

/-- The same without the count. -/
def State.putAll (s : State) (c : Ctx) (f : DescF) (xs : List (List Nat × Nat)) : State × AccR :=
  let r := s.putCount c f xs 0
  (r.1, r.2.1)

/-- 09 R248: the references a committed tile writes. -/
def State.writeRefs (s : State) (t : Tile) (k : SkimLatch) : State × AccR :=
  match s.ctxs.find k.ctx with
  | none => (s, .ok)
  | some c =>
    match c.skims.find k.recH with
    | none => (s, .ok)
    | some r =>
      let im := r.image.toNat
      let n := 512 / 2 ^ t.run.fold
      match c.descs.find (bits im 63 48), c.descs.find (bits im 47 32) with
      | some xd, some yd =>
        let fx := descOf xd.image
        let fy := descOf yd.image
        let ys := (List.range 65536).filterMap (fun p =>
          if t.inRow.getD (p / n) false && t.inCol.getD (p % n) false then
            let v := t.run.vals.getD p 0
            let code : Nat × Cnt := if fy.etype = 0 then (v.toNat, {}) else cvtFloat bf16 .nearest fy.ovf ⟨of32 v, false⟩
            some ([128 * k.row + p / n, 64 * k.col + p % n], code)
          else none)
        let cnt := (ys.filter (fun y => fy.inside (y.1.map Int.ofNat))).foldl (fun a y => a.add y.2.2) ({} : Cnt)
        let s := s.countDesc k.ctx (bits im 47 32) 0 cnt
        match s.putAll c fy (ys.map (fun y => (y.1, y.2.1))) with
        | (s, .ok) =>
          if !t.run.wrx then (s, .ok)
          else
            let cp := if k.par then 0 else 1
            let xs := t.run.xnew.map (fun e => ([cp, 128 * k.row + e.1, e.2.1], e.2.2))
            match s.putAll c fx xs with
            | (s, .ok) =>
              match c.scaleOf fx with
              | none => (s, .ok)
              | some fs => s.putAll c fs (t.run.xscale.map (fun e => ([cp, 128 * k.row + e.1, e.2.1], e.2.2)))
            | r => r
        | r => r
      | _, _ => (s, .ok)

/-- The tile is released without effect: its landing slots, and A slots that waited for a reference write. -/
def State.freeTile (s : State) (u : Nat) (t : Tile) : State :=
  s.modMu u (fun m => (m.unreserve t.drain.slot).drop t.run.relLater)

/-- R98 to R102, R481: a tile that fails its check. -/
def State.refuseTile (s : State) (u : Nat) (t : Tile) (st : W32) : State :=
  let d := unitDie u
  let m := s.mu u
  let cell := (fld st 17 10, fld st 27 18)
  let located := wres st == 1
  let twice := located && m.located.contains cell
  let (w, asg) := if located then assignSpare m.repair m.proposed cell.1 cell.2 else (m.proposed, 0)
  let s := s.freeTile u t
  let s := s.modMu u (fun m => { m with proposed := w, located := if located then cell :: m.located else m.located })
  let s := s.modDie d (fun x => { x with witness := satAdd 32 x.witness 1 })
  let s := match t.pass.skim with
    | some k => s.modSkim k.ctx k.recH SkimRec.spoil
    | none => s
  let s := s.complete u t.pass.launch t.drain.sd (complValue 4 st.toNat)
  let s := s.abortLaunch t.pass.launch
    { cause := 0x1B, iaddr := t.drain.iaddr, ino := t.drain.ino, cls := 3, sev := if twice then 3 else 2,
      detail := some (BitVec.ofNat 64 (asg * 2 ^ 56 + st.toNat)) }
  if twice then s.withdrawUnit u 0x1B 3 else s

/-- A committed tile goes to landing space, and to its finishing stage if it has one (R86, R168). -/
def State.commitTile (s : State) (u : Nat) (t : Tile) (st : W32) : State :=
  let lay := t.landing.flatMap (fun x => natLe 4 x.toNat)
  let s := s.feedWrite u (slotBytes * t.drain.slot) lay
  let s := match t.pass.skim, t.epsilon with
    | some k, some e =>
      match (s.ctxs.find k.ctx).bind (fun c => c.skims.find k.recH) with
      | some r =>
        let slot := bits r.image.toNat 31 25
        let layer := bits r.image.toNat 24 15
        { s with samples := s.samples.upd slot (fun q => q.measure layer e) }
      | none => s
    | _, _ => s
  let s0 := s
  let (s, acc) := match t.pass.skim with
    | some k => s.writeRefs t k
    | none => (s, .ok)
  let s := s.modMu u (fun m => m.drop t.run.relLater)
  let s := match t.pass.skim with
    | some k => s.modSkim k.ctx k.recH (fun r => { r with
        tiles := r.tiles + 1, valid := r.valid && acc == AccR.ok, bad := r.bad || acc != AccR.ok })
    | none => s
  match accFault (s0.ownFill acc) t.drain.iaddr t.drain.ino with
  | some (f, code) =>
    let s := s.modMu u (fun m => m.unreserve t.drain.slot)
    (s.complete u t.pass.launch t.drain.sd (complValue code st.toNat)).abortLaunch t.pass.launch f
  | none =>
    if t.drain.fent = 0 then
      let s := s.modMu u (fun m => (m.unreserve t.drain.slot).setToks t.drain.slot 16 true)
      s.complete u t.pass.launch t.drain.sd (complValue 0 st.toNat)
    else s.modMu u (fun m => { m with fin := m.fin ++ [{ t with status := st }] })

/-- 05 R129: a tile whose MDRAIN's two tokens differ is not committed, and its completion register stays pending. -/
def State.dropTile (s : State) (u : Nat) (t : Tile) : State :=
  let s := s.freeTile u t
  match t.pass.skim with
  | some k => s.modSkim k.ctx k.recH SkimRec.spoil
  | none => s

/-- 03 R99: the drain empties the tile, checks it, and commits or refuses it. The tokens of its MDRAIN are compared here,
before anything of it becomes visible (05 R128, log 73). -/
def State.tileCheck (s : State) (u : Nat) : State :=
  match (s.mu u).shadow with
  | none => s
  | some t =>
    let s := s.modMu u (fun m => { m with shadow := none })
    let st := t.run.statusWord (s.mu u).repair
    let ctx := ((s.launches.find t.pass.launch).map (·.ctx)).getD 0
    let s := s.measured (unitDie u) ctx t.pass.prog t.pass.cls t.run.steps
    let l := t.pass.launch
    let d := t.drain
    let bad := wres st == 1 || wres st == 2
    if d.upset ≠ 0 then
      let s := if bad then s.refuseTile u t st else s.dropTile u t
      (s.seqFault u l d.iaddr d.ino).settle l
    else
      let s := s.keepToken u d.tok
      if bad then (s.refuseTile u t st).settle l else (s.commitTile u t st).settle l

def execTileCheck (u : Fin 64) (s : State) : Out := .next (s.tileCheck u.val)

end Sys2Proof.Machine
end

