-- ==== Sys2Proof/Machine/Writes.lean ====
section
/-! DEFINITION. A write operation through a descriptor (04 R111, R124, R498) and quantisation with scale generation (07 R189,
R190). -/
namespace Sys2Proof.Machine

/-- A value on its way to a destination: its index, the order it stands in, its exact value, and its pattern where it is
an FP32 value written as it stands (02 R498). `sc` is the scale the destination held when the operation issued (04 R502),
`code` an element code that is stored as it stands (06 R170). -/
structure Contrib where
  idx : List Nat
  v : FV
  raw : Option W32 := none
  sc : Option FV := none
  code : Option Nat := none
deriving DecidableEq, Repr

/-- What a write operation leaves: the access that ended it, counts for the status word, elements written. -/
structure WriteR where
  acc : AccR := .ok
  cnt : Cnt := {}
  written : Nat := 0
deriving DecidableEq, Repr

/-- The pattern a contribution brings as it stands: a stored code, or an FP32 value for an FP32 destination. -/
def Contrib.asIs (x : Contrib) (f : DescF) : Option Nat :=
  match x.code, x.raw with
  | some k, _ => some k
  | none, some w => if f.etype = 0 && f.sfmt = 0 then some w.toNat else none
  | none, none => none

/-- The code of one contribution at its element: as it stands, or converted relative to its scale. -/
def State.codeOf (s : State) (c : Ctx) (f : DescF) (seed : BitVec 96) (x : Contrib) : State × AccR × Nat × Cnt :=
  match x.asIs f with
  | some k => (s, .ok, k, {})
  | none =>
    match s.descScale c f x.idx with
    | (s, .ok, sc) => let r := f.convert seed (x.sc.getD sc) (f.linear x.idx) x.v; (s, .ok, r.1, r.2)
    | (s, e, _) => (s, e, 0, {})

/-- Plain writes, in order, to the first fault. -/
def State.writePlain (s : State) (c : Ctx) (f : DescF) (seed : BitVec 96) : List Contrib → WriteR → State × WriteR
  | [], r => (s, r)
  | x :: t, r =>
    match s.codeOf c f seed x with
    | (s, .ok, code, k) =>
      match s.descPut c f x.idx code with
      | (s, .ok) => State.writePlain s c f seed t { r with cnt := r.cnt.add k, written := r.written + 1 }
      | (s, e) => (s, { r with acc := e })
    | (s, e, _, _) => (s, { r with acc := e })

/-- Contributions gathered by the element they reach, elements in the order they are first reached. -/
def gather (f : DescF) : List Contrib → List (Int × List Contrib) → List (Int × List Contrib)
  | [], acc => acc
  | x :: t, acc =>
    let p := f.offset x.idx
    let acc := if acc.any (fun e => e.1 == p) then
        acc.map (fun e => if e.1 == p then (e.1, e.2 ++ [x]) else e)
      else acc ++ [(p, [x])]
    gather f t acc

/-- One FP32 addition of a sum, and whether it is counted (R498). A contribution FP32 does not hold (an INT32, or a
block-scaled element: DESIGN CHOICE, log 83) is first rounded to nearest-even. -/
def addF (a : W32) (v : FV) : W32 × Nat :=
  let x := of32 a
  let y := v.rnd
  let r := x.add y
  (r.to32, b2n (x.isFin && y.isFin && r.isInf))

/-- One INT32 addition, and whether it leaves the range (R111). -/
def addI (a : Int) (b : Int) : Int × Nat :=
  let x := a + b
  ((BitVec.ofInt 32 x).toInt, b2n (x < -(2 ^ 31 : Int) || x > 2 ^ 31 - 1))

/-- How contributions combine at an element. -/
inductive Combine where
  | last | add | max | min
deriving DecidableEq, Repr

/-- A contribution as an integer: a value that is none is converted to INT32 under the destination's RMODE and OVF, and
counted (R111; under max and min a DESIGN CHOICE, log 84). -/
def DescF.intOf (f : DescF) (seed : BitVec 96) (x : Contrib) : Int × Cnt :=
  let r := if f.rmode = 2 then chatter24 seed f.stream f.draw (f.linear x.idx) else 0
  let (code, k) := cvtTo 10 (Sys2Proof.rmode f.rmode r) f.ovf ⟨x.v, false⟩
  (toSigned 32 code, k)

/-- The value of an element after its contributions, before the one conversion to its type; `old` is its code and `ov`
its value. The stochastic counter of a scatter's max or min is that of the smallest index, as R111 has it for a sum
(DESIGN CHOICE, log 84). -/
def combineAt (f : DescF) (seed : BitVec 96) (how : Combine) (old : Nat) (ov : FV) (xs : List Contrib) : Contrib × Cnt :=
  let win := bestBy (fun a b => f.linear a.idx < f.linear b.idx) xs
  let low : List Nat := (win.map (·.idx)).getD []
  let sc : Option FV := win.bind (·.sc)
  let ints (pick : Int → Int → Int) : Contrib × Cnt :=
    let r := xs.foldl (fun (acc : Int × Cnt) x => let y := f.intOf seed x; (pick acc.1 y.1, acc.2.add y.2))
      (toSigned (etBits f.etype) old, ({} : Cnt))
    ({ idx := low, v := ofIntV r.1 }, r.2)
  let floats (pick : FV → FV → FV) : Contrib × Cnt :=
    ({ idx := low, v := xs.foldl (fun acc x => pick acc x.v.rnd) ov.rnd, sc }, {})
  match how with
  | .last => (xs.getLastD { idx := low, v := ov }, {})
  | .add =>
    if f.etype = 10 then
      let r := xs.foldl (fun (acc : Int × Cnt) x =>
        let y := f.intOf seed x
        let z := addI acc.1 y.1
        (z.1, (acc.2.add y.2).add ⟨z.2, 0⟩)) (toSigned 32 old, ({} : Cnt))
      ({ idx := low, v := ofIntV r.1 }, r.2)
    else
      let start : W32 := if f.etype = 0 then BitVec.ofNat 32 old else ov.to32
      let r := xs.foldl (fun (acc : W32 × Nat) x => let y := addF acc.1 x.v; (y.1, acc.2 + y.2)) (start, 0)
      ({ idx := low, v := of32 r.1, raw := if f.etype = 0 then some r.1 else none }, ⟨r.2, 0⟩)
  | .max => if isInt f.etype && f.sfmt = 0 then ints max else floats FV.max
  | .min => if isInt f.etype && f.sfmt = 0 then ints min else floats FV.min

/-- An element's old code and value; ordered-last reads neither. -/
def State.descOld (s : State) (c : Ctx) (f : DescF) (how : Combine) (x : Contrib) : State × AccR × Nat × FV :=
  if how = .last then (s, .ok, 0, .fin false 0)
  else
    match s.descGet c f x.idx with
    | (s, .ok, code) =>
      if f.sfmt = 0 then (s, .ok, code, etValue f.etype code)
      else
        match s.descScale c f x.idx with
        | (s, .ok, sc) => (s, .ok, code, (etValue f.etype code).mulExact (x.sc.getD sc))
        | (s, e, _) => (s, e, 0, .fin false 0)
    | (s, e, _) => (s, e, 0, .fin false 0)

/-- Contributions that meet at elements, applied element by element to the first fault. -/
def State.writeGroups (s : State) (c : Ctx) (f : DescF) (seed : BitVec 96) (how : Combine) :
    List (Int × List Contrib) → WriteR → State × WriteR
  | [], r => (s, r)
  | (_, xs) :: t, r =>
    match xs with
    | [] => State.writeGroups s c f seed how t r
    | x :: _ =>
      match s.descOld c f how x with
      | (s, .ok, old, ov) =>
        let (y, k) := combineAt f seed how old ov xs
        match s.codeOf c f seed y with
        | (s, .ok, code, k') =>
          match s.descPut c f x.idx code with
          | (s, .ok) =>
            State.writeGroups s c f seed how t
              { r with cnt := (r.cnt.add k).add k', written := r.written + 1 }
          | (s, e) => (s, { r with acc := e })
        | (s, e, _, _) => (s, { r with acc := e })
      | (s, e, _, _) => (s, { r with acc := e })

/-- R111: the values of one operation, given in destination order, reach memory under the descriptor's write mode. -/
def State.writeOp (s : State) (c : Ctx) (f : DescF) (seed : BitVec 96) (xs : List Contrib) : State × WriteR :=
  if f.wmode = 0 then s.writePlain c f seed xs {}
  else s.writeGroups c f seed (if f.wmode = 2 then .add else .last) (gather f xs []) {}

/-! ### Quantisation (07 R189, R190) -/

/-- Fmax: the largest finite value of the element type. -/
def quantMax (et : Nat) : Nat :=
  match fmtOf et with
  | some f => f.maxMag
  | none => if et == 8 then 127 * 2 ^ (unitE - 6) else 7 * 2 ^ (unitE - 2)

/-- The smallest k from `lo` on, at most `lo + fuel`, with amax ≤ Fmax × 2^k. -/
def e8Find (amax fmax : Nat) (lo : Int) : Nat → Int
  | 0 => lo
  | n + 1 =>
    let ok : Bool := if lo < 0 then decide (amax * 2 ^ lo.natAbs ≤ fmax) else decide (amax ≤ fmax * 2 ^ lo.toNat)
    if ok then lo else e8Find amax fmax (lo + 1) n

/-- The scale code of a block. -/
def scaleFor (sfmt et amax : Nat) : Nat :=
  let fmax := quantMax et
  if sfmt = 1 then (e8Find amax fmax (-127) 254 + 127).toNat
  else
    match (List.range 0x7E).find? (fun i => amax * 2 ^ unitE ≤ (e4m3.decode (i + 1)).mag * fmax) with
    | some i => i + 1
    | none => 0x7E

/-- A block of written lanes: its scale code, the codes, the counts; `r` gives a lane's random bits. -/
def quantBlock (sfmt et rm : Nat) (xs : List (FV × Nat)) : Nat × List Nat × Cnt :=
  let bad := xs.any (fun x => !x.1.isFin)
  if bad then
    (if sfmt = 1 then 0xFF else 0x7F, xs.map (fun _ => 0),
      ⟨(xs.filter (fun x => x.1.isInf)).length, (xs.filter (fun x => x.1.isNan)).length⟩)
  else
    let sc := scaleFor sfmt et (maxN (xs.map (fun x => x.1.mag)))
    let sh := if et == 8 then 6 else if et == 9 then 2 else 0
    let d := FV.fin false ((scaleValue sfmt sc).mag / 2 ^ sh)
    let out := xs.map (fun x => cvtTo et (rmode rm x.2) false (x.1.quot d))
    (sc, out.map (·.1), (out.map (·.2)).foldl Cnt.add {})

end Sys2Proof.Machine
end

