-- ==== Sys2Proof/Machine/Moves.lean ====
section
/-! DEFINITION. Moves (04 R113, R122 to R126, R502; 06 R169, R170, R174, R175): TMOVE, TGATHER and TSCATTER issue and are
checked here, and are performed whole when they complete (log 14). -/
namespace Sys2Proof.Machine

/-! ### Operands -/

/-- R169: a handle register holds 16 bits. -/
def handleOf (v : W64) : Option Nat := if v.toNat < 65536 then some v.toNat else none

/-- `n` registers from register `r` on; none where the block passes s31. -/
def regBlock (b : Bank) (r : Fin 32) (n : Nat) : Option (List Nat) :=
  if r.val + n ≤ 32 then some ((List.range n).map (fun i => (b.sget (r.val + i)).toNat)) else none

/-- The fields of a live descriptor. -/
def Ctx.descF (c : Ctx) (h : Nat) : Option DescF := (c.desc h).map (fun d => descOf d.image)

/-- A live descriptor with a USE bit. -/
def Ctx.descUse (c : Ctx) (h useBit : Nat) : Option DescF :=
  (c.descF h).bind (fun f => if bit f.use useBit then some f else none)

/-- R502: a scale array goes with a scale array of its own format, a value tensor with a value tensor. -/
def pairOk (a b : DescF) : Bool := a.kind == b.kind && (a.kind == 0 || a.sfmt == b.sfmt)

/-- R113: the byte ranges overlap, and the two are not one mapping. -/
def overlaps (a b : DescF) : Bool :=
  let x := a.span
  let y := b.span
  x.1 ≤ y.2 && y.1 ≤ x.2 &&
    !(a.base == b.base && a.etype == b.etype && a.rank == b.rank && a.sizes == b.sizes && a.strides == b.strides)

/-- Moves of a pair that have not completed (R174). -/
def State.outstanding (s : State) (u : Nat) : Nat := (s.moves.filter (fun e => e.2.unit == u)).length

/-- Bytes of a box on the slot side, and its slots. -/
def boxBytes (f : DescF) (ex : List Nat) : Nat := if f.kind = 1 then prod ex else bytesOf f.etype (prod ex)
def boxSlots (f : DescF) (slot : Nat) (ex : List Nat) : List Nat :=
  (List.range (cdiv (boxBytes f ex) slotBytes)).map (slot + ·)

/-- R170: the innermost extent of a packed type. -/
def boxPackedOk (f : DescF) (ex : List Nat) : Bool :=
  f.kind == 1 || !isPacked f.etype || (ex.getLastD 0) % (if isFp6 f.etype then 4 else 2) == 0

/-- Destination of a move; its index descriptor. -/
def MoveKind.dst : MoveKind → Nat
  | .box _ _ d _ _ _ _ _ => d
  | .gather _ d _ _ => d
  | .scatter _ d _ _ _ => d

def MoveKind.idx : MoveKind → Nat
  | .gather _ _ x _ => x
  | .scatter _ _ x _ _ => x
  | _ => 0

/-- All indices of a box of the given extents, row-major. -/
def boxIdx : List Nat → List (List Nat)
  | [] => [[]]
  | n :: t => let rest := boxIdx t; (List.range n).flatMap (fun i => rest.map (i :: ·))

/-- R502: the scale bytes that the destination's scale array holds when the operation issues. A byte that cannot be read
is left to the operation itself (DESIGN CHOICE, log 84). -/
def State.scalesNow (s : State) (c : Ctx) (k : MoveKind) : Tab Nat :=
  match (c.descs.find k.dst).bind (fun d => c.scaleOf (descOf d.image)) with
  | some g =>
    (boxIdx g.sizes).filterMap (fun x =>
      match s.descGet c g x with
      | (_, .ok, b) => some (g.linear x, b)
      | _ => none)
  | none => []

/-- The operation enters the state: its completion register is pending, a tensor move unit is chosen. -/
def State.startMove (s : State) (a : Site) (i : Issue) (z : Instr) (sc : Nat) (k : MoveKind) (seed : BitVec 96)
    (ops : List Nat) (tmu : Nat) : State :=
  s.enter a (a.after z) (fun s =>
    let s := s.modPair a.u (fun p => { p with pend := sc :: p.pend })
    { s with
      moves := s.moves.put s.nextMove
        { unit := a.u, tmu, launch := a.l, ino := a.x.icount, iaddr := a.iaddr, sc, kind := k, seed
          tok := tokenOf a.word 1 sc false (opCrc z ops), upset := i.upset, scales := s.scalesNow a.c k }
      nextMove := s.nextMove + 1 })

/-- Registers of a block that a pending completion holds back. -/
def Site.blockPends (a : Site) (rs : List (Fin 32)) (n : Nat) : Bool :=
  rs.any (fun r => (List.range n).any (fun i => a.p.pend.contains (r.val + i)))

/-! ### TMOVE -/

/-- What a TMOVE's checks find: a fault, a wait, or the operation with its resolved operands. -/
inductive MoveR where
  | fault (cause : Nat)
  | wait
  | go (k : MoveKind) (seed : BitVec 96) (ops : List Nat)
deriving DecidableEq, Repr

/-- DIR 0b00, in the order of Table 6.20: the register blocks of live descriptors come before their USE (0x16, 0x15). -/
def Site.moveMem (a : Site) (f : TmoveF) : MoveR :=
  let b := a.p.bank
  match handleOf (b.sget f.hd.val), handleOf (b.sget f.hs.val) with
  | some hd, some hs =>
    match a.c.descF hd, a.c.descF hs with
    | some d, some e =>
      let n := max d.rank e.rank
      if a.blockPends [f.os, f.od, f.ex] n then .wait
      else
        match regBlock b f.os e.rank, regBlock b f.od d.rank, regBlock b f.ex n with
        | some os, some od, some ex =>
          if !bit d.use 1 || !bit e.use 0 || !pairOk d e then .fault 0x15
          else if d.rank ≠ e.rank then .fault 0x13
          else if overlaps d e then .fault 0x14
          else .go (.box .memMem hs hd os od ex 0 false) (a.c.seed d.seedSlot) ([hs, hd] ++ os ++ od ++ ex)
        | _, _, _ => .fault 0x16
    | _, _ => .fault 0x15
  | _, _ => .fault 0x16

/-- DIR 0b01 and 0b10. -/
def Site.moveSlot (a : Site) (s : State) (f : TmoveF) : MoveR :=
  let b := a.p.bank
  let out := f.dir == .slotMem
  match handleOf (b.sget (if out then f.hd.val else f.hs.val)) with
  | none => .fault 0x16
  | some h =>
    match a.c.descF h with
    | none => .fault 0x15
    | some d =>
      let og := if out then f.od else f.os
      if a.blockPends [og, f.ex] d.rank then .wait
      else
        match regBlock b og d.rank, regBlock b f.ex d.rank with
        | some o, some ex =>
          if !bit d.use (if out then 1 else 0) then .fault 0x15
          else if !boxPackedOk d ex then .fault 0x11
          else
            let rel := boxSlots d f.slot.toNat ex
            if f.slot.toNat + rel.length > a.prog.image.slots then .fault 0x17
            else
              let m := s.mu a.u
              let sl := rel.map (a.prog.base + ·)
              if (if out then sl.all m.tok else !(sl.any m.tok)) then
                .go (.box f.dir (if out then 0 else h) (if out then h else 0) (if out then [] else o) (if out then o else [])
                  ex (a.prog.base + f.slot.toNat) f.rel) (a.c.seed d.seedSlot) (h :: f.slot.toNat :: o ++ ex)
              else .wait
        | _, _ => .fault 0x16

/-- The outcome of a move's checks. -/
def State.issueMove (s : State) (a : Site) (i : Issue) (z : Instr) (sc : Nat) (r : MoveR) : State :=
  match r with
  | .fault c => s.faultAt a c
  | .wait => s
  | .go k seed ops =>
    if s.outstanding a.u ≥ 8 then s
    else
      match s.moveUnit a.die with
      | none => s
      | some t => s.startMove a i z sc k seed ops t

/-- 06 R169, R170, Table 6.14. -/
def execTmove (i : Issue) (f : TmoveF) (s : State) : Out :=
  let z := Instr.tmove noIssue f
  .next (s.issue i z (fun a =>
    s.issueMove a i z f.sc.val (if f.dir == .memMem then a.moveMem f else a.moveSlot s f)))

/-! ### TGATHER and TSCATTER -/

/-- R122: an index descriptor is INT32 of rank 1 with USE 0b01. -/
def Ctx.indexDesc (c : Ctx) (h : Nat) : Option DescF :=
  match c.desc h with
  | some d =>
    let f := descOf d.image
    if f.kind == 0 && f.etype == 10 && f.rank == 1 && f.use == 1 then some f else none
  | none => none

/-- The shape of the indexed tensor with dimension `axis` replaced by the index count. -/
def sliceShape (f : DescF) (axis n : Nat) : List Nat := f.sizes.set axis n

/-- The checks gather and scatter share; `scat` is the operation of a scatter. -/
def Site.moveIndexed (a : Site) (hd hs hi : Fin 32) (axis : Nat) (scat : Option ScatterOp) : MoveR :=
  let b := a.p.bank
  match handleOf (b.sget hd.val), handleOf (b.sget hs.val), handleOf (b.sget hi.val) with
  | some d, some e, some x =>
    match a.c.descUse d 1, a.c.descUse e 0, a.c.indexDesc x with
    | some fd, some fe, some fx =>
      let typeOk := match scat with
        | some .add => fd.kind == 0 && (fd.etype == 0 || fd.etype == 1 || fd.etype == 2 || fd.etype == 10)
        | some .store => true
        | some _ => fd.kind == 0
        | none => true
      let n := fx.sizes.getD 0 0
      let ind := if scat.isSome then fd else fe
      let oth := if scat.isSome then fe else fd
      if !typeOk || !pairOk fd fe then .fault 0x15
      else if ind.rank ≤ axis || oth.sizes != sliceShape ind axis n then .fault 0x13
      else if overlaps fd fe then .fault 0x14
      else
        .go (match scat with | some op => .scatter e d x axis op | none => .gather e d x axis)
          (a.c.seed fd.seedSlot) [d, e, x, axis]
    | _, _, _ => .fault 0x15
  | _, _, _ => .fault 0x16

/-- 04 R122, R123; 06 Table 6.15. -/
def execTgather (i : Issue) (hd hs hi : Fin 32) (axis : Fin 8) (sc : Fin 32) (s : State) : Out :=
  let z := Instr.tgather noIssue hd hs hi axis sc
  .next (s.issue i z (fun a => s.issueMove a i z sc.val (a.moveIndexed hd hs hi axis.val none)))

/-- 04 R122, R124; 06 Table 6.15. -/
def execTscatter (i : Issue) (hd hs hi : Fin 32) (axis : Fin 8) (sc : Fin 32) (sop : ScatterOp) (s : State) : Out :=
  let z := Instr.tscatter noIssue hd hs hi axis sc sop
  .next (s.issue i z (fun a => s.issueMove a i z sc.val (a.moveIndexed hd hs hi axis.val (some sop))))

/-! ### Performing a move -/

/-- What a performed move gives: the access that ended it, elements written, whether CODE 1 applies, counts. -/
structure MoveOut where
  acc : AccR := .ok
  n : Nat := 0
  clip : Bool := false
  cnt : Cnt := {}
  oor : Nat := 0

/-- Source elements of a list of indices, for destination indices: an index outside reads +0 and clips. -/
def State.fetchAll (s : State) (c : Ctx) (f : DescF) : List (List Nat × Option (List Nat)) → List Contrib → Bool →
    State × AccR × List Contrib × Bool
  | [], acc, clip => (s, .ok, acc.reverse, clip)
  | (dst, from') :: t, acc, clip =>
    match from' with
    | some x =>
      if f.inside (x.map Int.ofNat) then
        match s.descValue c f x with
        | (s, .ok, v) =>
          match s.descGet c f x with
          | (s, .ok, code) =>
            let raw : Option W32 := if f.kind = 0 && f.etype = 0 && f.sfmt = 0 then some (BitVec.ofNat 32 code) else none
            State.fetchAll s c f t ({ idx := dst, v, raw } :: acc) clip
          | (s, e, _) => (s, e, [], clip)
        | (s, e, _) => (s, e, [], clip)
      else State.fetchAll s c f t ({ idx := dst, v := .fin false 0, raw := some 0 } :: acc) true
    | none => State.fetchAll s c f t ({ idx := dst, v := .fin false 0, raw := some 0 } :: acc) clip

/-- The codes of source elements as they stand: scale bytes, or the slot side of a box. -/
def State.fetchCodes (s : State) (c : Ctx) (f : DescF) : List (Option (List Nat)) → List Nat → Bool →
    State × AccR × List Nat × Bool
  | [], acc, clip => (s, .ok, acc.reverse, clip)
  | x :: t, acc, clip =>
    match x with
    | some x =>
      if f.inside (x.map Int.ofNat) then
        match s.descGet c f x with
        | (s, .ok, code) => State.fetchCodes s c f t (code :: acc) clip
        | (s, e, _) => (s, e, [], clip)
      else State.fetchCodes s c f t (0 :: acc) true
    | none => State.fetchCodes s c f t (0 :: acc) clip

def addIdx (o x : List Nat) : List Nat := List.zipWith (· + ·) o x

/-- The scale that a destination element had when the move issued. -/
def Move.scaleThen (m : Move) (c : Ctx) (fd : DescF) (x : List Nat) : Option FV :=
  (c.scaleOf fd).bind (fun g => (m.scales.find (g.linear (fd.scaleIdx x))).map (scaleFactor fd))

/-- Memory to memory over pairs of destination and source indices, combined as `how` says (none: the destination's
write mode). -/
def State.moveElems (s : State) (c : Ctx) (fd fe : DescF) (m : Move) (how : Option Combine)
    (ps : List (List Nat × Option (List Nat))) : State × MoveOut :=
  let good := ps.filter (fun p => fd.inside (p.1.map Int.ofNat))
  let clip := good.length < ps.length
  if fd.kind = 1 then
    match s.fetchCodes c fe (good.map (·.2)) [] clip with
    | (s, .ok, cs, clip) =>
      match s.putCount c fd (List.zip (good.map (·.1)) cs) 0 with
      | (s, e, n) => (s, { acc := e, n, clip })
    | (s, e, _, clip) => (s, { acc := e, clip })
  else
    match s.fetchAll c fe good [] clip with
    | (s, .ok, xs, clip) =>
      let xs := xs.map (fun x => { x with sc := m.scaleThen c fd x.idx })
      let r := match how with
        | none => s.writeOp c fd m.seed xs
        | some h => s.writeGroups c fd m.seed h (gather fd xs []) {}
      (r.1, { acc := r.2.acc, n := r.2.written, clip, cnt := r.2.cnt })
    | (s, e, _, clip) => (s, { acc := e, clip })

/-- R122: resolve index p. -/
def resolveIdx (f : DescF) (size x : Int) : Option Nat :=
  let x := if x < 0 && f.imode = 1 then x + size else x
  if x < 0 || x ≥ size then none else some x.toNat

/-- The indices of an index tensor, resolved. -/
def State.readIdx (s : State) (c : Ctx) (f : DescF) (size : Nat) : List Nat → List (Option Nat) →
    State × AccR × List (Option Nat)
  | [], acc => (s, .ok, acc.reverse)
  | p :: t, acc =>
    match s.descGet c f [p] with
    | (s, .ok, code) => State.readIdx s c f size t (resolveIdx f size (toSigned 32 code) :: acc)
    | (s, e, _) => (s, e, [])

/-- Slots that a move stopped filling hold undefined bytes. -/
def State.spoilSlots (s : State) (u slot n : Nat) : State :=
  let (k, s) := s.draw
  s.modMu u (fun m => { m with feed := m.feed.scramble (slotBytes * slot) n k })

/-- The operation's effect on memory and slots. -/
def State.performMove (s : State) (c : Ctx) (m : Move) : State × MoveOut :=
  let fd (h : Nat) : DescF := descOf (((c.descs.find h).map (·.image)).getD 0)
  match m.kind with
  | .box .memMem src dst os od ex _ _ =>
    s.moveElems c (fd dst) (fd src) m none ((boxIdx ex).map (fun x => (addIdx od x, some (addIdx os x))))
  | .box .memSlot src _ os _ ex slot _ =>
    let f := fd src
    let sl := boxSlots f slot ex
    match s.fetchCodes c f ((boxIdx ex).map (fun x => some (addIdx os x))) [] false with
    | (s, .ok, cs, clip) =>
      let bs := if f.kind = 1 then cs.map (BitVec.ofNat 8) else packElems f.etype cs
      match s.feedPut m.unit (slotBytes * slot) bs with
      | (s, .ok) => (s.modMu m.unit (fun u => u.setToks slot sl.length true), { n := prod ex, clip })
      | (s, e) => (s.spoilSlots m.unit slot (boxBytes f ex), { acc := e, clip })
    | (s, e, _, clip) => (s.spoilSlots m.unit slot (boxBytes f ex), { acc := e, clip })
  | .box .slotMem _ dst _ od ex slot rel =>
    let f := fd dst
    let n := prod ex
    let sl := boxSlots f slot ex
    match (if n = 0 then (s, .ok, []) else s.feedRead m.unit (slotBytes * slot) (boxBytes f ex)) with
    | (s, .ok, bs) =>
      let cs := if f.kind = 1 then bs.map (·.toNat) else elemsOf f.etype n bs
      let xs := List.zip ((boxIdx ex).map (addIdx od)) cs
      let good := xs.filter (fun e => f.inside (e.1.map Int.ofNat))
      let clip := good.length < xs.length
      let s := if rel then s.modMu m.unit (fun u => u.drop sl) else s
      if f.wmode = 0 then
        match s.putCount c f good 0 with
        | (s, e, n) => (s, { acc := e, n, clip })
      else
        -- ordered-last keeps the stored code of the latest contribution (06 R170); an ordered-add adds its value
        let ks : List Contrib := good.map (fun e =>
          { idx := e.1, v := etValue f.etype e.2, raw := if f.etype = 0 then some (BitVec.ofNat 32 e.2) else none
            code := if f.wmode = 1 then some e.2 else none })
        match s.writeOp c f m.seed ks with
        | (s, r) => (s, { acc := r.acc, n := r.written, clip, cnt := r.cnt })
    | (s, e, _) => (s, { acc := e })
  | .gather src dst idx axis =>
    let fs := fd src
    match s.readIdx c (fd idx) (fs.sizes.getD axis 0) (List.range ((fd idx).sizes.getD 0 0)) [] with
    | (s, .ok, rs) =>
      let ps := (boxIdx (fd dst).sizes).map (fun x => (x, (rs.getD (x.getD axis 0) none).map (fun k => x.set axis k)))
      match s.moveElems c (fd dst) fs m none ps with
      | (s, o) => (s, { o with oor := (rs.filter Option.isNone).length })
    | (s, e, _) => (s, { acc := e })
  | .scatter src dst idx axis op =>
    let fs := fd src
    let n := (fd idx).sizes.getD 0 0
    match s.readIdx c (fd idx) ((fd dst).sizes.getD axis 0) (List.range n) [] with
    | (s, .ok, rs) =>
      let slice := boxIdx (fs.sizes.set axis 1)
      let ps := (List.range n).flatMap (fun p =>
        match rs.getD p none with
        | none => []
        | some k => slice.map (fun x => (x.set axis k, some (x.set axis p))))
      let how : Combine := match op with | .store => .last | .add => .add | .max => .max | .min => .min
      match s.moveElems c (fd dst) fs m (some how) ps with
      | (s, o) => (s, { o with oor := (rs.filter Option.isNone).length })
    | (s, e, _) => (s, { acc := e })

/-- The operation leaves: its completion register becomes present. -/
def State.closeMove (s : State) (n : Nat) (m : Move) (code count : Nat) : State :=
  ({ s with moves := s.moves.del n }).complete m.unit m.launch m.sc (complValue code count)

/-- 06 R135, Table 6.18: an undisturbed move completes; where its two tokens differ nothing of it becomes visible
(05 R129). -/
def State.completeMove (s : State) (n : Nat) (m : Move) : State :=
  match s.launches.find m.launch with
  | none => { s with moves := s.moves.del n }
  | some x =>
    if m.upset ≠ 0 then (({ s with moves := s.moves.del n }).seqFault m.unit m.launch m.iaddr m.ino).settle m.launch
    else
    let s := s.keepToken m.unit m.tok
    match s.ctxs.find x.ctx with
    | none => { s with moves := s.moves.del n }
    | some c =>
      match s.performMove c m with
      | (t, o) =>
        let acc := s.ownFill o.acc
        let s := t
        let s := s.countDesc x.ctx m.kind.dst 0 o.cnt
        let s := s.countDesc x.ctx m.kind.idx o.oor {}
        match accFault acc m.iaddr m.ino with
        | none =>
          let one := o.clip || o.cnt.ovf ≠ 0 || o.cnt.nan ≠ 0 || o.oor ≠ 0
          (s.closeMove n m (if one then 1 else 0) o.n).settle m.launch
        | some (f, code) =>
          let s := s.closeMove n m code o.n
          match acc with
          | .sram d k idx sy =>
            let s := s.raise (sramRecord d k idx sy (some c.part) (some x.ctx) (some x.queue))
            s.abortWith m.launch 0x20 m.iaddr m.ino
          | _ => s.abortLaunch m.launch f

end Sys2Proof.Machine
end

