-- ==== Sys2Proof/Machine/Stages.lean ====
section
/-! DEFINITION. Stages (07): finishing runs, roughing runs and closing passes of a matrix unit. At its event a run goes on
strip by strip from where it stands, as far as its code does not wait for a slot (log 14). -/
namespace Sys2Proof.Machine

/-! ### Stage code (R180 to R182) -/

/-- How stage code ends: its bank; a slot it waits for, with the bank and the instructions left; a fault of an
instruction; or a word with a detected error. -/
inductive CodeR where
  | ok (b : Bank)
  | wait (b : Bank) (left : Nat)
  | fault (cause : Nat)
  | sram (d block idx synd : Nat)
deriving DecidableEq, Repr

/-- What stage code sees beside its bank: unit, slot range, parameters and seed slots. -/
structure StageEnv where
  u : Nat
  base : Nat
  slots : Nat
  src : Src3

/-- One instruction of stage code: VLD waits for its slot and VRAND checks its operands; the others only compute. -/
def State.stageStep (s : State) (v : StageEnv) (b : Bank) : Instr → State × CodeR
  | .vld _ vd sa et _ =>
    let x := (b.sget sa.val).toNat
    let n := bytesOf et.toNat laneCount
    if x % 128 = 0 && x + n ≤ slotBytes * v.slots && x / slotBytes == (x + n - 1) / slotBytes then
      if !(s.mu v.u).tok (v.base + x / slotBytes) then (s, .wait b 1)
      else
        match s.feedRead v.u (slotBytes * v.base + x) n with
        | (s, .ok, bs) => (s, .ok (b.vset vd.val ((elemsOf et.toNat laneCount bs).map (loadLane et.toNat))))
        | (s, .sram d k idx sy, _) => (s, .sram d k idx sy)
        | (s, _, _) => (s, .fault 0x17)
    else (s, .fault 0x17)
  | .vrand i vd va sk sn w =>
    if vrandOk (b.sget sk.val) (b.sget sn.val) then (s, .ok (rBody v.src b (.vrand i vd va sk sn w)))
    else (s, .fault 0x16)
  | i => (s, .ok (rBody v.src b i))

def State.stageCode (s : State) (v : StageEnv) : List Instr → Bank → State × CodeR
  | [], b => (s, .ok b)
  | i :: t, b =>
    match s.stageStep v b i with
    | (s, .ok b) => State.stageCode s v t b
    | (s, .wait b _) => (s, .wait b (t.length + 1))
    | r => r

/-- R181: the bank at the start of a run: zero but for the imports. -/
def stageBank (la : StageLatch) : Bank :=
  let b : Bank := {}
  let b := (List.range la.sImp.length).foldl (fun b k => b.sset (8 + k) (la.sImp.getD k 0)) b
  (List.range la.vImp.length).foldl (fun b k => b.vset (28 + k) (la.vImp.getD k zeroLanes)) b

/-! ### One strip (R181, R184, R191, R195) -/

/-- How a strip, or a run of strips, ends: through, waiting inside a strip, stopped by its code, or by an access. -/
inductive StripR where
  | done (r : StageRun)
  | wait (r : StageRun)
  | code (q : CodeR)
  | acc (q : AccR)
deriving DecidableEq, Repr

/-- A strip: its load and presets unless it is loaded already, what is left of its code, its output. -/
def State.strip (load out : State → StageRun → State × StripR) (v : StageEnv) (code : List Instr) (s : State)
    (r : StageRun) : State × StripR :=
  match (if r.left.isSome then (s, StripR.done r) else load s r) with
  | (s, .done r) =>
    match s.stageCode v (code.drop (code.length - r.left.getD code.length)) r.bank with
    | (s, .ok b) => out s { r with bank := b, left := none }
    | (s, .wait b n) => (s, .wait { r with bank := b, left := some n })
    | (s, q) => (s, .code q)
  | q => q

/-- The strips still to do, in order, to the first that waits or stops: what those before it wrote stands. -/
def State.strips {α : Type} (strip : α → State → StageRun → State × StripR) : List α → State → StageRun → State × StripR
  | [], s, r => (s, .done r)
  | k :: t, s, r =>
    match strip k s r with
    | (s, .done r) => State.strips strip t s { r with done := r.done + 1 }
    | q => q

/-- Where a run stands at its event: where it stood, or at its start with the imports in a bank of zeros. -/
def StageRun.begin (r : StageRun) (la : StageLatch) : StageRun :=
  if r.on then r else { on := true, bank := stageBank la }

/-! ### Finishing (R184 to R194) -/

/-- Tile row and column of a landing position (R88, R168). -/
def landAt (ax : Bool) (m n p : Nat) : Nat × Nat := if ax then (p % m, p / m) else (p / n, p % n)

/-- What a strip of a finishing run gives: landing words to write, contributions of a push, quantised blocks, partials of
output rows with their two words, and whether a lane was dropped. -/
structure FinOut where
  land : List (Nat × W32) := []
  push : List Contrib := []
  quant : List (List (Nat × Contrib)) := []
  parts : List (Nat × W32 × W32) := []
  dropped : Bool := false
deriving DecidableEq, Repr

/-- A tile under its finishing stage. -/
structure FinTile where
  e : StageE
  d : DrainEntry
  int : Bool
  m : Nat
  n : Nat
  inRow : List Bool
  inCol : List Bool

/-- Whether a landing position lies inside the real extents (R120). -/
def FinTile.inside (f : FinTile) (p : Nat) : Bool :=
  let (i, j) := landAt f.d.ax f.m f.n p
  f.inRow.getD i false && f.inCol.getD j false

/-- R186: output row of a tile row. -/
def FinTile.outRow (f : FinTile) (i : Nat) : Nat :=
  if f.e.guide then f.e.gd * (i / (2 * f.e.gd)) + i % (2 * f.e.gd) else i

/-- Strips, or first strips of the pairs of R186, in ascending order. -/
def FinTile.strips (f : FinTile) : List Nat :=
  (List.range 128).filter (fun k => !f.e.guide || (512 * k / f.n) % (2 * f.e.gd) < f.e.gd)

/-- R185. FP32 takes a value unconverted (02 R498). -/
def FinTile.conf (f : FinTile) (x : W32) : W32 :=
  if !f.e.conf || f.e.ctype = 0 then x
  else
    match fmtOf f.e.ctype with
    | some g => (g.decode (cvtFloat g (rmode f.e.crm 0) f.e.covf ⟨of32 x, false⟩).1).to32
    | none => x

/-- R186: the guidance combine of two lanes. -/
def guideLane (sc c u : W32) : W32 :=
  ((of32 sc).fma (of32 ((of32 c).add (of32 u).negate).to32) (of32 u)).to32

/-- R186: the strips a strip's values come from: itself, and under GUIDE the one of the unconditional rows. -/
def FinTile.sources (f : FinTile) (k : Nat) : List Nat :=
  if f.e.guide then [k, k + f.e.gd * f.n / 512] else [k]

/-- R120, R186: the lanes of a strip or pair inside the real extents. -/
def FinTile.mask (f : FinTile) (k : Nat) : List Bool :=
  (List.range 512).map (fun l => (f.sources k).all (fun k => f.inside (512 * k + l)))

/-- v0 of a strip or pair from the landing words of its sources. -/
def FinTile.load (f : FinTile) (ws : List (List W32)) : Lanes :=
  match ws.map (fun w => w.map f.conf) with
  | [c, u] => List.zipWith (guideLane f.d.latch.gs) c u
  | [c] => c
  | _ => zeroLanes

/-- Table 7.2, finishing body. No register receives the tile's status word, which 03 R86 hands to a finishing program:
it stands in the MDRAIN's completion value (DESIGN CHOICE, log 87). -/
def FinTile.preset (f : FinTile) (k : Nat) (v0 : Lanes) (b : Bank) : Bank :=
  let rc := (List.range 512).map (fun l => landAt f.d.ax f.m f.n (512 * k + l))
  let b := b.sset 0 (BitVec.ofNat 64 k)
  let b := b.vset 0 v0
  let b := b.vset 1 (rc.map (fun e => BitVec.ofNat 32 (f.d.latch.orgm.toNat + f.outRow e.1)))
  let b := b.vset 2 (rc.map (fun e => BitVec.ofNat 32 (f.d.latch.orgn.toNat + e.2)))
  b.qset 0 (f.mask k)

/-- R193: the partial of N lanes; lanes that are not written enter as the identity. -/
def partialOf (stat : Nat) (xs : List (Bool × W32)) : W32 × W32 :=
  if stat = 1 then
    (tree fadd32 0 (xs.map (fun e => if e.1 then e.2 else 0x80000000#32)),
     tree fadd32 0 (xs.map (fun e => if e.1 then ((of32 e.2).mul (of32 e.2)).to32 else 0x80000000#32)))
  else
    let m := tree (fun a b => ((of32 a).max (of32 b)).to32) 0 (xs.map (fun e => if e.1 then e.2 else 0xFF800000#32))
    let m := if xs.any (fun e => e.1 && (of32 e.2).isNan) then 0x7FC00000#32 else m
    if m == 0xFF800000#32 then (m, 0)
    else (m, tree fadd32 0 (xs.map (fun e =>
      if e.1 then (of32 ((of32 e.2).add (of32 m).negate).to32).exp2.to32 else 0)))

/-- The lane's exact value: INT32 for an integer pass, else FP32. -/
def laneValue (int : Bool) (w : W32) : FV := if int then ofIntV w.toInt else of32 w

/-- R187, R189, R193: what a strip's final bank gives. `df` is the destination of a push. A lane outside the real extents
is never written, whatever the body leaves in q0 (04 R120). -/
def FinTile.output (f : FinTile) (df : Option DescF) (k : Nat) (b : Bank) : FinOut :=
  let v0 := b.vget 0
  let on := List.zipWith (· && ·) (b.qget 0) (f.mask k)
  let lanes := (List.range 512).filter (fun l => on.getD l false)
  match df with
  | none =>
    { land := lanes.map (fun l =>
        let p := 512 * k + l
        let (i, j) := landAt f.d.ax f.m f.n p
        (if f.e.guide then f.outRow i * f.n + j else p, v0.getD l 0)) }
  | some g =>
    let mk (l : Nat) : Nat × Contrib :=
      (l, { idx := [((b.vget 1).getD l 0).toNat, ((b.vget 2).getD l 0).toNat], v := laneValue f.int (v0.getD l 0)
            raw := if f.int then none else some (v0.getD l 0) })
    let inside (l : Nat) : Bool := g.inside [((b.vget 1).getD l 0).toInt, ((b.vget 2).getD l 0).toInt]
    let good := lanes.filter inside
    let written := (List.range 512).map (fun l => good.contains l)
    let o : FinOut :=
      { dropped := good.length < lanes.length
        parts := if f.e.stat = 0 || f.e.conf then [] else
          (List.range (512 / f.n)).map (fun r =>
            (f.d.latch.orgm.toNat + f.outRow (512 * k / f.n + r),
             partialOf f.e.stat (((List.zip written v0).drop (f.n * r)).take f.n))) }
    if g.sfmt = 0 then { o with push := good.map (fun l => (mk l).2) }
    else
      let blocks := (List.range (512 / g.g)).map (fun bl => (good.filter (fun l => l / g.g == bl)).map mk)
      let keep (xs : List (Nat × Contrib)) : List (Nat × Contrib) :=
        match xs with
        | [] => []
        | x :: _ => xs.filter (fun y => y.2.idx.getD 0 0 == x.2.idx.getD 0 0 &&
            y.2.idx.getD 1 0 / g.g == x.2.idx.getD 1 0 / g.g)
      let kept := (blocks.map keep).filter (fun x => !x.isEmpty)
      { o with quant := kept, dropped := o.dropped || sumN (kept.map List.length) < good.length }

/-- A quantised block (R189): its scale with the scale's index, its elements' codes, its counts. -/
def quantOut (g : DescF) (seed : BitVec 96) (xs : List (Nat × Contrib)) :
    (List Nat × Nat) × List (List Nat × Nat) × Cnt :=
  let rnd (y : Contrib) : Nat := if g.rmode = 2 then chatter24 seed g.stream g.draw (g.linear y.idx) else 0
  let (sc, codes, cnt) := quantBlock g.sfmt g.etype g.rmode (xs.map (fun y => (y.2.v, rnd y.2)))
  let x := ((xs.head?).map (fun e => e.2.idx)).getD []
  (([x.getD 0 0, x.getD 1 0 / g.g], sc), List.zip (xs.map (·.2.idx)) codes, cnt)

/-- The quantised blocks of a strip are written as one operation: the elements, under ordered-last in destination order
(R111), then the scales in the same order. -/
def State.writeBlocks (s : State) (c : Ctx) (g : DescF) (seed : BitVec 96) (blocks : List (List (Nat × Contrib))) :
    State × WriteR :=
  match c.scaleOf g with
  | none => (s, {})
  | some sf =>
    let out := blocks.map (quantOut g seed)
    let order (f : DescF) (xs : List (List Nat × Nat)) : List (List Nat × Nat) :=
      if g.wmode = 0 then xs else sortBy (fun a b => f.linear a.1 < f.linear b.1) xs
    let cnt := (out.map (·.2.2)).foldl Cnt.add {}
    match s.putCount c g (order g (out.flatMap (·.2.1))) 0 with
    | (s, .ok, n) =>
      match s.putAll c sf (order sf (out.map (·.1))) with
      | (s, e) => (s, { acc := e, cnt, written := n })
    | (s, e, n) => (s, { acc := e, cnt, written := n })

/-- Write raw 32-bit words through an INT32 descriptor (R194). -/
def State.putWords (s : State) (c : Ctx) (g : DescF) (ws : List (List Nat × W32)) : State × AccR :=
  s.putAll c g (ws.map (fun e => (e.1, e.2.toNat)))

/-! ### The row record (R194) -/

/-- W and T of a STAT stage. -/
def FinTile.width (f : FinTile) : Nat := (f.d.latch.params.get 0 f.e.wp).toNat
def FinTile.tiles (f : FinTile) : Nat := cdiv f.width f.n

/-- Output rows of a tile. -/
def FinTile.rows (f : FinTile) : Nat := if f.e.guide then f.m / 2 else f.m

/-- The word index of a block's counter. -/
def FinTile.counterAt (f : FinTile) : List Nat := [f.d.latch.orgm.toNat, 2 * f.tiles]

/-- R194: the checks of order 3. -/
def State.recordCheck (s : State) (c : Ctx) (f : FinTile) (dst rec : DescF) (die : Nat) : State × AccR × Bool :=
  if f.d.latch.orgn.toNat % f.n ≠ 0 || dst.sizes.getD 1 0 < f.width || rec.sizes.getD 1 0 < 2 * f.tiles + 1 ||
      !rec.inside (f.counterAt.map Int.ofNat) then (s, .ok, false)
  else
    match s.descGet c rec f.counterAt with
    | (s, .ok, w) => (s, .ok, bits w 31 28 = 0 || bits w 31 28 = die + 1)
    | (s, e, _) => (s, e, false)

/-- Another unit of the die runs the closing pass of the same block. -/
def State.closingElsewhere (s : State) (die dstRec r0 : Nat) (ctx : Nat) : Bool :=
  s.mus.any (fun e => unitDie e.1 == die &&
    match e.2.closing with
    | some t =>
      t.drain.latch.recH == dstRec && t.drain.latch.orgm.toNat == r0 &&
        ((s.launches.find t.pass.launch).map (·.ctx)).getD 0 == ctx
    | none => false)

/-! ### Ends of a finishing run -/

/-- The tile and its run leave the vector engine, and its landing space is released. -/
def State.leaveStage (s : State) (u : Nat) (t : Tile) : State :=
  s.modMu u (fun m =>
    ({ m with fin := m.fin.filter (fun x => x.drain != t.drain), closing := none, closeTmu := none, stage := {} } : MUnit).unreserve
      t.drain.slot)

/-- The stage stops: its completion register takes CODE 2, 3 or 5, its launch is aborted with the IADDR of the MDRAIN
(R202). Cause 0x20 is a word whose own record has been raised. -/
def State.stopStage (s : State) (u : Nat) (t : Tile) (f : FaultAt) (code : Nat) : State :=
  let s := s.leaveStage u t
  let s := s.complete u t.pass.launch t.drain.sd (complValue code t.status.toNat)
  let s := if f.cause = 0x20 then s.abortWith t.pass.launch 0x20 f.iaddr f.ino else s.abortLaunch t.pass.launch f
  s.settle t.pass.launch

def Tile.faultAt (t : Tile) (cause : Nat) : FaultAt := { cause, iaddr := t.drain.iaddr, ino := t.drain.ino }

/-- Stage code that ended badly: the code of the completion value is 5. -/
def State.stopCode (s : State) (u : Nat) (t : Tile) (r : CodeR) : State :=
  match r with
  | .fault c => s.stopStage u t (t.faultAt c) 5
  | .sram d k idx sy => (s.sramRaise t.pass.launch d k idx sy).stopStage u t (t.faultAt 0x20) 5
  | _ => s

/-- An access that failed: CODE 2 or 3. -/
def State.stopAccess (s : State) (u : Nat) (t : Tile) (r : AccR) : State :=
  match accFault r t.drain.iaddr t.drain.ino with
  | some (f, code) => s.stopStage u t f code
  | none => s

/-- R129 in stage code: CODE 5. -/
def State.stopUpset (s : State) (u : Nat) (t : Tile) : State :=
  let s := (s.leaveStage u t).complete u t.pass.launch t.drain.sd (complValue 5 t.status.toNat)
  (s.seqFault u t.pass.launch t.drain.iaddr t.drain.ino).settle t.pass.launch

/-- A run that waits keeps its place; one that stops ends its tile; one that is through goes on with `fin`. -/
def State.endStrips (s : State) (u : Nat) (t : Tile) (q : StripR) (fin : StageRun → State) : State :=
  match q with
  | .done r => fin r
  | .wait r => s.modMu u (fun m => { m with stage := r })
  | .code q => s.stopCode u t q
  | .acc q => s.stopAccess u t q

/-- Orders 6 and 9 of Table 7.3: the tile leaves the vector engine. -/
def State.endFinish (s : State) (u : Nat) (t : Tile) (push : Bool) (code : Nat) : State :=
  let s := s.modMu u (fun m =>
    let m := ({ m with fin := m.fin.drop 1, stage := {} } : MUnit).unreserve t.drain.slot
    if push then m else m.setToks t.drain.slot 16 true)
  (s.complete u t.pass.launch t.drain.sd (complValue code t.status.toNat)).settle t.pass.launch

/-! ### FINISHING_RUN (Table 7.3) -/

/-- Launch, context and image of a tile. -/
def State.tileSite (s : State) (t : Tile) : Option (Launch × Ctx × Program) :=
  (s.launches.find t.pass.launch).bind (fun x =>
    (s.ctxs.find x.ctx).bind (fun c => (c.progs.find x.prog).map (fun g => (x, c, g))))

def Tile.finTile (t : Tile) (e : StageE) : FinTile :=
  { e, d := t.drain, int := t.pass.t.intPass, m := t.pass.t.m, n := t.pass.t.n, inRow := t.inRow, inCol := t.inCol }

/-- What a tile's stage code sees. -/
def Tile.env (t : Tile) (u : Nat) (c : Ctx) (g : Program) : StageEnv :=
  { u, base := g.base, slots := g.image.slots, src := { params := t.drain.latch.params, seed := c.seed } }

/-- The landing words of strips. -/
def State.landRead (s : State) (u slot : Nat) : List Nat → State × AccR × List (List W32)
  | [] => (s, .ok, [])
  | k :: t =>
    match s.feedRead u (slotBytes * slot + 2048 * k) 2048 with
    | (s, .ok, bs) =>
      match State.landRead s u slot t with
      | (s, e, ws) => (s, e, (elemsOf 10 512 bs).map (BitVec.ofNat 32) :: ws)
    | (s, e, _) => (s, e, [])

/-- A bad word that stage code meets, as its end. -/
def wordR : AccR → StripR
  | .sram d k idx sy => .code (.sram d k idx sy)
  | r => .acc r

/-- A strip is loaded; with a push the landing slots are free once the last is (Table 7.3 order 5). -/
def State.finLoad (u : Nat) (f : FinTile) (k : Nat) (s : State) (r : StageRun) : State × StripR :=
  match s.landRead u f.d.slot (f.sources k) with
  | (s, .ok, ws) =>
    let s := if f.e.push && f.strips.getLast? == some k then s.modMu u (fun m => m.unreserve f.d.slot) else s
    (s, .done { r with bank := f.preset k (f.load ws) r.bank })
  | (s, e, _) => (s, wordR e)

/-- Words of the landing space. -/
def State.landOut (s : State) (u slot : Nat) (xs : List (Nat × W32)) : State :=
  xs.foldl (fun s e => s.feedWrite u (slotBytes * slot + 4 * e.1) (natLe 4 e.2.toNat)) s

/-- The writes of a strip's push, one operation under the destination's write mode. -/
def State.pushOut (s : State) (c : Ctx) (g : DescF) (seed : BitVec 96) (o : FinOut) : State × WriteR :=
  if g.sfmt ≠ 0 then s.writeBlocks c g seed o.quant
  else s.writeOp c g seed (if g.wmode = 0 then o.push else sortBy (fun a b => g.linear a.idx < g.linear b.idx) o.push)

/-- A strip's output leaves as soon as the strip is done (R188). `ctx` numbers the context c. -/
def State.finOut (u ctx : Nat) (c : Ctx) (f : FinTile) (df : Option DescF) (k : Nat) (s : State) (r : StageRun) :
    State × StripR :=
  let o := f.output df k r.bank
  let r := { r with clip := r.clip || o.dropped, parts := r.parts ++ o.parts }
  match df with
  | none => (s.landOut u f.d.slot o.land, .done r)
  | some g =>
    match s.pushOut c g f.d.latch.seed o with
    | (t, w) =>
      let t := t.countDesc ctx f.d.latch.dst 0 w.cnt
      if w.acc == .ok then (t, .done { r with clip := r.clip || w.cnt.ovf ≠ 0 || w.cnt.nan ≠ 0 })
      else (t, .acc (s.ownFill w.acc))

/-- The strips of a finishing run from where it stands. -/
def State.finStrips (s : State) (u ctx : Nat) (c : Ctx) (v : StageEnv) (f : FinTile) (df : Option DescF)
    (body : List Instr) (r : StageRun) : State × StripR :=
  State.strips (fun k => State.strip (State.finLoad u f k) (State.finOut u ctx c f df k) v body) (f.strips.drop r.done) s r

/-- Orders 7 and 8: partials, the counter, and the closing pass it may bring, with the unit that will stream its rows. -/
def State.countTile (s : State) (u : Nat) (t : Tile) (c : Ctx) (f : FinTile) (rec : DescF) (r : StageRun) : State :=
  let tl := f.d.latch.orgn.toNat / f.n
  match s.putWords c rec (r.parts.flatMap (fun p => [([p.1, 2 * tl], p.2.1), ([p.1, 2 * tl + 1], p.2.2)])) with
  | (s1, .ok) =>
    match s1.descGet c rec f.counterAt with
    | (s2, .ok, w) =>
      let n := bits w 27 0
      match s2.putWords c rec [(f.counterAt, BitVec.ofNat 32 ((unitDie u + 1) * 2 ^ 28 + (n + 1) % 2 ^ 28))] with
      | (s3, .ok) =>
        if n + 1 ≥ f.tiles then
          s3.modMu u (fun m => { m with
            fin := m.fin.drop 1, stage := {}, closing := some { t with clip := r.clip }, closeTmu := s3.moveUnit (unitDie u) })
        else s3.endFinish u t true (b2n r.clip)
      | (s3, e) => s3.stopAccess u t (s.ownFill e)
    | (s2, e, _) => s2.stopAccess u t (s.ownFill e)
  | (s1, e) => s1.stopAccess u t (s.ownFill e)

/-- A finishing run of a tile under its stage goes on. A tile that reaches the counter of a block that is being closed
waits (R194). -/
def State.finish (s : State) (u : Nat) (t : Tile) (e : StageE) (x : Launch) (c : Ctx) (g : Program) : State :=
  let body := (e.body ((zprog g.image.code).getD [])).getD []
  let df := if e.push then (c.descs.find t.drain.latch.dst).map (fun d => descOf d.image) else none
  let rf := if e.stat ≠ 0 then (c.descs.find t.drain.latch.recH).map (fun d => descOf d.image) else none
  let f := t.finTile e
  let r0 := (s.mu u).stage
  let chk : State × AccR × Bool := match df, rf with
    | some d, some r => if r0.on then (s, .ok, true) else s.recordCheck c f d r (unitDie u)
    | _, _ => (s, .ok, true)
  match chk with
  | (s1, .ok, true) =>
    match s1.finStrips u x.ctx c (t.env u c g) f df body (r0.begin t.drain.latch) with
    | (s2, q) =>
      s2.endStrips u t q (fun r =>
        match rf with
        | none => s2.endFinish u t e.push (b2n r.clip)
        | some rd =>
          if s2.closingElsewhere (unitDie u) t.drain.latch.recH t.drain.latch.orgm.toNat x.ctx then
            s2.modMu u (fun m => { m with stage := r })
          else s2.countTile u t c f rd r)
  | (s1, .ok, false) => s1.stopStage u t (t.faultAt 0x11) 5
  | (s1, r, _) => s1.stopAccess u t (s.ownFill r)

/-- R183, R184: the oldest committed tile that names a stage is finished, when the vector engine runs no closing pass. -/
def State.finishingRun (s : State) (u : Nat) (upset : W64) : State :=
  let m := s.mu u
  match m.fin, m.closing with
  | t :: _, none =>
    if upset ≠ 0 then s.stopUpset u t
    else
      match s.tileSite t with
      | none => s
      | some (x, c, g) =>
        match imgStage g.image t.drain.fent with
        | none => s
        | some e => s.finish u t e x c g
  | _, _ => s

def execFinishingRun (u : Fin 64) (upset : W64) (s : State) : Out := .next (s.finishingRun u.val upset)

/-! ### CLOSING_PASS (R193, R195, R196) -/

/-- Table 7.4. -/
def statIdentity (stat : Nat) : W32 × W32 := if stat = 1 then (0x80000000#32, 0x80000000#32) else (0xFF800000#32, 0)

def statPair (stat : Nat) (x : W32) : W32 × W32 :=
  if stat = 1 then (x, ((of32 x).mul (of32 x)).to32)
  else if x == 0xFF800000#32 then (x, 0) else (x, 0x3F800000#32)

def statCombine (stat : Nat) (p q : W32 × W32) : W32 × W32 :=
  if stat = 1 then (fadd32 p.1 q.1, fadd32 p.2 q.2)
  else
    let nan := (of32 p.1).isNan || (of32 q.1).isNan || (of32 p.2).isNan || (of32 q.2).isNan
    if nan then (0x7FC00000#32, 0x7FC00000#32)
    else if q.1 == 0xFF800000#32 then p
    else if p.1 == 0xFF800000#32 then q
    else
      let n := ((of32 p.1).max (of32 q.1))
      let ex (a : W32) : FV := (of32 ((of32 a).add n.negate).to32).exp2
      (n.to32, ((of32 q.2).fma (ex q.1) ((of32 p.2).mul (ex p.1))).to32)

/-- Words of a row of the record, or stored values of a row, as FP32. -/
def State.readRow (s : State) (c : Ctx) (g : DescF) (raw : Bool) (r : Nat) : List Nat → List W32 → State × AccR × List W32
  | [], acc => (s, .ok, acc.reverse)
  | j :: t, acc =>
    if !g.inside [(r : Int), (j : Int)] then State.readRow s c g raw r t (0 :: acc)
    else
      match s.descGet c g [r, j] with
      | (s, .ok, code) =>
        State.readRow s c g raw r t ((if raw || g.etype = 0 then BitVec.ofNat 32 code else (etValue g.etype code).rnd.to32) :: acc)
      | (s, e, _) => (s, e, [])

/-- R195: the combined statistics of a row. -/
def closeStat (e : StageE) (w : Nat) (xs : List W32) : W32 × W32 :=
  if e.conf then
    let lane (l : Nat) : W32 × W32 :=
      (List.range (cdiv w 512)).foldl (fun acc k =>
        if 512 * k + l < w then statCombine e.stat acc (statPair e.stat (xs.getD (512 * k + l) 0)) else acc)
        (statIdentity e.stat)
    tree (statCombine e.stat) (statIdentity e.stat) ((List.range 512).map lane)
  else
    (List.range (xs.length / 2)).foldl (fun acc t =>
      statCombine e.stat acc (xs.getD (2 * t) 0, xs.getD (2 * t + 1) 0)) (statIdentity e.stat)

/-- Whether an output row of the tile lies inside the real extents: under GUIDE both rows it comes from. -/
def FinTile.rowInside (f : FinTile) (o : Nat) : Bool :=
  if f.e.guide then
    let i := 2 * f.e.gd * (o / f.e.gd) + o % f.e.gd
    f.inRow.getD i false && f.inRow.getD (i + f.e.gd) false
  else f.inRow.getD o false

/-- The parts of a closing pass: for each output row of the tile, ascending, its row part and then its strips. -/
def FinTile.closeSteps (f : FinTile) : List (Nat × Option Nat) :=
  (List.range f.rows).flatMap (fun o => (o, none) :: (List.range (cdiv f.width 512)).map (fun j => (o, some j)))

/-- What a part of a closing pass begins with: the row's statistic, or a strip of the stored row. -/
def State.closeLoad (c : Ctx) (f : FinTile) (g rec : DescF) (k : Nat × Option Nat) (s : State) (r : StageRun) :
    State × StripR :=
  let row := f.d.latch.orgm.toNat + k.1
  let w := f.width
  match k.2 with
  | none =>
    match (if f.e.conf then s.readRow c g false row (List.range w) [] else s.readRow c rec true row (List.range (2 * f.tiles)) []) with
    | (t, .ok, xs) =>
      let (a, q) := closeStat f.e w xs
      (t, .done { r with bank := (((r.bank.sset 0 0).sset 4 (up64 a)).sset 5 (up64 q)).sset 6 (BitVec.ofNat 64 row) })
    | (t, e, _) => (t, .acc (s.ownFill e))
  | some j =>
    let cols := (List.range 512).map (fun l => 512 * j + l)
    match s.readRow c g false row cols [] with
    | (t, .ok, v0) =>
      let b := (((r.bank.sset 0 (BitVec.ofNat 64 j)).sset 6 (BitVec.ofNat 64 row)).vset 0 v0).vset 1
        (List.replicate 512 (BitVec.ofNat 32 row))
      (t, .done { r with bank := (b.vset 2 (cols.map (BitVec.ofNat 32))).qset 0 (cols.map (fun x => x < w)) })
    | (t, e, _) => (t, .acc (s.ownFill e))

/-- The write-backs of a strip: never to a row outside the real extents (04 R120). -/
def State.closeOut (ctx : Nat) (c : Ctx) (f : FinTile) (g : DescF) (k : Nat × Option Nat) (s : State) (r : StageRun) :
    State × StripR :=
  match k.2 with
  | none => (s, .done r)
  | some j =>
    let row := f.d.latch.orgm.toNat + k.1
    let lanes := if f.rowInside k.1 then (List.range 512).filter (fun l => (r.bank.qget 0).getD l false) else []
    let good := lanes.filter (fun l => g.inside [(row : Int), ((512 * j + l : Nat) : Int)])
    let xs : List Contrib := good.map (fun l =>
      { idx := [row, 512 * j + l], v := of32 ((r.bank.vget 0).getD l 0), raw := some ((r.bank.vget 0).getD l 0) })
    match s.writePlain c g f.d.latch.seed xs {} with
    | (t, o) =>
      let t := t.countDesc ctx f.d.latch.dst 0 o.cnt
      if o.acc == .ok then
        (t, .done { r with clip := r.clip || good.length < lanes.length || o.cnt.ovf ≠ 0 || o.cnt.nan ≠ 0 })
      else (t, .acc (s.ownFill o.acc))

/-- The parts of a closing pass from where it stands; `row` and `strip` are the two parts of its code. -/
def State.closeStrips (s : State) (ctx : Nat) (c : Ctx) (v : StageEnv) (f : FinTile) (g rec : DescF) (row strip : List Instr)
    (r : StageRun) : State × StripR :=
  State.strips (fun k => State.strip (State.closeLoad c f g rec k) (State.closeOut ctx c f g k) v
    (if k.2.isNone then row else strip)) (f.closeSteps.drop r.done) s r

/-- R196: every write-back is visible: the counter returns to 0, the die fence rises, the MDRAIN completes. -/
def State.endClosing (s : State) (u : Nat) (t : Tile) (ctx : Nat) (c : Ctx) (f : FinTile) (rec : DescF) (r : StageRun) : State :=
  match s.putWords c rec [(f.counterAt, 0)] with
  | (s1, .ok) =>
    let s1 := s1.modCtx ctx (fun c => c.addFence (unitDie u) f.e.cf 1)
    let s1 := s1.modMu u (fun m => { m with closing := none, closeTmu := none, stage := {} })
    (s1.complete u t.pass.launch t.drain.sd (complValue (b2n (t.clip || r.clip)) t.status.toNat)).settle t.pass.launch
  | (s1, q) => s1.stopAccess u t (s.ownFill q)

/-- R195, R196: the closing pass goes on; it waits while no tensor move unit serves it (04 R126). -/
def State.closingPass (s : State) (u : Nat) (upset : W64) : State :=
  match (s.mu u).closing, (s.mu u).closeTmu.or (s.moveUnit (unitDie u)) with
  | some t, some k =>
    if upset ≠ 0 then s.stopUpset u t
    else
      let s := if (s.mu u).closeTmu.isSome then s else s.modMu u (fun m => { m with closeTmu := some k })
      match s.tileSite t with
      | none => s
      | some (x, c, g) =>
        match imgStage g.image t.drain.fent, c.descs.find t.drain.latch.dst, c.descs.find t.drain.latch.recH with
        | some e, some dd, some rd =>
          let f := t.finTile e
          let code := (e.closing ((zprog g.image.code).getD [])).getD []
          let rf := descOf rd.image
          match s.closeStrips x.ctx c (t.env u c g) f (descOf dd.image) rf (code.take e.crow) (code.drop e.crow)
              ((s.mu u).stage.begin t.drain.latch) with
          | (s, q) => s.endStrips u t q (fun r => s.endClosing u t x.ctx c f rf r)
        | _, _, _ => s
  | _, _ => s

def execClosingPass (u : Fin 64) (upset : W64) (s : State) : Out := .next (s.closingPass u.val upset)

/-! ### ROUGHING_RUN (R191, R192) -/

/-- Slots that a run of bytes touches. -/
def byteSlots (a n : Nat) : List Nat := if n = 0 then [] else (List.range ((a + n - 1) / slotBytes - a / slotBytes + 1)).map (a / slotBytes + ·)

/-- Mark the first un-roughed pass with a stage. -/
def markRoughed : List PassEntry → List PassEntry
  | [] => []
  | p :: t => if p.rent ≠ 0 && !p.roughed then { p with roughed := true } :: t else p :: markRoughed t

/-- R202: a stopped roughing run: its pass never issues. -/
def State.stopRough (s : State) (u : Nat) (p : PassEntry) (r : CodeR) : State :=
  let s := s.modMu u (fun m => { m with rough := {} })
  match r with
  | .fault c => s.abortLaunch p.launch { cause := c, iaddr := p.iaddr, ino := p.ino }
  | .sram d k idx sy => (s.sramRaise p.launch d k idx sy).abortWith p.launch 0x20 p.iaddr p.ino
  | _ => s

/-- R191: a roughing run: its stage, the pass's table, and the absolute byte addresses of its source region, its output
region and the scales it writes. -/
structure RoughJob where
  e : StageE
  t : LTab
  srcAt : Nat
  dstAt : Nat
  scAt : Nat

/-- A pass's roughing job on an image whose slots begin at `base`. -/
def roughJob (e : StageE) (t : LTab) (base : Nat) : RoughJob :=
  { e, t, srcAt := slotBytes * base + slotBytes * e.srco
    dstAt := slotBytes * base + (if e.rstr then t.baseb else t.basea)
    scAt := slotBytes * base + (if e.rstr then t.basesb else t.basesa) }

/-- The element type of the output region, and the scale format. -/
def RoughJob.et (j : RoughJob) : Nat := if j.e.rstr then j.t.etb else j.t.eta
def RoughJob.sf (j : RoughJob) : Nat := if j.e.rstr then j.t.sfb else j.t.sfa

/-- Bytes of `k` strips of the source region, of the output region, of the scales. -/
def RoughJob.srcN (j : RoughJob) (k : Nat) : Nat := bytesOf j.e.stype (512 * k)
def RoughJob.dstN (j : RoughJob) (k : Nat) : Nat := bytesOf j.et (512 * k)
def RoughJob.scN (j : RoughJob) (k : Nat) : Nat := if j.t.scaled then 512 * k / j.t.g else 0

def RoughJob.srcSlots (j : RoughJob) : List Nat := byteSlots j.srcAt (j.srcN j.e.nst)
def RoughJob.outSlots (j : RoughJob) : List Nat :=
  (byteSlots j.dstAt (j.dstN j.e.nst) ++ byteSlots j.scAt (j.scN j.e.nst)).eraseDups

/-- A slot's part of a region of `all` bytes at `at'` lies within its first `some'` bytes. -/
def throughSlot (k at' all some' : Nat) : Bool :=
  min (at' + all) ((k + 1) * slotBytes) ≤ at' + some' || at' + all ≤ k * slotBytes

/-- Output slots whose last byte strip k writes, and source slots whose last element it reads. -/
def RoughJob.full (j : RoughJob) (k : Nat) : List Nat :=
  let upTo (k q : Nat) : Bool :=
    throughSlot q j.dstAt (j.dstN j.e.nst) (j.dstN k) && throughSlot q j.scAt (j.scN j.e.nst) (j.scN k)
  j.outSlots.filter (fun q => upTo (k + 1) q && !upTo k q)
def RoughJob.spent (j : RoughJob) (k : Nat) : List Nat :=
  let upTo (k q : Nat) : Bool := throughSlot q j.srcAt (j.srcN j.e.nst) (j.srcN k)
  if j.e.rrel then j.srcSlots.filter (fun q => upTo (k + 1) q && !upTo k q) else []

/-- Table 7.2, roughing body: a strip is read, and the source slots it ends lose their tokens. -/
def State.roughLoad (u : Nat) (j : RoughJob) (k : Nat) (s : State) (r : StageRun) : State × StripR :=
  match s.feedRead u (j.srcAt + j.srcN k) (j.srcN 1) with
  | (s, .ok, bs) =>
    let b := r.bank.sset 0 (BitVec.ofNat 64 k)
    let b := b.vset 0 ((elemsOf j.e.stype 512 bs).map (loadLane j.e.stype))
    let b := b.vset 1 ((List.range 512).map (fun l => BitVec.ofNat 32 (512 * k + l)))
    (s.modMu u (fun m => m.drop (j.spent k)), .done { r with bank := (b.vset 2 zeroLanes).qset 0 (List.replicate 512 true) })
  | (s, e, _) => (s, wordR e)

/-- The codes and scale bytes of a strip's values. -/
def RoughJob.codes (j : RoughJob) (v0 : Lanes) : List Nat × List Nat :=
  let vals := v0.map (laneValue (isInt j.e.stype))
  if j.t.scaled then
    let qs := (chunks j.t.g vals).map (fun b => quantBlock j.sf j.et 0 (b.map (fun x => (x, 0))))
    (qs.flatMap (fun q => q.2.1), qs.map (·.1))
  else (vals.map (fun x => (cvtTo j.et (rmode j.e.crm 0) j.e.covf ⟨x, false⟩).1), [])

/-- A strip is written; the slots whose last byte it writes become present. -/
def State.roughOut (u : Nat) (j : RoughJob) (k : Nat) (s : State) (r : StageRun) : State × StripR :=
  let out := j.codes (r.bank.vget 0)
  match s.feedPut u (j.dstAt + j.dstN k) (packElems j.et out.1) with
  | (s, .ok) =>
    match (if j.t.scaled then s.feedPut u (j.scAt + j.scN k) (out.2.map (BitVec.ofNat 8)) else (s, .ok)) with
    | (s, .ok) => (s.modMu u (fun m => (j.full k).foldl (fun (m : MUnit) q => m.setToks q 1 true) m), .done r)
    | (s, e) => (s, wordR e)
  | (s, e) => (s, wordR e)

/-- The strips of a roughing run from where it stands. -/
def State.roughStrips (s : State) (u : Nat) (v : StageEnv) (j : RoughJob) (body : List Instr) (r : StageRun) : State × StripR :=
  State.strips (fun k => State.strip (State.roughLoad u j k) (State.roughOut u j k) v body)
    ((List.range j.e.nst).drop r.done) s r

/-- R191: the run of the oldest pass that names a roughing stage and has not been served begins, or goes on. -/
def State.roughingRun (s : State) (u : Nat) (upset : W64) : State :=
  match (s.mu u).passQ.find? (fun p => p.rent ≠ 0 && !p.roughed) with
  | none => s
  | some p =>
    if upset ≠ 0 then s.seqFault u p.launch p.iaddr p.ino
    else
      match (s.launches.find p.launch).bind (fun x => (s.ctxs.find x.ctx).bind (fun c =>
          (c.progs.find p.prog).map (fun g => (c, g)))) with
      | none => s
      | some (c, g) =>
        match imgStage g.image p.rent with
        | none => s
        | some e =>
          let j := roughJob e p.t g.base
          let m := s.mu u
          if !m.rough.on && (!(j.srcSlots.all m.tok) || j.outSlots.any m.tok) then s
          else
            let v : StageEnv :=
              { u, base := g.base, slots := g.image.slots, src := { params := p.latch.params, seed := c.seed } }
            match s.roughStrips u v j ((e.body ((zprog g.image.code).getD [])).getD []) (m.rough.begin p.latch) with
            | (s, .done _) => s.modMu u (fun m => { m with rough := {}, passQ := markRoughed m.passQ })
            | (s, .wait r) => s.modMu u (fun m => { m with rough := r })
            | (s, .code q) => s.stopRough u p q
            | (s, .acc _) => s

def execRoughingRun (u : Fin 64) (upset : W64) (s : State) : Out := .next (s.roughingRun u.val upset)

end Sys2Proof.Machine
end

