-- ==== Sys2Proof/Machine/Descs.lean ====
section
/-! DEFINITION. Descriptor items (04 R104 to R110, R114): the creation checks of Table 4.3, destruction, status. An item's
effect answers none where what it waits for has not come (log 22). -/
namespace Sys2Proof.Machine

/-- The context of a queue, with its number. -/
def State.queueCtx (s : State) (q : Nat) : Option (Nat × Ctx) :=
  (s.queues.find q).bind (fun x => x.ctx.bind (fun c => (s.ctxs.find c).map (fun k => (c, k))))

/-! ### Checks of Table 4.3, in table order -/

/-- 0x02. -/
def DescF.typeOk (f : DescF) : Bool :=
  (if f.kind = 1 then f.etype == 0 else f.etype ≤ 10) && 1 ≤ f.rank && f.rank ≤ 8 &&
    (f.rawSizes.drop f.rank).all (· == 0) && (f.rawStrides.drop f.rank).all (· == 0)

/-- 0x03. -/
def DescF.sizesOk (f : DescF) : Bool := f.sizes.all (· ≥ 1) && prod f.sizes ≤ 2 ^ 48

/-- A live allocation of a context. -/
def Ctx.alloc (c : Ctx) (h : Nat) : Option Alloc := c.allocs.find h

/-- A live scale array of a context. -/
def Ctx.scaleArray (c : Ctx) (h : Nat) : Option DescF :=
  (c.desc h).bind (fun d => let g := descOf d.image; if g.kind = 1 then some g else none)

/-- 0x04. -/
def DescF.handlesOk (f : DescF) (c : Ctx) : Bool :=
  (c.alloc f.alloc).isSome && (f.sdesc == 0 || (c.scaleArray f.sdesc).isSome)

/-- 0x05: RMODE, OVF (02 R68), USE, IMODE. -/
def DescF.modesOk (f : DescF) : Bool :=
  f.rmode ≤ 2 && (!f.ovf || (f.kind == 0 && 1 ≤ f.etype && f.etype ≤ 4)) && f.use != 0 &&
    (f.imode == 0 || (f.kind == 0 && f.etype == 10))

/-- 0x06: 02 R52, R105. -/
def DescF.scalingOk (f : DescF) (c : Ctx) : Bool :=
  if f.kind = 1 then
    (f.sfmt == 1 || f.sfmt == 2) && f.gs == 0 && f.sdim == 0 && f.imode == 0 && f.wmode == 0 && !f.ovf &&
      f.rmode == 0 && f.sdesc == 0
  else if f.sfmt = 0 then f.gs == 0 && f.sdim == 0 && (f.sdesc == 0 || (3 ≤ f.etype && f.etype ≤ 9))
  else
    (f.sfmt == 1 || f.sfmt == 2) && 3 ≤ f.etype && f.etype ≤ 9 && f.sdim < f.rank &&
      (match c.scaleArray f.sdesc with
        | some g =>
          g.sfmt == f.sfmt && g.rank == f.rank &&
            g.sizes == f.sizes.set f.sdim (cdiv (f.sizes.getD f.sdim 0) f.g)
        | none => false)

/-- 0x07: alignment, and 02 R47 for packed types. -/
def DescF.packOk (f : DescF) : Bool :=
  if f.kind = 1 then true
  else if isPacked f.etype then
    let m : Int := if isFp6 f.etype then 4 else 2
    f.strides.getLastD 0 == 1 && f.strides.dropLast.all (fun x => x % m == 0)
  else f.base % (etBits f.etype / 8) == 0

/-- 0x08: R107. -/
def DescF.rangeOk (f : DescF) (c : Ctx) : Bool :=
  match c.alloc f.alloc with
  | some a => (a.va : Int) ≤ f.span.1 && f.span.2 ≤ (a.va : Int) + a.size - 1
  | none => false

/-- 0x09: R109. -/
def DescF.writeOk (f : DescF) : Bool :=
  f.wmode != 3 && (!(f.use == 1 || f.kind == 1) || f.wmode == 0) &&
    (!bit f.use 1 || f.isInj || f.wmode == 1 || f.wmode == 2) &&
    (f.wmode != 2 || f.etype == 0 || f.etype == 1 || f.etype == 2 || f.etype == 10) &&
    (f.wmode == 0 || !isPacked f.etype)

/-- R106: the code of the first check that fails, 0 when all pass. -/
def descCode (c : Ctx) (im : BitVec 1024) : Nat :=
  let f := descOf im
  if f.rsv != 0 || f.valid || f.inj then 1
  else if !f.typeOk then 2
  else if !f.sizesOk then 3
  else if !f.handlesOk c then 4
  else if !f.modesOk then 5
  else if !f.scalingOk c then 6
  else if !f.packOk then 7
  else if !f.rangeOk c then 8
  else if !f.writeOk then 9
  else if c.descs.length ≥ 65535 then 10
  else 0

/-- The table copy: VALID and INJ set (Table 4.2). -/
def descCopy (im : BitVec 1024) : BitVec 1024 :=
  BitVec.ofNat 1024 (im.toNat ||| 2 ^ 23 ||| (if (descOf im).isInj then 2 ^ 22 else 0))

/-! ### What still references a descriptor (R114) -/

def MoveKind.names : MoveKind → List Nat
  | .box _ a b _ _ _ _ _ => [a, b]
  | .gather a b c _ => [a, b, c]
  | .scatter a b c _ _ => [a, b, c]

/-- Handles held by the work of a unit. -/
def MUnit.names (m : MUnit) : List (Nat × List Nat) :=
  let d (e : DrainEntry) := (e.launch, [e.latch.dst, e.latch.recH])
  m.drainQ.map d ++ (m.passQ ++ m.arr).flatMap (fun p => (p.drain.map d).toList) ++
    (m.shadow.toList ++ m.fin ++ m.closing.toList).map (fun t => d t.drain)

/-- Source descriptors of the encodes under way, of frames that are ready and of the one in progress (15 Tables 15.4,
15.5: SRCF not 0, SRC bits [15:0]). -/
def State.frameNames (s : State) (ctx : Nat) : List Nat :=
  let src (q id : Nat) : List Nat :=
    match (s.item q id).map QItem.body with
    | some (.codecFrame p) => [bits p.toNat 79 64]
    | _ => []
  s.codecs.flatMap (fun e => e.2.streams.flatMap (fun x =>
    if x.2.ctx == ctx && bits x.2.srec.toNat 63 62 == 1 && bits x.2.srec.toNat 315 314 != 0 then
      x.2.ready.flatMap (fun r => src r.1 r.2.1) ++
        (match e.2.cur with
          | some fr => if fr.stream == x.1 then src fr.queue fr.item else []
          | none => [])
    else []))

/-- Operations of a context still hold a handle; skim records, Spindle jobs and codec frames hold theirs too. -/
def State.descNamed (s : State) (ctx h : Nat) : Bool :=
  let mine (l : Nat) := ((s.launches.find l).map (·.ctx)) == some ctx
  s.moves.any (fun e => mine e.2.launch && e.2.kind.names.contains h) ||
    s.mus.any (fun e => e.2.names.any (fun n => mine n.1 && n.2.contains h)) ||
    s.spin.any (fun e => e.2.any (fun j => j.ctx == ctx &&
      [bits j.job.toNat 63 48, bits j.job.toNat 47 32, bits j.job.toNat 31 16, bits j.job.toNat 15 0].contains h)) ||
    s.mus.any (fun e => (e.2.arr ++ e.2.shadow.toList.map (·.pass)).any (fun p =>
      match p.skim with
      | some k => k.ctx == ctx &&
        (match (s.ctxs.find ctx).bind (fun c => c.skims.find k.recH) with
          | some r => bits r.image.toNat 63 48 == h || bits r.image.toNat 47 32 == h
          | none => false)
      | none => false)) ||
    (s.frameNames ctx).contains h

/-- A handle is held by an operation, or is the scale array of a descriptor that one holds. -/
def State.descHeld (s : State) (ctx h : Nat) : Bool :=
  s.descNamed ctx h ||
    (((s.ctxs.find ctx).map (·.descs)).getD []).any (fun e =>
      (descOf e.2.image).kind == 0 && (descOf e.2.image).sdesc == h && h != 0 && s.descNamed ctx e.1)

/-- Free the entries of destroyed descriptors that nothing references any longer. -/
def State.sweepDescs (s : State) (ctx : Nat) : State :=
  s.modCtx ctx (fun c => { c with descs := c.descs.filter (fun e => !e.2.dead || s.descHeld ctx e.1) })

/-! ### Effects -/

/-- DESC-CREATE: the handle, or the code of the failing check. -/
def State.effDescCreate (s : State) (q id : Nat) (im : BitVec 1024) : Option State :=
  match s.queueCtx q with
  | none => some (s.refuseItem q id 0x62)
  | some (ctx, _) =>
    let s := s.sweepDescs ctx
    let c := (s.ctxs.find ctx).getD { part := 0, fsr := [], slices := [], slotBase := [], saveAreas := [] }
    match descCode c im, c.descs.free 1 65535 with
    | 0, some h =>
      some ((s.modCtx ctx (fun c => { c with descs := c.descs.put h { image := descCopy im } })).doneItem q id
        (BitVec.ofNat 64 h))
    | 0, none => some (s.refuseItem q id 10)
    | k, _ => some (s.refuseItem q id k)

/-- A scale array that a live value descriptor names. -/
def Ctx.scaleNamed (c : Ctx) (h : Nat) : Bool :=
  c.descs.any (fun e => !e.2.dead && (descOf e.2.image).kind == 0 && (descOf e.2.image).sdesc == h)

/-- DESC-DESTROY: the handle is no longer accepted; its entry is freed when its last operation retires. -/
def State.effDescDestroy (s : State) (q id h : Nat) : Option State :=
  match s.queueCtx q with
  | none => some (s.refuseItem q id 0x62)
  | some (ctx, c) =>
    match c.desc h with
    | none => some (s.refuseItem q id 0x62)
    | some _ =>
      if c.scaleNamed h then some (s.refuseItem q id 0x67)
      else
        let s := s.modCtx ctx (fun c => { c with descs := c.descs.upd h (fun d => { d with dead := true }) })
        some ((s.sweepDescs ctx).doneItem q id 0)

/-- DESC-STATUS: the status word; a read that requests clearing sets it to zero (R110). -/
def State.effDescStatus (s : State) (q id h : Nat) (clear : Bool) : Option State :=
  match s.queueCtx q with
  | none => some (s.refuseItem q id 0x62)
  | some (ctx, c) =>
    match c.desc h with
    | none => some (s.refuseItem q id 0x62)
    | some d =>
      let s := if clear then
          s.modCtx ctx (fun c => { c with descs := c.descs.upd h (fun d => { d with status := 0 }) })
        else s
      some (s.doneItem q id d.status)

end Sys2Proof.Machine
end

