-- ==== Sys2Proof/Machine/Random.lean ====
section
/-! DEFINITION. Seed slots and the jump mode as items (11 R277, R283, R285): RNG-SEED and RNG-JUMP. -/
namespace Sys2Proof.Machine

/-- RNG-SEED. -/
def State.effRngSeed (s : State) (q id slot : Nat) (v : BitVec 96) (rsv : Nat) : Option State :=
  match s.queueCtx q with
  | none => some (s.refuseItem q id 0x62)
  | some (ctx, _) =>
    if slot > 15 || rsv ≠ 0 then some (s.refuseItem q id 0x51)
    else some ((s.modCtx ctx (fun c => { c with seeds := c.seeds.put slot v })).doneItem q id 0)

/-- A unit present and in service. -/
def State.unitInService (s : State) (u : Nat) : Bool :=
  let d := s.die (unitDie u)
  u < 64 && d.present && !d.failed && (s.mu u).state == 0

/-- R283: the jump state of the masked units. -/
def Ctx.rngJump (c : Ctx) (slot : Nat) (stream : W32) (mask : W64) (units : List Nat) : Ctx :=
  let v := c.seed slot
  { c with jumpOp := some (slot, stream, mask),
           jump := units.foldl (fun t u => t.put u (jumpUnit v stream u)) c.jump }

/-- RNG-JUMP waits until no launch of the context runs on a masked unit. -/
def State.effRngJump (s : State) (q id slot : Nat) (stream : W32) (mask : W64) (rsv : Nat) : Option State :=
  match s.queueCtx q with
  | none => some (s.refuseItem q id 0x62)
  | some (ctx, _) =>
    let units := (List.range 64).filter (fun u => flag mask u && s.unitInService u)
    if slot > 15 || rsv ≠ 0 then some (s.refuseItem q id 0x51)
    else if units.isEmpty then some (s.refuseItem q id 0x52)
    else if s.launches.any (fun e => e.2.ctx == ctx && units.any (fun u => e.2.st == .running u)) then none
    else some ((s.modCtx ctx (fun c => c.rngJump slot stream mask units)).doneItem q id 0)

/-- R285: a started RNG-JUMP of the context that has not ended keeps new launches off a unit it names. -/
def State.jumpHolds (s : State) (ctx u : Nat) : Bool :=
  s.queues.any (fun e => e.2.ctx == some ctx && e.2.items.any (fun i => i.st == .started &&
    (match i.body with | .rngJump _ _ mask _ => flag mask u | _ => false)))

end Sys2Proof.Machine
end

