-- ==== Sys2Proof/Machine/Sched.lean ====
section
/-! DEFINITION. The die dispatchers (13 R325, R326; 14 R341 to R344, R350): DISPATCH and URGENT_PROMOTION. -/
namespace Sys2Proof.Machine

/-! ### Host shares (14 R350) -/

/-- Energy accounted to a partition over the last 100 ms. -/
def Gov.shareOf (g : Gov) (p : Nat) : Nat := sumN (g.shareWin.map (fun t => t.2.get 0 p))

/-- R350: how far a partition is below its share. -/
def State.deficit (s : State) (p : Nat) : Rat :=
  let sh := s.cfg 0x3011 (p + 1)
  if sh = 0 then -1
  else
    let all := sumN ((List.range 8).map s.gov.shareOf)
    (sh : Rat) / 100 - (if all = 0 then 0 else (s.gov.shareOf p : Rat) / (all : Rat))

/-! ### Credit (14 R341) -/

/-- A die's credit in uJ: what its last gate period left, less the debits that stand (in nJ). -/
def Die.creditNow (d : Die) : Rat := d.credit - (sumN (d.debits.map (·.energy)) : Rat) / 1000

/-! ### The order of R325 -/

/-- Ready work at a dispatch point. `lead` is its lead estimate in nJ. -/
structure Cand where
  key : Nat
  lc : Bool
  level : Nat
  urgent : Bool
  since : W64
  part : Nat
  lead : Nat
deriving DecidableEq, Repr

def olderLC (a b : Cand) : Bool := a.level > b.level || (a.level == b.level && a.since < b.since)
def older (a b : Cand) : Bool := a.since < b.since

/-- 14 R343, 20 R467: whether a candidate may be dispatched on a die now: best-effort work that is not urgent must fit its
credit, and a die in sensor fault takes latency-critical work only. -/
def State.candFits (s : State) (d : Nat) (c : Cand) : Bool :=
  c.lc || (!(s.die d).sensorFault && (c.urgent || (s.die d).creditNow * 1000 ≥ (c.lead : Rat)))

/-- R325, with the fit test of R343 and the rule of a die in sensor fault (20 R467): the work picked, the counter
after it, and whether a parting point is requested at dispatch. -/
def State.pick (s : State) (d : Nat) (cs : List Cand) : Option (Cand × Nat × Bool) :=
  let x := s.die d
  let lc := bestBy olderLC (cs.filter (·.lc))
  let ur := bestBy older (cs.filter (fun c => !c.lc && c.urgent && !x.sensorFault))
  let fits := cs.filter (fun c => !c.lc && !c.urgent && s.candFits d c)
  let below (a b : Cand) : Bool :=
    if a.part = b.part then older a b
    else if s.deficit a.part = s.deficit b.part then a.part < b.part
    else s.deficit b.part < s.deficit a.part
  let be := bestBy below fits
  match lc, ur, be with
  | none, some u, _ => some (u, x.lcrun, false)
  | none, none, some b => some (b, x.lcrun, false)
  | none, none, none => none
  | some l, some u, _ => if x.lcrun ≥ 7 then some (u, 0, true) else some (l, min (x.lcrun + 1) 7, false)
  | some l, none, _ => some (l, min (x.lcrun + 1) 7, false)

/-! ### Launches ready on a die (13 Classes and dispatch) -/

/-- A die whose dispatcher takes new work: in service, in L0, not under a thermal hold (14 Table 14.2), and with no slice
mask being applied (12 Table 12.3). -/
def State.dieDispatches (s : State) (d : Nat) : Bool :=
  s.runs && s.dieTakes d && s.gov.ladder == 0 && !(s.die d).hold && !(s.die d).masking

/-- Free pairs of a die. -/
def State.freePairs (s : State) (d : Nat) : List Nat :=
  (unitsOf d).filter (fun u => (s.pair u).launch.isNone && !(s.pair u).stopped && (s.mu u).state == 0)

/-- A CTX-SAVE of a context is under way. -/
def State.saving (s : State) (c : Nat) : Bool :=
  s.queues.any (fun e => e.2.items.any (fun i => i.st == .started &&
    (match i.body with | .ctxSave k _ => k == c | _ => false)))

/-- Units of a die a launch may run on. -/
def State.mayUse (s : State) (d : Nat) (x : Launch) : List Nat :=
  let units := match x.pin with
    | some u => if unitDie u = d then [u] else []
    | none => if x.dies.contains d then unitsOf d else []
  units.filter (fun u => !s.jumpHolds x.ctx u)

/-- A launch waits on a die: never dispatched, or handed over there. -/
def Launch.waitsOn (x : Launch) (d : Nat) : Bool :=
  match x.st with
  | .fresh => x.dies.contains d
  | .parked e _ _ _ _ => e == d
  | _ => false

/-- The point a launch starts or resumes from. -/
def Launch.point (x : Launch) : Nat :=
  match x.st with
  | .parked _ _ _ _ pc => pc
  | _ => 0

/-- R342: the lead class of a launch. -/
def State.leadOf (s : State) (x : Launch) : Option Nat :=
  match (s.ctxs.find x.ctx).bind (fun c => c.progs.find x.prog) with
  | some g => leadClass g.image ((zprog g.image.code).getD []) x.point
  | none => none

def State.leadEstimate (s : State) (d : Nat) (x : Launch) : Nat :=
  match s.leadOf x with
  | some k => (s.estimate d x.ctx x.prog k).2
  | none => 0

/-- Launches that would be ready on a die if a pair were free. -/
def State.waitingOn (s : State) (d : Nat) : List (Nat × Launch) :=
  s.launches.filter (fun e => e.2.waitsOn d && e.2.why.isEmpty && !s.saving e.2.ctx &&
    !(((s.ctxs.find e.2.ctx).map (·.notRestorable)).getD true) && !(s.mayUse d e.2).isEmpty)

def State.candOf (s : State) (d : Nat) (e : Nat × Launch) : Cand :=
  { key := e.1, lc := e.2.lc, level := e.2.level, urgent := e.2.urgent, since := e.2.startedAt,
    part := ((s.ctxs.find e.2.ctx).map (·.part)).getD 0, lead := s.leadEstimate d e.2 }

/-- Ready launches: a free pair exists that the pin allows. -/
def State.readyOn (s : State) (d : Nat) : List Cand :=
  let free := s.freePairs d
  ((s.waitingOn d).filter (fun e => (s.mayUse d e.2).any free.contains)).map (s.candOf d)

/-! ### Dispatching one launch -/

/-- R344: the free pair whose unit is coolest; a pinned launch takes its own. -/
def coolest (temps : List Int) (us : List Nat) : Option Nat :=
  bestBy (fun a b => temps.getD (a % 16) 0 < temps.getD (b % 16) 0) us

/-- Put a launch on a pair: zeroed registers for one never dispatched (05 R130), saved ones for one that resumes. -/
def State.runOn (s : State) (l u : Nat) (x : Launch) (ask : Bool) : State :=
  let d := unitDie u
  let lanes := (((s.ctxs.find x.ctx).bind (fun c => c.progs.find x.prog)).map (·.lanes)).getD false
  let debit : List Debit := match s.leadOf x with
    | some k => [⟨1, l, k, (s.estimate d x.ctx x.prog k).2⟩]
    | none => []
  let s := s.modPair u (fun p =>
    let p := { p with launch := some l, pend := [], parted := false }
    match x.st with
    | .parked _ r t run pc => { p with bank := { p.bank with s := r }, l := t, lRun := run, pc }
    | _ => { p with bank := {}, l := [], lRun := [], pc := 0, token := 0 })
  let s := s.rewriteIstore u
  let s := s.modDie d (fun y => { y with debits := y.debits ++ debit })
  let s := s.modCtx x.ctx (fun c => { c with laneFlag := c.laneFlag || lanes })
  { s with
    nextDispatch := s.nextDispatch + 1
    launches := s.launches.put l { x with
      st := .running u, unit := u, dispatchNo := s.nextDispatch, dispatchedAt := s.clock.refc
      why := if ask then [.urgent] else [] } }

/-- R337: a disable whose scope meets the contexts to be evicted from a die, or the die. -/
def State.holdsEviction (s : State) (others : List Nat) (d : Nat) : Scope → Bool
  | .queue q => (((s.queues.find q).bind (·.ctx)).map others.contains).getD false
  | .ctx k => others.contains k
  | .die e => e == d
  | .codec _ => false

/-- R314: the way of a chosen launch's context is clear on a die; if not, its running work is asked to part. -/
def State.clearWay (s : State) (c d : Nat) (lc : Bool) : State × Bool :=
  let others := s.inWay c d
  let busy := others.flatMap (fun k => s.workOn k d)
  if !busy.isEmpty then
    let ask (x : Launch) : Launch := match x.st with
      | .running _ => { x with why := if x.why.contains .evict then x.why else x.why ++ [.evict] }
      | _ => x
    (busy.foldl (fun s l => s.modLaunch l ask) s, false)
  else if !others.isEmpty && s.disables.any (fun e => s.holdsEviction others d e.2.scope) then (s, false)
  else
    -- 14 R351: saving and restoring footprints is the work of the context whose dispatch causes it
    let s := if others.isEmpty && ((s.ctxs.find c).map (·.resident.contains d)).getD true then s else s.noteWork d c lc
    ((others.foldl (fun s k => s.evict k d) s).makeResident c d, true)

/-- The work of a dispatch point: the launch chosen before, while the way of its context is cleared (R314), it is still ready
and it fits, else the pick of R325. -/
def State.choice (s : State) (d : Nat) : Option (Cand × Nat × Bool) :=
  match (s.die d).chosen.bind (fun k => ((s.readyOn d).find? (fun c => c.key == k.1 && s.candFits d c)).map (fun c => (c, k.2))) with
  | some (c, ask) => some (c, (s.die d).lcrun, ask)
  | none => s.pick d (s.readyOn d)

/-- Run a launch whose way is clear on the coolest pair it may use. -/
def State.dispatchTo (s : State) (d : Nat) (temps : List Int) (c : Cand) (run : Nat) (ask : Bool) : State :=
  match s.launches.find c.key with
  | none => s
  | some x =>
    match coolest temps ((s.mayUse d x).filter (s.freePairs d).contains) with
    | some u => (s.modDie d (fun y => { y with lcrun := run, chosen := none })).runOn c.key u x ask
    | none => s

/-- While the way of a chosen launch's context is cleared, other ready work goes on where its footprint meets neither the
chosen one's nor another that is resident (log 79). -/
def State.dispatchBeside (s : State) (d : Nat) (temps : List Int) (ctx : Nat) : State :=
  let apart (c : Cand) : Bool :=
    match s.launches.find c.key with
    | some x => x.ctx != ctx && (s.inWay x.ctx d).isEmpty &&
        (match s.ctxs.find x.ctx, s.ctxs.find ctx with
         | some a, some b => !a.overlapsOn b d
         | _, _ => false)
    | none => false
  match s.pick d ((s.readyOn d).filter apart) with
  | none => s
  | some (c, run, ask) =>
    match s.launches.find c.key with
    | none => s
    | some x =>
      let held := (s.die d).chosen
      ((s.clearWay x.ctx d x.lc).1.dispatchTo d temps c run ask).modDie d (fun y => { y with chosen := held })

/-- Dispatch one launch of the ready work of a die, if any. -/
def State.dispatchOne (s : State) (d : Nat) (temps : List Int) : State :=
  match s.choice d with
  | none => s
  | some (c, run, ask) =>
    match s.launches.find c.key with
    | none => s
    | some x =>
      match s.clearWay x.ctx d x.lc with
      | (s, false) =>
        (s.modDie d (fun y => { y with lcrun := run, chosen := some (c.key, ask) })).dispatchBeside d temps x.ctx
      | (s, true) => s.dispatchTo d temps c run ask

/-! ### Pre-emption requests (13 R326) -/

/-- Rank of a launch: best effort, urgent, then the latency-critical levels. -/
def Launch.rank (x : Launch) : Nat := if x.lc then 2 + x.level else if x.urgent then 1 else 0

/-- Running launches of a die. -/
def State.runningOn (s : State) (d : Nat) : List (Nat × Launch) :=
  s.launches.filter (fun e => match e.2.st with | .running u => unitDie u == d | _ => false)

/-- A request made for an item is still open, on whichever die. -/
def State.asked (s : State) (q id : Nat) : Bool :=
  s.launches.any (fun e => e.2.reqBy == some (q, id) && (match e.2.st with | .running _ => true | _ => false))

/-- One waiting latency-critical launch asks for at most one parting point for its item. -/
def State.requestFor (s : State) (d : Nat) (c : Cand) : State :=
  match s.launches.find c.key with
  | none => s
  | some x =>
    let run := s.runningOn d
    if (s.mayUse d x).any (s.freePairs d).contains || s.asked x.queue x.item then s
    else
      let below := run.filter (fun e => e.2.rank < x.rank && e.2.why.isEmpty)
      let lower (a b : Nat × Launch) : Bool :=
        a.2.rank < b.2.rank || (a.2.rank == b.2.rank && a.2.dispatchNo > b.2.dispatchNo)
      match bestBy lower below with
      | some v => s.modLaunch v.1 (fun y => { y with why := [.preempt], reqBy := some (x.queue, x.item) })
      | none => s

/-- R326 over the waiting work of a die, highest level first. -/
def State.requests (s : State) (d : Nat) : State :=
  let cs := sortBy olderLC (((s.waitingOn d).map (s.candOf d)).filter (·.lc))
  cs.foldl (fun s c => s.requestFor d c) s

/-- DISPATCH: one dispatch point of a die; `temps` are the junction readings of its units. -/
def execDispatch (d : Fin 4) (temps : List Int) (s : State) : Out :=
  .next (if s.dieDispatches d.val then (s.dispatchOne d.val temps).requests d.val else s)

/-! ### The urgent band -/

/-- URGENT_PROMOTION (13 R325). -/
def execUrgentPromotion (l : Nat) (s : State) : Out :=
  .next (s.modLaunch l (fun x =>
    if !x.lc && x.st != .ending && x.st != .done && s.now - x.startedAt.toNat > x.age then { x with urgent := true }
    else x))

end Sys2Proof.Machine
end

