-- ==== Sys2Proof/Machine/Batches.lean ====
section
/-! DEFINITION. Batch passes (03 R91 to R94): the members a queue gathers, the pass over those that fit, and the rows each
member gets back. -/
namespace Sys2Proof.Machine

/-! ### Gathering (R91, R93) -/

/-- Members in arrival order while their rows fit; a member that shares another B or bucket does not fit. -/
def gatherFit (op : BatchOp) : List Member → Nat → List Member
  | [], _ => []
  | m :: ms, room => if m.rows ≤ room && m.op == op then m :: gatherFit op ms (room - m.rows) else []

/-- R93: the members of the next pass. -/
def fitOf : List Member → List Member
  | [] => []
  | m :: ms => gatherFit m.op (m :: ms) 128

def rowsOf (ms : List Member) : Nat := sumN (ms.map (·.rows))

/-- R93, at most `fuel` passes. -/
def Queue.batch (q : Queue) : Nat → Queue
  | 0 => q
  | n + 1 =>
    match q.members with
    | [] => q
    | m :: _ =>
      let fit := fitOf q.members
      if rowsOf fit ≥ q.attrs.bt || fit.length < q.members.length || m.pulses ≥ q.attrs.bw then
        Queue.batch { q with members := q.members.drop fit.length, batches := q.batches ++ [fit] } n
      else q

/-! ### A batch pass (R91, R94) -/

/-- A stream of the operands a feed-store image holds. -/
def opStream (o : BatchOp) (bs : List Byte) : Stream3 :=
  { t := ltabOf o.tab, p := List.zip (List.range o.params.length) o.params, feed := Mem.write {} 0 bs, org := 0 }

/-- The rows of a pass that members fill, each with its member and its row there. -/
def batchRows (ms : List Member) : List (Member × Nat) := ms.flatMap (fun m => (List.range m.rows).map (fun j => (m, j)))

/-- R94: an element of A in a row of the pass; a row that no member fills is zero. -/
def batchA (ms : List Member) (i k : Nat) : Elem :=
  match (batchRows ms)[i]? with
  | some (m, j) => (opStream m.op m.a).aElem 0 j k
  | none => zeroElem

/-- R56: the cell of a row and a column after the groups of the pass; `a` is the row of A. -/
def opCell (o : BatchOp) (a : Nat → Elem) (j : Nat) : W32 :=
  let x := opStream o o.b
  (List.range x.groups).foldl (fun acc g =>
    let ps := (x.group g).map (fun k => (a k, x.bElem k j))
    (cellAdd x.t.intPass acc (groupValue (ps.length < x.t.g) ps none) (if x.t.intPass then intGroup ps else 0)).1)
    (if x.t.intPass then 0 else 0x80000000#32)

/-- Row i of the pass. -/
def batchRow (o : BatchOp) (ms : List Member) (i : Nat) : List W32 := (List.range 512).map (opCell o (batchA ms i))

/-- R94: what the drain lets out: the rows that members fill, each to its member. -/
def batchOut (o : BatchOp) (ms : List Member) (m : Member) : List (List W32) :=
  ((List.zip (List.range 128) (batchRows ms)).filter (fun e => e.2.1 == m)).map (fun e => batchRow o ms e.1)

/-- One batch pass over the members that fit. -/
def State.sendBatch (s : State) (q : Nat) (ms : List Member) : State :=
  ms.foldl (fun s m => s.send (.batchOut q m.id (batchOut m.op ms m))) s

/-- R93 on a queue: passes issue until the rule stops. -/
def State.runBatches (s : State) (q : Nat) : State :=
  match s.queues.find q with
  | none => s
  | some x =>
    let y := x.batch x.members.length
    (y.batches.drop x.batches.length).foldl (fun s ms => s.sendBatch q ms) (s.modQueue q (fun _ => y))

/-- R91: a member has 1 to 128 rows, and the pass the 128 x 512 shape. -/
def memberOk (rows : Nat) (o : BatchOp) : Bool := 1 ≤ rows && rows ≤ 128 && (ltabOf o.tab).ok && (ltabOf o.tab).fold == 0

/-- BATCH_MEMBER_ARRIVAL. -/
def execBatchMemberArrival (q : Nat) (member : BatchMember) (rows : BatchRows) (s : State) : Out :=
  .next (if memberOk rows.n member.op then
    (s.modQueue q (fun x => { x with
      members := x.members ++ [{ id := member.id, rows := rows.n, op := member.op, a := rows.a, pulses := 0 }] })).runBatches q
  else s)

/-- R92, R93: a gate pulse for every waiting member. -/
def State.batchPulse (s : State) : State :=
  (s.queues.filter (fun e => !e.2.members.isEmpty)).foldl (fun s e =>
    (s.modQueue e.1 (fun q => { q with members := q.members.map (fun m => { m with pulses := m.pulses + 1 }) })).runBatches e.1) s

end Sys2Proof.Machine
end

