-- ==== Sys2Proof/Machine/Kv.lean ====
section
/-! DEFINITION. The key-value store (08 R220 to R235): records and entries in memory, the prefix tree, and the effects of
the key-value items. -/
namespace Sys2Proof.Machine

/-! ### Accesses of the module's own units -/

/-- 20 R500, Table 20.6: an access for an item other than a launch failed: its record, and the item's end with STATUS 3
(log 27). -/
def State.failItem (s : State) (q id : Nat) (r : AccR) : State :=
  let ctx := (s.queueCtx q).map (·.1)
  let part := (s.queues.find q).map (·.part)
  match r with
  | .ok => s
  | .unmapped => s.finishItem q id 3 0x19 0
  | .hbm cls a =>
    let s := if cls = 2 then
        s.raise (s.hbmRecord 0x23 2 a part ctx (some q))
      else s
    s.finishItem q id 3 0x23 0
  | .sram d block idx synd =>
    (s.raise (sramRecord d block idx synd part ctx (some q))).finishItem q id 3 0x20 0

/-! ### Records and entries (R220 to R223) -/

/-- Bytes of an element of a record's type. -/
def KvRec.eb (k : KvRec) : Nat := if k.et = 1 then 2 else 1

/-- R220: the position size. -/
def KvRec.tokb (k : KvRec) : Nat := 2 * k.layers * k.heads * k.hdim * k.eb

/-- Positions of a page of size field `sz`. -/
def pagePos (sz : Nat) : Nat := 2 ^ (sz + 4)

def KvEntry.pos (e : KvEntry) : Nat := pagePos e.sz

/-- Table 8.7: the words of an entry. -/
def KvEntry.bytes (e : KvEntry) : List Byte :=
  natLe 8 ((if e.shared then 2 else 1) * 2 ^ 62 + e.sz * 2 ^ 58 + e.base) ++ natLe 8 (e.start * 2 ^ 32 + e.node)

/-- Virtual address of a record in its allocation, and of its entry array, which follows it (log 26). -/
def KvRec.va (k : KvRec) (c : Ctx) : Nat := ((c.allocs.find k.alloc).map (·.va)).getD 0 + k.off
def KvRec.table (k : KvRec) (c : Ctx) : Nat := k.va c + 64

/-- Table 8.6: the 64 bytes of a record. -/
def KvRec.bytes (k : KvRec) (c : Ctx) : List Byte :=
  [k.table c, k.len * 2 ^ 32 + k.limit, k.ring * 2 ^ 32 + k.entries.length, k.model.toNat,
   k.domain.toNat * 2 ^ 32 + k.part, k.last * 2 ^ 45 + k.sharedBlocks * 2 ^ 28,
   k.layers * 2 ^ 48 + k.heads * 2 ^ 32 + k.hdim * 2 ^ 16 + k.et * 2 ^ 8, 0].flatMap (natLe 8)

/-- Bytes the record and its entries take. -/
def KvRec.size (k : KvRec) : Nat := 64 + 16 * k.entries.length

/-- The context as the KDX sees it: its read-only mapping of a record's allocation does not bind the KDX. -/
def Ctx.unlocked (c : Ctx) (h : Nat) : Ctx :=
  { c with allocs := c.allocs.upd h (fun a => { a with locked := false, wr := true }) }

/-- Write a record and its entry array to memory and to the table. -/
def State.putRec (s : State) (h : Nat) (k : KvRec) : State :=
  let s := { s with kv := { s.kv with recs := s.kv.recs.put h k } }
  match s.ctxs.find k.ctx with
  | some c => (s.ctxWrite (c.unlocked k.alloc) (k.va c) (k.bytes c ++ k.entries.flatMap KvEntry.bytes)).1
  | none => s

/-- An open record of the submitting queue's context. -/
def State.kvRec (s : State) (ctx h : Nat) : Option KvRec :=
  match s.kv.recs.find h with
  | some k => if k.ctx == ctx && !k.closing then some k else none
  | none => none

/-- A virtual range inside one allocation of a context. -/
def Ctx.inAlloc (c : Ctx) (base n : Nat) : Bool :=
  c.allocs.any (fun e => e.2.va ≤ base && base + n ≤ e.2.va + e.2.size)

/-- A supplied entry: private, its reserved fields zero. -/
def entryOf (w : W64 × W64) : Option KvEntry :=
  if fld w.1 63 62 == 1 && fld w.1 61 58 ≤ 10 && fld w.1 57 48 == 0 && fld w.2 63 53 == 0 && fld w.2 31 0 == 0 then
    some { shared := false, sz := fld w.1 61 58, base := fld w.1 47 0, start := fld w.2 52 32 }
  else none

def entriesOf : List (W64 × W64) → Option (List KvEntry)
  | [] => some []
  | w :: ws =>
    match entryOf w, entriesOf ws with
    | some e, some es => some (e :: es)
    | _, _ => none

/-- One entry's own conditions (R221, R222). -/
def KvRec.entryOk (k : KvRec) (c : Ctx) (e : KvEntry) : Bool :=
  e.base % 256 == 0 && e.start % e.pos == 0 && c.inAlloc e.base (e.pos * k.tokb)

/-- R222: entries follow one another from `at'`; the end of the last. -/
def coverEnd (at' : Nat) : List KvEntry → Option Nat
  | [] => some at'
  | e :: es => if e.start = at' then coverEnd (at' + e.pos) es else none

/-- R222: the entries cover 0 to LEN - 1 rounded up to the end of the last page, or 0 to Wr - 1. -/
def KvRec.covered (k : KvRec) (len : Nat) : Bool :=
  match coverEnd 0 k.entries with
  | some n =>
    if k.ring ≠ 0 then n == k.ring
    else len ≤ n && (match k.entries.getLast? with | some e => e.start < len | none => len == 0)
  | none => false

/-! ### The prefix tree (R229 to R234) -/

def noNode : Nat := 0x7FFFF
def treeNodes : Nat := 262144

def KvSt.node (t : KvSt) (i : Nat) : Option KvNode := t.nodes.find i

/-- R229. -/
def KvRec.rootKey (k : KvRec) : W64 :=
  BitVec.ofNat 64 (leNat ((sha3_256 (natLe 2 k.part ++ [0, 0] ++ natLe 4 k.domain.toNat ++ natLe 8 k.model.toNat)).take 8))

def blockKey (prev : W64) (toks : List W32) : W64 :=
  BitVec.ofNat 64 (leNat ((sha3_256 (natLe 8 prev.toNat ++ toks.flatMap (fun t => natLe 4 t.toNat))).take 8))

/-- Keys of the blocks of a token list. -/
def keysFrom (prev : W64) : List (List W32) → List W64
  | [] => []
  | b :: bs => let k := blockKey prev b; k :: keysFrom k bs

/-- The chain of a bucket. -/
def KvSt.chain (t : KvSt) : Nat → Nat → List Nat
  | 0, _ => []
  | fuel + 1, i =>
    match t.node i with
    | some n => i :: KvSt.chain t fuel n.next
    | none => []

def bucketOf (key : W64) : Nat := fld key 18 0

/-- R231: the record's context can read a node's page: the page lies in one allocation of it, and where another context
published the node, the same memory stands behind the page in both (log 58). -/
def State.pageReadable (s : State) (k : KvRec) (c : Ctx) (n : KvNode) : Bool :=
  c.inAlloc n.base (pagePos n.sz * k.tokb) &&
    (n.ctx == k.ctx ||
      (match s.ctxs.find n.ctx with
       | some p => (p.walk n.base).map (·.1) == (c.walk n.base).map (·.1)
       | none => false))

/-- R231: the hit of a block, if any. -/
def State.kvHit (s : State) (k : KvRec) (c : Ctx) (key : W64) (parent : Nat) (toks : List W32) : Option (Nat × KvNode) :=
  (s.kv.chain (s.kv.nodes.length + 1) (s.kv.buckets.get noNode (bucketOf key))).findSome? (fun i =>
    match s.kv.node i with
    | some n =>
      if n.key == key && n.parent == parent && n.part == k.part && n.domain == k.domain && n.model == k.model &&
          n.toks == toks && s.pageReadable k c n then some (i, n)
      else none
    | none => none)

/-- The nodes of a record from its deepest attached one upwards, `n` of them. -/
def KvSt.up (t : KvSt) : Nat → Nat → List Nat
  | 0, _ => []
  | fuel + 1, i =>
    match t.node i with
    | some n => i :: KvSt.up t fuel n.parent
    | none => []

def KvSt.addRefs (t : KvSt) (is : List Nat) : KvSt :=
  { t with nodes := is.foldl (fun ns i => ns.upd i (fun n => { n with refs := n.refs + 1 })) t.nodes }

def KvSt.dropRefs (t : KvSt) (is : List Nat) : KvSt :=
  { t with nodes := is.foldl (fun ns i => ns.upd i (fun n => { n with refs := n.refs - 1 })) t.nodes }

/-- The order number of the next use (Table 8.10 AGE). -/
def KvSt.touch (t : KvSt) (i : Nat) : KvSt :=
  { t with age := t.age + 1, nodes := t.nodes.upd i (fun n => { n with age := t.age + 1 }) }

/-- Remove a node from its bucket's chain and from the tree. -/
def KvSt.remove (t : KvSt) (i : Nat) : KvSt :=
  match t.node i with
  | none => t
  | some n =>
    let b := bucketOf n.key
    let t := if t.buckets.get noNode b = i then { t with buckets := t.buckets.put b n.next }
      else { t with nodes := t.nodes.map (fun e => if e.2.next == i then (e.1, { e.2 with next := n.next }) else e) }
    { t with nodes := t.nodes.del i }

/-- R234: the node an insertion evicts: the smallest AGE with REFS 0 and no live child. `keep` is the parent of
the node to be inserted. -/
def KvSt.victim (t : KvSt) (keep : Nat) : Option Nat :=
  (bestBy (fun (a b : Nat × KvNode) => a.2.age < b.2.age)
    (t.nodes.filter (fun e => e.2.refs == 0 && e.1 != keep && !t.nodes.any (fun f => f.2.parent == e.1)))).map (·.1)

/-- The context whose page an entry of a record names: its own, or that of the node it came from. -/
def KvSt.pageCtx (t : KvSt) (r : KvRec) (x : KvEntry) : Nat :=
  if x.shared then ((t.node x.node).map (·.ctx)).getD r.ctx else r.ctx

/-- A live node or an open record's entry names a page of a context. -/
def KvSt.named (t : KvSt) (ctx base sz : Nat) : Bool :=
  t.nodes.any (fun e => e.2.ctx == ctx && e.2.base == base && e.2.sz == sz) ||
    t.recs.any (fun e => e.2.entries.any (fun x => t.pageCtx e.2 x == ctx && x.base == base && x.sz == sz))

/-- R234: report the pages that nothing names any longer. -/
def State.releasePages (s : State) : State :=
  let gone := s.kv.pages.filter (fun p => !s.kv.named p.2.2.1 p.1 p.2.1)
  let s := { s with kv := { s.kv with pages := s.kv.pages.filter (fun p => s.kv.named p.2.2.1 p.1 p.2.1) } }
  gone.foldl (fun s p => s.raise
    { cause := 0x48, die := 4, block := 46, part := some p.2.2.2, ctx := some p.2.2.1,
      detail := BitVec.ofNat 64 (p.1 % 2 ^ 48) }) s

/-! ### KV-OPEN -/

end Sys2Proof.Machine
namespace Sys2Proof
open Sys2Proof.Machine

/-- The record a KV-OPEN describes. -/
def KvOpenPl.record (p : KvOpenPl) (ctx part : Nat) (es : List KvEntry) : KvRec :=
  { ctx, part, alloc := p.alloc, off := p.off, limit := p.limit, ring := p.ring, model := p.model, domain := p.domain,
    layers := p.layers, heads := p.heads, hdim := p.hdim, et := p.et, entries := es }

end Sys2Proof
namespace Sys2Proof.Machine

/-- The record and its entries fit its allocation. -/
def KvRec.fits (k : KvRec) (c : Ctx) : Bool :=
  k.entries.length ≤ 65536 &&
    (match c.allocs.find k.alloc with | some a => k.off + k.size ≤ a.size | none => false)

/-- The fields of a new record (Table 8.6). -/
def KvRec.fieldsOk (k : KvRec) : Bool :=
  16 ≤ k.limit && k.limit ≤ 1048576 && k.ring % 16 == 0 && k.ring < 2 ^ 21 && 1 ≤ k.layers && k.layers ≤ 1024 &&
    1 ≤ k.heads && k.heads ≤ 256 && k.hdim % 16 == 0 && 16 ≤ k.hdim && k.hdim ≤ 128 &&
    (k.et == 1 || k.et == 3 || k.et == 4) && k.off % 16 == 0

def State.effKvOpen (s : State) (q id : Nat) (p : KvOpenPl) : Option State :=
  match s.queueCtx q, entriesOf p.entries with
  | none, _ => some (s.refuseItem q id 0x62)
  | some _, none => some (s.refuseItem q id 0x23)
  | some (ctx, c), some es =>
    let k := p.record ctx c.part es
    if !(k.fieldsOk && k.fits c && k.covered 0 && es.all (k.entryOk c)) then some (s.refuseItem q id 0x23)
    else
      match s.kv.recs.free 0 8191 with
      | none => some (s.refuseItem q id 0x21)
      | some h =>
        let s := s.putRec h k
        let s := s.modCtx ctx (fun c => { c with allocs := c.allocs.upd k.alloc (fun a => { a with locked := true }) })
        some (s.doneItem q id (BitVec.ofNat 64 h))

/-! ### KV-EXTEND (R225, R228, R235) -/

/-- The shared entry that the positions LEN to NEWLEN - 1 touch, with its place. -/
def KvRec.touchedShared (k : KvRec) (newlen : Nat) : Option (Nat × KvEntry) :=
  (List.zip (List.range k.entries.length) k.entries).find? (fun e =>
    e.2.shared && k.len < newlen && e.2.start < newlen && k.len < e.2.start + e.2.pos)

/-- The virtual addresses of one position's elements of every layer, head and side (R223): offset and length. -/
def KvRec.rows (k : KvRec) (p n : Nat) : List (Nat × Nat) :=
  (List.range (2 * k.layers * k.heads)).map (fun j => (j * p * k.hdim * k.eb, n * k.hdim * k.eb))

/-- Copy the first `n` positions of one page into another. -/
def State.copyRows (s : State) (c : Ctx) (src dst : Nat) : List (Nat × Nat) → State × AccR
  | [] => (s, .ok)
  | (o, n) :: rs =>
    match s.ctxRead c (src + o) n with
    | (s, .ok, bs) =>
      match s.ctxWrite c (dst + o) bs with
      | (s, .ok) => State.copyRows s c src dst rs
      | (s, e) => (s, e)
    | (s, e, _) => (s, e)

/-- R235: the record with its shared entry replaced, the nodes left behind, and those still attached. -/
def KvRec.replace (k : KvRec) (t : KvSt) (i : Nat) (e : KvEntry) : KvRec × List Nat :=
  let all := t.up k.sharedBlocks k.last
  let drop := k.sharedBlocks - e.start / 16
  let left := all.drop drop
  ({ k with entries := k.entries.set i e, sharedBlocks := e.start / 16, last := left.headD noNode }, all.take drop)

/-- Append, check and store an extension whose shared page, if any, has been replaced. -/
def State.extendRec (s : State) (q id h : Nat) (c : Ctx) (k : KvRec) (newlen : Nat) (es : List KvEntry) : State :=
  let k := { k with entries := k.entries ++ es, len := newlen }
  if k.covered newlen && es.all (k.entryOk c) && k.fits c then
    (s.putRec h k).doneItem q id 0
  else s.refuseItem q id 0x23

def State.effKvExtend (s : State) (q id h oldlen newlen : Nat) (new repl : List (W64 × W64)) : Option State :=
  match s.queueCtx q with
  | none => some (s.refuseItem q id 0x62)
  | some (ctx, c) =>
    match s.kvRec ctx h with
    | none => some (s.refuseItem q id 0x22)
    | some k =>
      if newlen > 1048576 || newlen > k.limit then
        let s := s.raise { cause := 0x3A, sev := 2, die := 4, block := 46, part := some c.part, ctx := some ctx,
                           queue := some q, detail := BitVec.ofNat 64 (h % 2 ^ 21) }
        let (n, s) := s.draw
        some (s.finishItem q id 3 (Config.freeNat n 256 % 256) 0)
      else if oldlen ≠ k.len then some (s.refuseItem q id 0x25)
      else if k.ring ≠ 0 then
        if new.isEmpty && repl.isEmpty && newlen - k.len ≤ k.ring - 16 then
          some ((s.putRec h { k with len := newlen }).doneItem q id 0)
        else some (s.refuseItem q id 0x23)
      else
        match entriesOf new, entriesOf repl, k.touchedShared newlen with
        | some es, some [], none => some (s.extendRec q id h c k newlen es)
        | some _, some [], some _ => some (s.refuseItem q id 0x24)
        | some es, some [r], some (i, e) =>
          let k2 := { k with entries := k.entries.set i r ++ es, len := newlen }
          if r.start == e.start && r.sz == e.sz && k.entryOk c r && es.all (k.entryOk c) && k2.covered newlen &&
              k2.fits c then
            let s0 := s
            match s.copyRows c e.base r.base (k.rows e.pos (k.len - e.start)) with
            | (s, .ok) =>
              let (k, gone) := k.replace s.kv i r
              let s := { s with kv := s.kv.dropRefs gone }
              some (s.extendRec q id h c k newlen es).releasePages
            | (s, bad) => some (s.failItem q id (s0.ownFill bad))
          else some (s.refuseItem q id 0x23)
        | _, _, _ => some (s.refuseItem q id 0x23)

/-! ### KV-MATCH and KV-PUBLISH (R232, R233) -/

/-- R224: a token buffer: an INT32 rank-1 read descriptor of the context with room for `n` tokens. -/
def Ctx.tokenBuf (c : Ctx) (h n : Nat) : Option DescF :=
  match c.descUse h 0 with
  | some f => if f.kind == 0 && f.etype == 10 && f.rank == 1 && n ≤ f.sizes.headD 0 then some f else none
  | none => none

/-- The tokens of a buffer, `n` from element `i`. -/
def State.readTokens (s : State) (c : Ctx) (f : DescF) (i : Nat) : Nat → State × AccR × List W32
  | 0 => (s, .ok, [])
  | n + 1 =>
    match s.descGet c f [i] with
    | (s, .ok, v) =>
      let (s, r, vs) := State.readTokens s c f (i + 1) n
      (s, r, BitVec.ofNat 32 v :: vs)
    | (s, e, _) => (s, e, [])

/-- What a match has attached: nodes, the deepest first, and the entries, the last first. -/
structure MatchSt where
  nodes : List Nat := []
  entries : List KvEntry := []
deriving DecidableEq, Repr

/-- R232: look the blocks up in turn, as long as the record's entries fit its allocation (R220; log 93). -/
def State.matchBlocks (s : State) (k : KvRec) (c : Ctx) (b : Nat) (m : MatchSt) :
    List (List W32 × W64) → State × MatchSt
  | [] => (s, m)
  | (toks, key) :: rest =>
    match s.kvHit k c key (m.nodes.headD noNode) toks with
    | none => (s, m)
    | some (i, n) =>
      let same := match m.entries with
        | e :: _ => e.base == n.base && e.sz == n.sz
        | [] => false
      if !same && n.blk ≠ 0 then (s, m)
      else
        let t := (s.kv.addRefs [i]).touch i
        let es := if same then m.entries
          else { shared := true, sz := n.sz, base := n.base, start := 16 * b, node := i } :: m.entries
        if ({ k with entries := es } : KvRec).fits c then
          State.matchBlocks { s with kv := t } k c (b + 1) { nodes := i :: m.nodes, entries := es } rest
        else (s, m)

def State.effKvMatch (s : State) (q id h tokens count : Nat) : Option State :=
  match s.queueCtx q with
  | none => some (s.refuseItem q id 0x62)
  | some (ctx, c) =>
    match s.kvRec ctx h with
    | none => some (s.refuseItem q id 0x22)
    | some k =>
      if k.ring ≠ 0 then some (s.refuseItem q id 0x26)
      else if k.len ≠ 0 || !k.entries.isEmpty then some (s.refuseItem q id 0x25)
      else
        match c.tokenBuf tokens count with
        | none => some (s.refuseItem q id 0x27)
        | some f =>
          let nb := min (count / 16) (k.limit / 16)
          let s0 := s
          match s.readTokens c f 0 (16 * nb) with
          | (s, .ok, ts) =>
            let bs := chunks 16 ts
            let (s, m) := s.matchBlocks k c 0 {} (List.zip bs (keysFrom k.rootKey bs))
            let n := m.nodes.length
            let s := if n = 0 then s else
              s.putRec h { k with entries := m.entries.reverse, sharedBlocks := n, last := m.nodes.headD noNode
                                  len := 16 * n }
            some (s.doneItem q id (BitVec.ofNat 64 n))
          | (s, e, _) => some (s.failItem q id (s0.ownFill e))

/-- R234: a place for a new node, evicting when the tree is full. -/
def KvSt.place (t : KvSt) (parent : Nat) : Option (KvSt × Nat) :=
  match t.nodes.free 0 (treeNodes - 1) with
  | some i => some (t, i)
  | none => (t.victim parent).map (fun v => (t.remove v, v))

/-- R233: insert the blocks from `b` on; the number inserted. -/
def State.publishBlocks (s : State) (k : KvRec) (c : Ctx) (b parent : Nat) : List (List W32 × W64) → State × Nat
  | [] => (s, 0)
  | (toks, key) :: rest =>
    match s.kvHit k c key parent toks with
    | some (i, _) => State.publishBlocks s k c (b + 1) i rest
    | none =>
      match k.entries.find? (fun e => !e.shared && e.start ≤ 16 * b && 16 * b < e.start + e.pos), s.kv.place parent with
      | some e, some (t, i) =>
        let n : KvNode :=
          { key, parent, next := t.buckets.get noNode (bucketOf key), ctx := k.ctx, age := t.age + 1, sz := e.sz,
            blk := b - e.start / 16, base := e.base, toks, domain := k.domain, part := k.part, model := k.model }
        let page := (e.base, e.sz, k.ctx, k.part)
        let t := { t with nodes := t.nodes.put i n, buckets := t.buckets.put (bucketOf key) i, age := t.age + 1
                          pages := if t.pages.contains page then t.pages else t.pages ++ [page] }
        let (s, m) := State.publishBlocks ({ s with kv := t }) k c (b + 1) i rest
        (s, m + 1)
      | _, _ => (s, 0)

def State.effKvPublish (s : State) (q id h tokens : Nat) : Option State :=
  match s.queueCtx q with
  | none => some (s.refuseItem q id 0x62)
  | some (ctx, c) =>
    match s.kvRec ctx h with
    | none => some (s.refuseItem q id 0x22)
    | some k =>
      if k.ring ≠ 0 then some (s.refuseItem q id 0x26)
      else
        let nb := k.len / 16
        match c.tokenBuf tokens (16 * nb) with
        | none => some (s.refuseItem q id 0x27)
        | some f =>
          let s0 := s
          match s.readTokens c f 0 (16 * nb) with
          | (s, .ok, ts) =>
            let bs := chunks 16 ts
            let work := (List.zip bs (keysFrom k.rootKey bs)).drop k.sharedBlocks
            let (s, n) := s.publishBlocks k c k.sharedBlocks k.last work
            some (s.releasePages.doneItem q id (BitVec.ofNat 64 n))
          | (s, e, _) => some (s.failItem q id (s0.ownFill e))

/-! ### KV-CLOSE (R227, R234) -/

/-- Launches of a context that have not ended. -/
def State.liveLaunches (s : State) (ctx : Nat) : List Nat :=
  (s.launches.filter (fun e => e.2.ctx == ctx && !e.2.isDone)).map (·.1)

/-- The release: the nodes detached, the record freed, its allocation mapped read-write again unless another record
lies in it, and the pages nothing names reported. -/
def State.releaseRec (s : State) (h : Nat) (k : KvRec) : State :=
  let t := s.kv.dropRefs (s.kv.up k.sharedBlocks k.last)
  let t := { t with recs := t.recs.del h }
  let s := { s with kv := t }
  let still := t.recs.any (fun e => e.2.ctx == k.ctx && e.2.alloc == k.alloc)
  let s := s.modCtx k.ctx (fun c =>
    { c with allocs := c.allocs.upd k.alloc (fun a => { a with locked := still }) })
  s.releasePages

def State.effKvClose (s : State) (q id h : Nat) : Option State :=
  match s.queueCtx q with
  | none => some (s.refuseItem q id 0x62)
  | some (ctx, _) =>
    match s.kvRec ctx h with
    | none => some (s.refuseItem q id 0x22)
    | some k =>
      match s.liveLaunches ctx with
      | [] => some ((s.releaseRec h k).doneItem q id 0)
      | ls =>
        let t := { s.kv with recs := s.kv.recs.put h { k with closing := true, waits := ls, item := (q, id) } }
        some { s with kv := t }

/-- KV_RELEASE: a closed record's counted launches have ended. -/
def execKvRelease (r : Nat) (s : State) : Out :=
  match s.kv.recs.find r with
  | some k =>
    let busy := k.waits.any (fun l => ((s.launches.find l).map (fun x => !x.isDone)).getD false)
    if k.closing && !busy then .next ((s.releaseRec r k).doneItem k.item.1 k.item.2 0) else .next s
  | none => .next s

end Sys2Proof.Machine
end

