-- ==== Sys2Proof/Machine/Codec.lean ====
section
/-! DEFINITION. The video codec engines (15 R358 to R371): streams, frame buffers, the input stage, rate control, scheduling
and reports. What the two coding standards fix is opaque (log 13). -/
namespace Sys2Proof.Machine

/-! ### Stream records (Table 15.4) -/

structure SrecF where
  dir : Nat
  std : Nat
  bd10 : Bool
  eng : Nat
  live : Bool
  nbuf : Nat
  rc : Nat
  w : Nat
  h : Nat
  bitrate : Nat
  bufsz : Nat
  qpi : Nat
  qpmin : Nat
  qpmax : Nat
  keyint : Nat
  nref : Nat
  frnum : Nat
  frden : Nat
  rot : Nat
  mirh : Bool
  mirv : Bool
  srcf : Nat
  srct : Nat
  sw : Nat
  sh : Nat
  rsv : Nat
  rest : Nat
deriving DecidableEq, Repr

def srecOf (r : BitVec 512) : SrecF :=
  let n := r.toNat
  let a := bits n 63 0
  let b := bits n 127 64
  let c := bits n 191 128
  let d := bits n 255 192
  let e := bits n 319 256
  { dir := bits a 63 62, std := bits a 61 60, bd10 := bit a 59, eng := bits a 58 57, live := bit a 56,
    nbuf := bits a 55 52 + 1, rc := bits a 51 50, w := bits a 49 36, h := bits a 35 22, bitrate := bits b 63 32,
    bufsz := bits b 31 0, qpi := bits c 63 56, qpmin := bits c 55 48, qpmax := bits c 47 40, keyint := bits c 39 24,
    nref := bits c 23 20, frnum := bits d 63 32, frden := bits d 31 0, rot := bits e 63 62, mirh := bit e 61,
    mirv := bit e 60, srcf := bits e 59 58, srct := bits e 57 56, sw := bits e 55 42, sh := bits e 41 28,
    rsv := bits a 21 0 + bits c 19 0 + bits e 27 0 + bits n 511 320, rest := bits n 511 64 }

def SrecF.encodes (r : SrecF) : Bool := r.dir == 1

/-- Bytes of a sample in a frame buffer (R359). -/
def SrecF.bps (r : SrecF) : Nat := if r.bd10 then 2 else 1

/-- Bytes of a sample of an SRCF 0 source, whose type SRCT gives. -/
def SrecF.srcBytes (r : SrecF) : Nat := if r.srct = 0 then 1 else 2

/-- Source size after rotation (R365, order 2). -/
def SrecF.turned (r : SrecF) : Nat × Nat := if r.rot % 2 = 1 then (r.sh, r.sw) else (r.sw, r.sh)

def ratioOk (dst src : Nat) : Bool := src ≠ 0 && src ≤ 4 * dst && dst ≤ 4 * src

/-- R358, Table 15.4: the record is valid (code 0x73 otherwise). -/
def SrecF.ok (r : SrecF) : Bool :=
  (r.dir == 1 || r.dir == 2) && (r.std == 1 || r.std == 2) && 64 ≤ r.w && r.w ≤ 8192 && 64 ≤ r.h && r.h ≤ 4352 &&
    r.rsv == 0 &&
    (if r.encodes then
      let top := if r.std = 1 then 255 else 63
      r.w % 8 == 0 && r.h % 8 == 0 && r.rc != 3 && 1 ≤ r.bitrate && r.bitrate ≤ 2000000 && r.qpmax ≤ top &&
        r.qpmin ≤ r.qpi && r.qpi ≤ r.qpmax && 1 ≤ r.nref && r.nref ≤ (if r.std = 1 then 7 else 4) &&
        r.frnum != 0 && r.frden != 0 && r.w * r.h * r.frnum ≤ 2139095040 * r.frden && r.srcf != 3 &&
        (r.srct ≤ 1 || r.srcf == 2) && (r.rc == 0 || r.bufsz != 0) &&
        ratioOk r.w r.turned.1 && ratioOk r.h r.turned.2
    else r.rc == 0 && r.rest == 0)

/-! ### Frame buffers (R363, R364) -/

/-- A pool entry of the right form. -/
def poolOf (r : SrecF) (e : W64 × W64) : Option PoolBuf :=
  let pitch := 256 * fld e.2 47 32
  if fld e.1 63 48 == 0 && fld e.1 47 0 % 256 == 0 && fld e.2 63 48 == 0 && fld e.2 31 0 == 0 && r.w * r.bps ≤ pitch then
    some { base := fld e.1 47 0, pitch }
  else none

def poolsOf (r : SrecF) : List (W64 × W64) → Option (List PoolBuf)
  | [] => some []
  | e :: es =>
    match poolOf r e, poolsOf r es with
    | some b, some bs => some (b :: bs)
    | _, _ => none

/-- Bytes of a buffer: three planes of 4:2:0. -/
def PoolBuf.size (b : PoolBuf) (h : Nat) : Nat := b.pitch * h + 2 * (b.pitch * h / 4)

def PoolBuf.free (b : PoolBuf) : Bool := !b.isRef && !b.out

/-- A range inside one writable device allocation of the context. -/
def Ctx.devWritable (c : Ctx) (a n : Nat) : Bool :=
  c.allocs.any (fun e => e.2.va ≤ a && a + n ≤ e.2.va + e.2.size && e.2.wr && !e.2.locked &&
    (match e.2.kind with | .device _ => true | _ => false))

def disjointAll (h : Nat) : List PoolBuf → Bool
  | [] => true
  | b :: bs => bs.all (fun x => b.base + b.size h ≤ x.base || x.base + x.size h ≤ b.base) && disjointAll h bs

/-! ### CODEC-OPEN, CODEC-RELEASE, CODEC-CLOSE (Table 15.3) -/

/-- The engine answers. -/
def State.engineServes (s : State) (e : Nat) : Bool :=
  e < s.codecCount && (s.die (codecDie e)).present && !(s.engine e).removed && !(s.engine e).disabled

def State.effCodecOpen (s : State) (q id : Nat) (rec : BitVec 512) (pool : List (W64 × W64)) : Option State :=
  match s.queueCtx q with
  | none => some (s.refuseItem q id 0x62)
  | some (ctx, c) =>
    let r := srecOf rec
    match (s.engine r.eng).streams.free 0 63 with
    | none => some (s.refuseItem q id 0x71)
    | some n =>
      if !s.engineServes r.eng || s.start.bringUp = 1 then some (s.refuseItem q id 0x71)
      else
        match r.ok && pool.length == r.nbuf, poolsOf r pool with
        | true, some bs =>
          if !(bs.all (fun b => c.devWritable b.base (b.size r.h)) && disjointAll r.h bs) then
            some (s.refuseItem q id 0x74)
          else
            let x : Stream :=
              { ctx, queue := q, srec := rec, pool := bs, fullness := (r.bufsz * 1000 : Nat) / 2, qp := r.qpi }
            let s := s.modEngine r.eng (fun g => { g with streams := g.streams.put n x })
            some (s.doneItem q id (BitVec.ofNat 64 (64 * r.eng + n)))
        | _, _ => some (s.refuseItem q id 0x73)

/-- A stream of a context by its handle. -/
def State.streamOf (s : State) (ctx h : Nat) : Option Stream :=
  if h < 256 then
    match (s.engine (h / 64)).streams.find (h % 64) with
    | some x => if x.ctx == ctx then some x else none
    | none => none
  else none

/-- The first ready frame of a stream that has the buffer it needs (R364). -/
def Stream.front (x : Stream) : Option (Nat × Nat × W64) := if x.pool.any PoolBuf.free then x.ready.head? else none

/-- Keep since when each stream's first frame is ready. -/
def Engine.noteReady (g : Engine) (now : W64) : Engine :=
  { g with streams := g.streams.map (fun e =>
      (e.1, { e.2 with readyAt := e.2.front.map (fun _ => e.2.readyAt.getD now) })) }

def State.noteReady (s : State) (e : Nat) : State := s.modEngine e (fun g => g.noteReady s.clock.refc)

def State.modStream (s : State) (h : Nat) (f : Stream → Stream) : State :=
  s.modEngine (h / 64) (fun g => { g with streams := g.streams.upd (h % 64) f })

/-- Apply a change to the buffers a mask names. -/
def maskPool (bs : List PoolBuf) (m : Nat) (f : PoolBuf → PoolBuf) : List PoolBuf :=
  (List.zip (List.range bs.length) bs).map (fun e => if bit m e.1 then f e.2 else e.2)

def State.effCodecRelease (s : State) (q id h : Nat) (mask : W16) : Option State :=
  match s.queueCtx q with
  | none => some (s.refuseItem q id 0x62)
  | some (ctx, _) =>
    match s.streamOf ctx h with
    | none => some (s.refuseItem q id 0x72)
    | some _ =>
      let s := s.modStream h (fun x => { x with pool := maskPool x.pool mask.toNat (fun b => { b with out := false }) })
      some ((s.noteReady (h / 64)).doneItem q id 0)

/-- Close a stream: frames that wait on it end with STATUS 4. -/
def State.closeStream (s : State) (h : Nat) : State :=
  let items := (((s.engine (h / 64)).streams.find (h % 64)).map (·.ready)).getD []
  let s := s.modEngine (h / 64) (fun g => { g with streams := g.streams.del (h % 64) })
  items.foldl (fun s r => s.finishItem r.1 r.2.1 4 0 0) s

/-- CODEC-CLOSE waits for a frame of the stream in progress. -/
def State.effCodecClose (s : State) (q id h : Nat) : Option State :=
  match s.queueCtx q with
  | none => some (s.refuseItem q id 0x62)
  | some (ctx, _) =>
    match s.streamOf ctx h with
    | none => some (s.refuseItem q id 0x72)
    | some _ =>
      if ((s.engine (h / 64)).cur.map (·.stream)) == some (h % 64) then none
      else some ((s.closeStream h).doneItem q id 0)

/-! ### CODEC-FRAME (Table 15.5) -/

structure FrameF where
  strm : Nat
  fkey : Bool
  src : W64
  src2 : W64
  out : Nat
  ocap : Nat
  rep : Nat
  rsv : Nat
deriving DecidableEq, Repr

def frameOf (p : BitVec 512) : FrameF :=
  let n := p.toNat
  { strm := bits n 63 56, fkey := bit n 55, src := BitVec.ofNat 64 (bits n 127 64), src2 := BitVec.ofNat 64 (bits n 191 128),
    out := bits n 239 192, ocap := bits n 287 256, rep := bits n 367 320,
    rsv := bits n 54 0 + bits n 255 240 + bits n 319 288 + bits n 383 368 + bits n 511 384 }

/-- The frame buffer that an SRCF 0 source names. -/
def SrecF.sourceBuf (r : SrecF) (f : FrameF) : Option PoolBuf :=
  poolOf { r with w := r.sw, bd10 := r.srcBytes == 2 } (f.src, f.src2)

/-- Element types that carry a source sample type: a byte, a U16 in any 16-bit element, FP16, BF16 (log 13). -/
def srcTypes (t : Nat) : List Nat :=
  match t with
  | 0 => [8]
  | 1 => [1, 2]
  | 2 => [2]
  | _ => [1]

/-- 0x77: the source of an encode is what SRCF says. -/
def SrecF.sourceOk (r : SrecF) (c : Ctx) (f : FrameF) : Bool :=
  if !r.encodes then fld f.src 63 48 == 0 && fld f.src2 63 32 == 0
  else if r.srcf = 0 then (r.sourceBuf f).isSome
  else
    fld f.src 63 16 == 0 && f.src2 == 0 &&
    (match c.descUse (fld f.src 15 0) 0 with
      | some d => d.kind == 0 && d.sfmt == 0 && d.sizes == [3, r.sh, r.sw] && (srcTypes r.srct).contains d.etype
      | none => false)

/-- CODEC-FRAME: the frame becomes ready on its stream. -/
def State.effCodecFrame (s : State) (q id : Nat) (p : BitVec 512) : Option State :=
  match s.queueCtx q with
  | none => some (s.refuseItem q id 0x62)
  | some (ctx, c) =>
    let f := frameOf p
    match s.streamOf ctx f.strm with
    | none => some (s.refuseItem q id 0x72)
    | some x =>
      let e := f.strm / 64
      let r := srecOf x.srec
      if f.rsv ≠ 0 || f.rep % 32 ≠ 0 then some (s.refuseItem q id 0x63)
      else if !r.sourceOk c f then some (s.refuseItem q id 0x77)
      else if (s.engine e).disabled || (s.engine e).removed then some (s.finishItem q id 4 0 0)
      else some ((s.modStream f.strm (fun x => { x with ready := x.ready ++ [(q, id, s.clock.refc)] })).noteReady e)

/-! ### Scheduling (R367) -/

/-- Round robin by stream number after the last one served. -/
def roundRobin (last : Nat) (ns : List Nat) : Option Nat :=
  match ns.filter (· > last) with
  | n :: _ => some n
  | [] => ns.head?

/-- The stream an engine serves next. -/
def Engine.choose (g : Engine) (mode now : Nat) : Option Nat :=
  let ready := g.streams.filterMap (fun e => e.2.front.map (fun r =>
    (e.1, (srecOf e.2.srec).live, (e.2.readyAt.getD r.2.2).toNat)))
  let live := ready.filter (fun r => r.2.1)
  let other := ready.filter (fun r => !r.2.1)
  if mode = 0 then roundRobin g.last (ready.map (·.1))
  else if live.isEmpty || (g.liveRun ≥ 7 && other.any (fun r => now > r.2.2 + usCounts 100000)) then
    roundRobin g.last (other.map (·.1))
  else (bestBy (fun (a b : Nat × Bool × Nat) => a.2.2 < b.2.2) live).map (·.1)

/-- FRAME_SCHEDULE: at a frame boundary the engine takes the next frame and its buffer. -/
def execFrameSchedule (e : Fin 4) (s : State) : Out :=
  let g := s.engine e.val
  .next (if g.cur.isSome || !s.engineServes e.val || !s.runs then s
  else
    match g.choose (s.cfg 0x7011 (e.val + 1)) s.now with
    | none => s
    | some n =>
      match g.streams.find n with
      | none => s
      | some x =>
        match x.ready with
        | [] => s
        | (q, id, _) :: rest =>
          let live := (srecOf x.srec).live
          let run : FrameRun :=
            { stream := n, queue := q, item := id, startAt := s.clock.refc, buf := findPos PoolBuf.free x.pool 0 }
          (s.modEngine e.val (fun g => { g with
            cur := some run, last := n, liveRun := if live then g.liveRun + 1 else 0
            streams := g.streams.put n { x with ready := rest, readyAt := none } })).noteReady e.val)

/-! ### The input stage (R365) -/

/-- A plane of exact samples, row-major. -/
structure Plane where
  w : Nat
  h : Nat
  px : List Rat
deriving DecidableEq, Repr

def Plane.at' (p : Plane) (y x : Nat) : Rat := p.px.getD (y * p.w + x) 0

/-- Order 2: mirrored, then turned clockwise by quarter turns. -/
def Plane.turn (p : Plane) (r : SrecF) : Plane :=
  let src (y x : Nat) : Rat := p.at' (if r.mirv then p.h - 1 - y else y) (if r.mirh then p.w - 1 - x else x)
  let (w, h) := if r.rot % 2 = 1 then (p.h, p.w) else (p.w, p.h)
  { w, h, px := (List.range h).flatMap (fun y => (List.range w).map (fun x =>
      match r.rot with
      | 0 => src y x
      | 1 => src (p.h - 1 - x) y
      | 2 => src (p.h - 1 - y) (p.w - 1 - x)
      | _ => src x (p.w - 1 - y))) }

def ratMin (a b : Rat) : Rat := if a ≤ b then a else b
def ratMax (a b : Rat) : Rat := if a ≤ b then b else a

/-- Order 3: weights of one axis: source sample and weight for output sample i. -/
def axisWeights (src dst i : Nat) : List (Nat × Rat) :=
  let lo : Rat := (i * src : Nat) / (dst : Rat)
  let hi : Rat := ((i + 1) * src : Nat) / (dst : Rat)
  if dst ≤ src then
    ((List.range src).filterMap (fun j =>
      let o := ratMin hi ((j + 1 : Nat) : Rat) - ratMax lo (j : Rat)
      if o > 0 then some (j, o / (hi - lo)) else none))
  else
    let c := (lo + hi) / 2 - 1 / 2
    let f := c.floor
    let t := c - f
    let cl (k : Int) : Nat := if k < 0 then 0 else if k ≥ src then src - 1 else k.toNat
    [(cl f, 1 - t), (cl (f + 1), t)]

def ratSum (xs : List Rat) : Rat := xs.foldl (· + ·) 0

/-- Order 3. -/
def Plane.scale (p : Plane) (w h : Nat) : Plane :=
  let mid : Plane := { w, h := p.h, px := (List.range p.h).flatMap (fun y => (List.range w).map (fun x =>
    ratSum ((axisWeights p.w w x).map (fun e => e.2 * p.at' y e.1)))) }
  { w, h, px := (List.range h).flatMap (fun y => (List.range w).map (fun x =>
    ratSum ((axisWeights p.h h y).map (fun e => e.2 * mid.at' e.1 x)))) }

/-- Order 5: the mean of each 2 x 2 block. -/
def Plane.halve (p : Plane) : Plane :=
  { w := p.w / 2, h := p.h / 2, px := (List.range (p.h / 2)).flatMap (fun y => (List.range (p.w / 2)).map (fun x =>
      (p.at' (2 * y) (2 * x) + p.at' (2 * y) (2 * x + 1) + p.at' (2 * y + 1) (2 * x) + p.at' (2 * y + 1) (2 * x + 1)) / 4)) }

/-- Order 4: BT.709 to limited range (coefficients of the recommendation, log 13). -/
def yuvOf (ten : Bool) (r g b : Rat) : Rat × Rat × Rat :=
  let y := (2126 * r + 7152 * g + 722 * b) / 10000
  let cb := (b - y) * 10000 / 18556
  let cr := (r - y) * 10000 / 15748
  let k : Rat := if ten then 4 else 1
  (k * (16 + 219 * y), k * (128 + 224 * cb), k * (128 + 224 * cr))

/-- Nearest integer, ties to even. -/
def ratRound (q : Rat) : Int :=
  let f := q.floor
  let d := q - f
  if d < 1 / 2 then f else if d > 1 / 2 then f + 1 else if f % 2 = 0 then f else f + 1

/-- Order 6. -/
def codeOfSample (ten : Bool) (q : Rat) : Nat :=
  let v := ratRound q
  let top : Int := if ten then 1023 else 255
  if v < 0 then 0 else if v > top then top.toNat else v.toNat

/-- An exact sample of a value; a NaN or an infinity has no stated sample: a free value (log 8). -/
def sampleOf (k : Nat) (v : FV) : Rat :=
  match v with
  | .fin neg m => let q : Rat := (m : Rat) / (2 ^ unitE : Nat); if neg then -q else q
  | _ => (Config.freeNat k (2 ^ 32) : Rat)

/-- A row of samples of an SRCF 0 source: of a U16, bits 9 to 0 count (R359). -/
def sampleRow (r : SrecF) (bs : List Byte) : List Rat :=
  if r.srcBytes = 2 then (chunks 2 bs).map (fun b => ((leNat b % 1024 : Nat) : Rat)) else bs.map (fun b => ((b.toNat : Nat) : Rat))

/-- Read rows of a plane. -/
def State.planeRows (s : State) (c : Ctx) (r : SrecF) (a pitch w : Nat) : Nat → State × AccR × List Rat
  | 0 => (s, .ok, [])
  | n + 1 =>
    match s.ctxRead c a (w * r.srcBytes) with
    | (s, .ok, bs) =>
      match State.planeRows s c r (a + pitch) pitch w n with
      | (s, e, xs) => (s, e, sampleRow r bs ++ xs)
    | (s, e, _) => (s, e, [])

/-- Read the elements of one plane of a rank-3 source. -/
def State.planeElems (s : State) (c : Ctx) (r : SrecF) (d : DescF) (k pl : Nat) : List (Nat × Nat) → State × AccR × List Rat
  | [] => (s, .ok, [])
  | (y, x) :: t =>
    match s.descGet c d [pl, y, x] with
    | (s, .ok, v) =>
      let q : Rat := match r.srct with
        | 0 => if r.srcf = 2 then (v : Rat) / 255 else (v : Rat)
        | 1 => (v : Rat)
        | 2 => sampleOf k (fp16.decode v)
        | _ => sampleOf k (bf16.decode v)
      match State.planeElems s c r d k pl t with
      | (s, e, xs) => (s, e, q :: xs)
    | (s, e, _) => (s, e, [])

/-- Order 1: the source planes. -/
def State.sourcePlanes (s : State) (c : Ctx) (r : SrecF) (f : FrameF) : State × AccR × List Plane :=
  if r.srcf = 0 then
    match r.sourceBuf f with
    | none => (s, .unmapped, [])
    | some b =>
      match s.planeRows c r b.base b.pitch r.sw r.sh with
      | (s, .ok, y) =>
        match s.planeRows c r (b.base + b.pitch * r.sh) (b.pitch / 2) (r.sw / 2) (r.sh / 2) with
        | (s, .ok, u) =>
          match s.planeRows c r (b.base + b.pitch * r.sh + b.pitch * r.sh / 4) (b.pitch / 2) (r.sw / 2) (r.sh / 2) with
          | (s, e, v) => (s, e, [⟨r.sw, r.sh, y⟩, ⟨r.sw / 2, r.sh / 2, u⟩, ⟨r.sw / 2, r.sh / 2, v⟩])
        | (s, e, _) => (s, e, [])
      | (s, e, _) => (s, e, [])
  else
    match c.descs.find (fld f.src 15 0) with
    | none => (s, .unmapped, [])
    | some d =>
      let d := descOf d.image
      let all := (List.range r.sh).flatMap (fun y => (List.range r.sw).map (fun x => (y, x)))
      let (k, s) := s.draw
      match s.planeElems c r d k 0 all with
      | (s, .ok, a) =>
        match s.planeElems c r d k 1 all with
        | (s, .ok, b) =>
          match s.planeElems c r d k 2 all with
          | (s, e, g) => (s, e, [⟨r.sw, r.sh, a⟩, ⟨r.sw, r.sh, b⟩, ⟨r.sw, r.sh, g⟩])
        | (s, e, _) => (s, e, [])
      | (s, e, _) => (s, e, [])

/-- Orders 2 to 6: the samples of the three planes, Y then Cb then Cr. -/
def inputStage (r : SrecF) (ps : List Plane) : List Nat :=
  let code (p : Plane) : List Nat := p.px.map (codeOfSample r.bd10)
  match ps.map (fun p => p.turn r) with
  | [a, b, c] =>
    if r.srcf = 0 then
      code (a.scale r.w r.h) ++ code (b.scale (r.w / 2) (r.h / 2)) ++ code (c.scale (r.w / 2) (r.h / 2))
    else
      let a := a.scale r.w r.h
      let b := b.scale r.w r.h
      let c := c.scale r.w r.h
      let (y, u, v) := if r.srcf = 2 then
          let xs := (List.zip a.px (List.zip b.px c.px)).map (fun e => yuvOf r.bd10 e.1 e.2.1 e.2.2)
          ({ a with px := xs.map (·.1) }, { b with px := xs.map (fun e => e.2.1) }, { c with px := xs.map (fun e => e.2.2) })
        else (a, b, c)
      code y ++ code u.halve ++ code v.halve
  | _ => []

/-! ### Rate control (R366) -/

/-- Rows of superblocks or CTUs. -/
def SrecF.nrows (r : SrecF) : Nat := cdiv r.h 64

/-- The target of a frame in bits. -/
def SrecF.target (r : SrecF) (full : Rat) : Rat :=
  let rate : Rat := (r.bitrate * 1000 : Nat)
  let f : Rat := (r.frnum : Rat) / (r.frden : Rat)
  let b : Rat := (r.bufsz * 1000 : Nat)
  ratMin full (ratMax (rate / (4 * f)) (rate / f + (full - b / 2) / 8))

/-- The QP after a row. -/
def SrecF.step (r : SrecF) (qp : Nat) (ratio : Rat) : Nat :=
  let d := if r.std = 1 then 4 else 1
  if ratio > 5 / 4 then min r.qpmax (qp + 2 * d)
  else if ratio > 11 / 10 then min r.qpmax (qp + d)
  else if ratio < 3 / 4 then max r.qpmin (qp - 2 * d)
  else if ratio < 9 / 10 then max r.qpmin (qp - d)
  else qp

/-- QPs of the rows of a frame; `spent` in bits. -/
def SrecF.rows (r : SrecF) (key planes : List Nat) (full t : Rat) : Nat → Nat → Nat → Bool → List Nat → List Nat
  | 0, _, _, _, acc => acc
  | n + 1, qp, spent, pinned, acc =>
    let acc := acc ++ [qp]
    if r.rc = 0 then SrecF.rows r key planes full t n qp spent pinned acc
    else
      let spent := spent + Config.encodeRowBits key planes acc
      let done := acc.length
      let want := t * (done : Rat) / (r.nrows : Rat)
      let next := if want = 0 then r.qpmax else r.step qp ((spent : Rat) / want)
      let pinned := pinned || ((spent + Config.encodeMinBits key planes acc : Nat) : Rat) > full
      SrecF.rows r key planes full t n (if pinned then r.qpmax else next) spent pinned acc

/-! ### Frame ends (R369, R370) -/

/-- R369: the 32-byte report. -/
structure Report where
  fst : Nat
  outs : Nat := 0
  qp : Nat := 0
  bytes : Nat := 0
  rows : Nat := 0
  no : Nat := 0
  taint : Bool := false
deriving DecidableEq, Repr

def Report.encode (r : Report) (start stop : W64) : List Byte :=
  natLe 8 (r.fst * 2 ^ 56 + r.outs % 2 ^ 16 * 2 ^ 40 + r.qp % 256 * 2 ^ 32 + r.bytes % 2 ^ 32) ++
    natLe 8 (r.rows % 2 ^ 16 * 2 ^ 48 + r.no % 2 ^ 16 * 2 ^ 32 + b2n r.taint * 2 ^ 31) ++
    natLe 8 start.toNat ++ natLe 8 stop.toNat

/-- Count an ended frame (Table 15.7). -/
def Engine.count (g : Engine) (fst : Nat) : Engine :=
  { g with cur := none, frames := satAdd 32 g.frames 1, damaged := if fst = 0 then g.damaged else satAdd 32 g.damaged 1 }

/-- Write a frame's report and end its item. -/
def State.reportFrame (s : State) (c : Ctx) (e : Nat) (f : FrameRun) (rep : Nat) (r : Report) (st code : Nat) : State :=
  let s := (s.ctxWrite c rep (r.encode f.startAt s.clock.refc)).1
  let s := s.modEngine e (fun g => g.count r.fst)
  if st = 0 then
    match s.queues.find f.queue, s.item f.queue f.item with
    | some qu, some it => s.finishItem f.queue f.item (s.doneStatus qu it) code 0
    | _, _ => s
  else s.finishItem f.queue f.item st code 0

/-- R370: a frame is abandoned: its target buffer stays free, REF marks stay. -/
def State.abandon (s : State) (c : Ctx) (e : Nat) (f : FrameRun) (x : Stream) (rep st code : Nat) : State :=
  let s := s.reportFrame c e f rep { fst := 7, no := x.frameNo } st code
  let missing (x : Stream) : Stream := if (srecOf x.srec).encodes then x else { x with missing := true }
  s.modEngine e (fun g => { g with streams := g.streams.upd f.stream missing })

/-- The status, code and record of an access that failed. -/
def State.abandonFor (s : State) (c : Ctx) (e : Nat) (f : FrameRun) (x : Stream) (rep : Nat) (a : AccR) : State :=
  match a with
  | .hbm cls n =>
    let s := if cls = 2 then s.raise (s.hbmRecord 0x23 2 n (some c.part) (some x.ctx) (some f.queue)) else s
    s.abandon c e f x rep 3 0x1C
  | .sram d b idx sy =>
    (s.raise (sramRecord d b idx sy (some c.part) (some x.ctx) (some f.queue))).abandon c e f x rep 3 0x1C
  | _ => s.abandon c e f x rep 3 0x19

/-- Write the samples of a frame into a buffer: luma rows, then Cb, then Cr (R363). -/
def State.putRows (s : State) (c : Ctx) (pitch n : Nat) : Nat → Nat → List Byte → State × AccR
  | 0, _, _ => (s, .ok)
  | k + 1, a, bs =>
    match s.ctxWrite c a (bs.take n) with
    | (s, .ok) => State.putRows s c pitch n k (a + pitch) (bs.drop n)
    | (s, e) => (s, e)

/-- R359: bits 15 to 10 of a 10-bit sample are zero. -/
def SrecF.clear (r : SrecF) (bs : List Byte) : List Byte :=
  if r.bd10 then (List.zip (List.range bs.length) bs).map (fun e => if e.1 % 2 = 1 then e.2 &&& 3 else e.2) else bs

def State.putFrame (s : State) (c : Ctx) (r : SrecF) (b : PoolBuf) (bs : List Byte) : State × AccR :=
  let bs := r.clear bs
  let n := r.w * r.bps
  let m := r.w / 2 * r.bps
  match s.putRows c b.pitch n r.h b.base bs with
  | (s, .ok) =>
    let bs := bs.drop (n * r.h)
    match s.putRows c (b.pitch / 2) m (r.h / 2) (b.base + b.pitch * r.h) bs with
    | (s, .ok) => s.putRows c (b.pitch / 2) m (r.h / 2) (b.base + b.pitch * r.h + b.pitch * r.h / 4) (bs.drop (m * (r.h / 2)))
    | e => e
  | e => e

/-! ### Concealment (Table 15.6, log 102) -/

/-- Mid-grey samples. -/
def SrecF.grey (r : SrecF) (n : Nat) : List Byte :=
  (List.replicate (n / r.bps) (if r.bd10 then natLe 2 512 else [128#8])).flatten

/-- Rows of a plane: the decoder's own, or, where concealed, those at `src` (an address and a pitch), mid-grey without one. -/
def State.concealRows (s : State) (c : Ctx) (r : SrecF) (n : Nat) : Option (Nat × Nat) → List Bool → List Byte →
    State × AccR × List Byte
  | _, [], _ => (s, .ok, [])
  | src, b :: bt, bs =>
    let next := src.map (fun e => (e.1 + e.2, e.2))
    let here : State × AccR × List Byte := match b, src with
      | false, _ => (s, .ok, fit n (bs.take n))
      | true, none => (s, .ok, r.grey n)
      | true, some (a, _) => s.ctxRead c a n
    match here with
    | (s, .ok, xs) =>
      match State.concealRows s c r n next bt (bs.drop n) with
      | (s, e, ys) => (s, e, xs ++ ys)
    | (s, e, _) => (s, e, [])

/-- The samples of a frame with the given luma rows, and the chroma rows beside them, concealed from buffer `near`. -/
def State.conceal (s : State) (c : Ctx) (r : SrecF) (near : Option PoolBuf) (lost : List Nat) (bs : List Byte) :
    State × AccR × List Byte :=
  let n := r.w * r.bps
  let m := r.w / 2 * r.bps
  let chroma := (List.range (r.h / 2)).map (fun y => lost.contains (2 * y) || lost.contains (2 * y + 1))
  match s.concealRows c r n (near.map (fun b => (b.base, b.pitch))) ((List.range r.h).map lost.contains) bs with
  | (s, .ok, ys) =>
    let bs := bs.drop (n * r.h)
    match s.concealRows c r m (near.map (fun b => (b.base + b.pitch * r.h, b.pitch / 2))) chroma bs with
    | (s, .ok, us) =>
      match s.concealRows c r m (near.map (fun b => (b.base + b.pitch * r.h + b.pitch * r.h / 4, b.pitch / 2))) chroma
          (bs.drop (m * (r.h / 2))) with
      | (s, e, vs) => (s, e, ys ++ us ++ vs)
    | (s, e, _) => (s, e, [])
  | (s, e, _) => (s, e, [])

/-- The luma rows of a unit that are concealed: those that damage affects, and the last ones when the time bound of R368 was
reached. -/
def SrecF.lostRows (r : SrecF) (hurt : Bool) (lost : List Nat) (bounded : Option Nat) : List Nat :=
  (List.range r.h).filter (fun y => (hurt && lost.contains y) || r.h ≤ y + bounded.getD 0)

/-- The reference nearest in output order. -/
def Stream.nearest (x : Stream) (k : Nat) : Option PoolBuf :=
  let refs := x.pool.filter (·.isRef)
  refs[k % refs.length]?

/-- What was read is written, where the reads went well. -/
def State.wrote (r : State × AccR × List Byte) (f : State → List Byte → State × AccR) : State × AccR :=
  match r with
  | (s, .ok, bs) => f s bs
  | (s, e, _) => (s, e)

/-- R361: what of a stream's record its coding depends on: all but the engine (ENG). -/
def Stream.core (x : Stream) : Nat := (x.srec &&& ~~~(BitVec.ofNat 512 (3 * 2 ^ 57))).toNat

/-- What a stream is, for the coding functions: its record and its history. -/
def Stream.ident (x : Stream) (more : List Nat) : List Nat := x.core :: x.history ++ more

/-! ### Coded units (Table 15.1; their framing is the two standards': log 13) -/

/-- A number in groups of seven bits, least first. -/
def leb128 : Nat → Nat → List Byte
  | 0, _ => []
  | n + 1, v => if v < 128 then [BitVec.ofNat 8 v] else BitVec.ofNat 8 (128 + v % 128) :: leb128 n (v / 128)

/-- An AV1 OBU in low-overhead format, and an HEVC NAL unit of an Annex B byte stream. -/
def obu (ty : Nat) (bs : List Byte) : List Byte := BitVec.ofNat 8 (ty * 8 + 2) :: leb128 8 bs.length ++ bs
def nal (ty : Nat) (bs : List Byte) : List Byte := [0, 0, 0, 1, BitVec.ofNat 8 (ty * 2), 1] ++ bs

/-- The units of one frame: AV1 a temporal delimiter, at a key frame a sequence header, the frame; HEVC at an IRAP picture
VPS, SPS and PPS, the picture; and what CBR pads with (R366). -/
def Stream.units (x : Stream) (av1 key : Bool) (payload : List Byte) (pad : Nat) : List (List Byte) :=
  let fill := (List.range pad).map (Config.openByte 0)
  if av1 then
    [obu 2 []] ++ (if key then [obu 1 (Config.headerUnit 1 x.core)] else []) ++ [obu 6 payload] ++
      (if pad = 0 then [] else [obu 15 fill])
  else
    (if key then [32, 33, 34].map (fun t => nal t (Config.headerUnit t x.core)) else []) ++
      [nal (if key then 19 else 1) payload] ++ (if pad = 0 then [] else [nal 38 fill])

/-- An encode ends. -/
def State.endEncode (s : State) (c : Ctx) (e : Nat) (f : FrameRun) (x : Stream) (p : FrameF) : State :=
  let r := srecOf x.srec
  let s0 := s
  match s.sourcePlanes c r p with
  | (s, .ok, ps) =>
    let planes := inputStage r ps
    let key := x.frameNo == 0 || p.fkey || (r.keyint != 0 && x.sinceKey ≥ r.keyint)
    let ident := x.ident [b2n key]
    let qps := r.rows ident planes x.fullness (r.target x.fullness) r.nrows (if r.rc = 0 then r.qpi else x.qp) 0 false []
    let frame := Config.encodeFrame ident planes qps
    let plain := (x.units (r.std == 1) key frame.1 0).flatten
    let gain : Rat := (r.bitrate * 1000 * r.frden : Nat) / (r.frnum : Rat)
    let cap : Rat := (r.bufsz * 1000 : Nat)
    let left := x.fullness - ((8 * plain.length : Nat) : Rat) + gain
    let pad := if r.rc = 1 && left > cap then cdiv (left - cap).ceil.toNat 8 else 0
    let coded := (x.units (r.std == 1) key frame.1 pad).flatten
    if coded.length > p.ocap then
      (s.modEngine e (fun g => { g with cur := none })).finishItem f.queue f.item 2 0x76 0
    else
      match s.ctxWrite c p.out coded with
      | (s, .ok) =>
        match s.putFrame c r (x.pool.getD (f.buf.getD 0) { base := 0, pitch := 0 }) frame.2 with
        | (s, .ok) =>
          let exceeds := r.rc ≠ 0 && ((8 * plain.length : Nat) : Rat) > x.fullness
          let n := f.buf.getD 0
          -- the newest NREF reconstructions stay references
          let refs := ((x.pool.filter (·.isRef)).length)
          let pool := (List.zip (List.range x.pool.length) x.pool).map (fun b =>
            if b.1 = n then { b.2 with isRef := true }
            else if key then { b.2 with isRef := false }
            else if refs ≥ r.nref && some b.1 == x.refOrder.head? then { b.2 with isRef := false }
            else b.2)
          let y : Stream := { x with
            pool, frameNo := x.frameNo + 1, qp := qps.getLastD x.qp, sinceKey := if key then 1 else x.sinceKey + 1
            fullness := if r.rc = 0 then x.fullness
              else ratMin cap (x.fullness - ((8 * coded.length : Nat) : Rat) + gain)
            history := x.history ++ b2n p.fkey :: planes
            refOrder := if key then [n] else (if refs ≥ r.nref then x.refOrder.drop 1 else x.refOrder) ++ [n] }
          let s := s.modEngine e (fun g => { g with streams := g.streams.put f.stream y })
          let fst := if exceeds then 6 else 0
          s.reportFrame c e f p.rep
            { fst, outs := 2 ^ n, qp := sumN qps / max qps.length 1, bytes := coded.length, no := x.frameNo } 0 fst
        | (s, a) => s.abandonFor c e f x p.rep (s0.ownFill a)
      | (s, a) => s.abandonFor c e f x p.rep (s0.ownFill a)
  | (s, a, _) => s.abandonFor c e f x p.rep (s0.ownFill a)

/-- A decode ends (Table 15.6). -/
def State.endDecode (s : State) (c : Ctx) (e : Nat) (f : FrameRun) (x : Stream) (p : FrameF) : State :=
  let r := srecOf x.srec
  let s0 := s
  match s.ctxRead c (fld p.src 47 0) (fld p.src2 31 0) with
  | (s, .ok, bs) =>
    let n := f.buf.getD 0
    let d := Config.decodeUnit (x.ident [b2n x.missing, n]) bs
    let used := min d.consumed bs.length
    let keep (y : Stream) : State := s.modEngine e (fun g => { g with streams := g.streams.put f.stream y })
    let history := x.history ++ bs.map (·.toNat)
    if d.cls ≥ 3 || (x.needKey && !(d.key && d.cls < 2)) then
      (keep { x with needKey := true, frameNo := x.frameNo + 1, history }).reportFrame c e f p.rep
        { fst := 3, bytes := used, no := x.frameNo } 0 3
    else if d.cls = 2 then
      (keep { x with frameNo := x.frameNo + 1, history }).reportFrame c e f p.rep
        { fst := 2, bytes := used, no := x.frameNo } 0 2
    else
      let damaged := d.cls = 1 || (x.missing && !d.key)
      let lost := r.lostRows damaged d.lost f.bounded
      match State.wrote (s.conceal c r (x.nearest d.near) lost d.samples)
          (fun s bs => s.putFrame c r (x.pool.getD n { base := 0, pitch := 0 }) bs) with
      | (s, .ok) =>
        let hurt := damaged || f.bounded.isSome
        let taint := !d.key && (List.zip (List.range x.pool.length) x.pool).any (fun b => bit d.used b.1 && b.2.taint)
        let pool := (List.zip (List.range x.pool.length) x.pool).map (fun b =>
          let held := b.1 = n || !b.2.free
          { b.2 with
            isRef := held && (bit d.refs b.1 || (b.1 = n && hurt))
            out := b.2.out || (held && bit d.outs b.1)
            taint := if b.1 = n then hurt || taint else !d.key && b.2.taint })
        let outs := (List.range x.pool.length).foldl (fun m k =>
          let b := x.pool.getD k { base := 0, pitch := 0 }
          if bit d.outs k && (k = n || !b.free) then m + 2 ^ k else m) 0
        let y : Stream := { x with
          pool, needKey := false, missing := x.missing && !d.key, frameNo := x.frameNo + 1, history }
        let s := s.modEngine e (fun g => { g with streams := g.streams.put f.stream y })
        let fst := if f.bounded.isSome then 4 else if hurt then 1 else 0
        s.reportFrame c e f p.rep
          { fst, outs, qp := d.qp, bytes := used, rows := lost.length, no := x.frameNo, taint }
          0 fst
      | (s, a) => s.abandonFor c e f x p.rep (s0.ownFill a)
  | (s, a, _) => s.abandonFor c e f x p.rep (s0.ownFill a)

/-- What an engine's frame in progress is: its context, run, stream and parameters. -/
def State.frameNow (s : State) (e : Nat) : Option (Ctx × FrameRun × Stream × FrameF) :=
  match (s.engine e).cur with
  | none => none
  | some f =>
    match (s.engine e).streams.find f.stream, s.item f.queue f.item with
    | some x, some it =>
      match s.ctxs.find x.ctx, it.body with
      | some c, .codecFrame w => some (c, f, x, frameOf w)
      | _, _ => none
    | _, _ => none

/-- The frame in progress runs to its end, or a disable has stopped it at a row (R370). -/
def State.frameDone (s : State) (e : Nat) : State :=
  match s.frameNow e with
  | none => s.modEngine e (fun g => { g with cur := none })
  | some (c, f, x, p) =>
    if f.stop then s.abandon c e f x p.rep 5 0
    else if (srecOf x.srec).encodes then s.endEncode c e f x p
    else s.endDecode c e f x p

/-- R368: the time bound of a unit of some coded bytes has passed: 2 (W H / 4.0e9 + bytes / 1.6e9) s + 60 us after its start. -/
def SrecF.timeUp (r : SrecF) (bytes start now : Nat) : Bool := 2 * r.w * r.h + 5 * bytes + 240000 ≤ 40 * (now - start)

/-- DECODE_TIME_BOUND (R368): the remaining rows of a unit are concealed. -/
def execDecodeTimeBound (e : Fin 4) (rows : Nat) (s : State) : Out :=
  .next (match s.frameNow e.val with
  | some (_, f, x, p) =>
    let r := srecOf x.srec
    if r.encodes || !r.timeUp (fld p.src2 31 0) f.startAt.toNat s.now then s
    else s.modEngine e.val (fun g => { g with cur := some { f with bounded := some rows } })
  | none => s)

/-- The frame in progress, and which frames are ready after it. -/
def State.frameEnd (s : State) (e : Nat) : State := (s.frameDone e).noteReady e

end Sys2Proof.Machine
end

