-- ==== Sys2Proof/Machine/Programs.lean ====
section
/-! DEFINITION. Programs, launches and command lists (05 R145 to R151; 06 R160, R176, R177; 13 R319): the effects of LOAD,
UNLOAD, LAUNCH, LIST-BEGIN, LIST-END and REPLAY when their items start. -/
namespace Sys2Proof.Machine

/-! ### Placement of an image (R149, R150; log 15) -/

/-- The smallest start from which `n` fit below `limit` beside ranges already taken. -/
def firstFit (used : List (Nat × Nat)) (n limit : Nat) : Option Nat :=
  let starts := sortBy (· < ·) (0 :: used.map (fun r => r.1 + r.2))
  starts.find? (fun a => a + n ≤ limit && used.all (fun r => a + n ≤ r.1 || r.1 + r.2 ≤ a || n = 0 || r.2 = 0))

/-- Slots every die of the footprint can give: the least FSR of the dies that have one. -/
def Ctx.slotRoom (c : Ctx) : Nat :=
  match c.fsr.filter (· > 0) with
  | [] => 0
  | x :: xs => xs.foldl min x

/-- First physical slot of a context's footprint: the same number on every die (log 15). -/
def Ctx.slotOrg (c : Ctx) : Nat := c.slotBase.headD 0

/-- Dies whose pairs a context's images may run on: those of its footprint. -/
def Ctx.storeDies (c : Ctx) : List Nat := (List.range 4).filter (fun d => 0 < c.fsr.getD d 0)

/-- Words of the instruction stores that images already hold: this context's, and those of others that may run on the
same dies; an image has one place in every store it may run from (log 15). -/
def State.storeUsed (s : State) (ctx : Nat) (c : Ctx) : List (Nat × Nat) :=
  (s.ctxs.filter (fun e => e.1 != ctx && e.2.storeDies.any c.storeDies.contains)).flatMap (fun e =>
      e.2.progs.map (fun g => (g.2.ibase, g.2.image.code.length))) ++
    c.progs.map (fun g => (g.2.ibase, g.2.image.code.length))

/-- Where an image of context number ctx goes: its slots relative to the footprint, and its words in the stores. -/
def State.imagePlace (s : State) (ctx : Nat) (c : Ctx) (im : Image) : Option (Nat × Nat) :=
  match firstFit (c.progs.map (fun e => (e.2.base - c.slotOrg, e.2.image.slots))) im.slots c.slotRoom,
      firstFit (s.storeUsed ctx c) im.code.length 32768 with
  | some a, some b => some (a, b)
  | _, _ => none

/-- LOAD. -/
def State.effLoad (s : State) (q id : Nat) (im : Image) : Option State :=
  match s.queueCtx q with
  | none => some (s.refuseItem q id 0x62)
  | some (ctx, c) =>
    match loadCode im with
    | 0 =>
      match s.imagePlace ctx c im, c.progs.free 1 65535 with
      | some (a, b), some h =>
        let lanes := usesJump ((zprog im.code).getD [])
        let g : Program := { image := im, base := c.slotOrg + a, ibase := b, lanes }
        some ((s.modCtx ctx (fun c => { c with progs := c.progs.put h g })).doneItem q id (BitVec.ofNat 64 h))
      | _, _ => some (s.refuseItem q id 0x0C)
    | k => some (s.refuseItem q id k)

/-- UNLOAD waits until no launch of the context runs the program. -/
def State.effUnload (s : State) (q id h : Nat) : Option State :=
  match s.queueCtx q with
  | none => some (s.refuseItem q id 0x62)
  | some (ctx, c) =>
    if !c.progs.has h then some (s.refuseItem q id 0x62)
    else if s.launches.any (fun e => e.2.ctx == ctx && e.2.prog == h && !e.2.isDone) then none
    else some (((s.forget (· == 65536 * ctx + h)).modCtx ctx (fun c => { c with progs := c.progs.del h })).doneItem q id 0)

/-! ### LAUNCH (13 R319) -/

/-- A unit that may be named by a pin: present and in service. -/
def State.unitServes (s : State) (u : Nat) : Bool :=
  u < 64 && (s.die (unitDie u)).present && !(s.die (unitDie u)).failed && (s.mu u).state == 0

/-- A die that can take work at all. -/
def State.dieServes (s : State) (d : Nat) : Bool :=
  let x := s.die d
  d < 4 && x.present && !x.failed && !x.disabled

end Sys2Proof.Machine
namespace Sys2Proof
open Sys2Proof.Machine

/-- Parameter values of launch i. -/
def LaunchPl.paramsOf (p : LaunchPl) (i : Nat) : Tab W64 :=
  let t := List.zip (List.range p.params.length) p.params
  if p.iv then Tab.put t p.ireg.val (BitVec.ofNat 64 i) else t

end Sys2Proof
namespace Sys2Proof.Machine

/-- The refusals of R319 and R160; 0 when none applies. -/
def State.launchCode (s : State) (c : Ctx) (p : LaunchPl) : Nat :=
  match c.progs.find p.prog with
  | none => 0x62
  | some g =>
    if p.rsv != 0 || p.params.length > 64 || p.count > 63 then 0x63
    else if p.pv && !((List.range (p.count + 1)).all (fun i => s.unitServes (p.pin + i))) then 0x63
    else if !p.pv && p.dies = 0 then 0x63
    else if (List.range (p.count + 1)).any (fun i =>
        (p.paramsOf i).any (fun e => (imgMax g.image e.1).toNat < e.2.toNat)) then 0x63
    else 0

end Sys2Proof.Machine
namespace Sys2Proof
open Sys2Proof.Machine

/-- Dies launch i may run on. -/
def LaunchPl.diesOf (p : LaunchPl) (i : Nat) : List Nat :=
  if p.pv then [unitDie (p.pin + i)] else (List.range 4).filter (flag p.dies)

end Sys2Proof
namespace Sys2Proof.Machine

/-- The launches of an item. -/
def State.makeLaunches (s : State) (q id ctx : Nat) (a : QAttrs) (p : LaunchPl) : State :=
  let add (s : State) (i : Nat) : State :=
    let x : Launch :=
      { queue := q, item := id, ctx, prog := p.prog, idx := i, params := p.paramsOf i, dies := p.diesOf i
        pin := if p.pv then some (p.pin + i) else none, lc := a.cls == 0, level := a.level
        startedAt := s.clock.refc, age := a.age / 10 }
    { s with launches := s.launches.put s.nextLaunch x, nextLaunch := s.nextLaunch + 1 }
  (List.range (p.count + 1)).foldl add s

/-- LAUNCH: its launches become ready, or it is refused (STATUS 2), or cancelled where some launch can run only on
disabled dies (STATUS 4, 13 R335). -/
def State.effLaunch (s : State) (q id : Nat) (p : LaunchPl) : Option State :=
  match s.queueCtx q, s.queues.find q with
  | some (ctx, c), some qu =>
    match s.launchCode c p with
    | 0 =>
      if (List.range (p.count + 1)).any (fun i => !(p.diesOf i).any s.dieServes) then some (s.finishItem q id 4 0 0)
      else some (s.makeLaunches q id ctx qu.attrs p)
    | k => some (s.refuseItem q id k)
  | _, _ => some (s.refuseItem q id 0x62)

/-! ### Command lists (05 R145 to R148; 06 R176, R177) -/

/-- LIST-BEGIN: a list is opened, and the items that follow are recorded (log 16). -/
def State.effListBegin (s : State) (q id : Nat) : Option State :=
  match (s.queues.find q).bind (·.recording), s.lists.free 1 0xFFFFFFFF with
  | none, some h =>
    let s := { s with lists := s.lists.put h { queue := q, entries := [] } }
    some ((s.modQueue q (fun x => { x with recording := some h })).doneItem q id 0)
  | _, _ => some (s.refuseItem q id 0x63)

/-- LIST-END: the list is closed and its handle returned. A list without entries is refused and dropped. -/
def State.effListEnd (s : State) (q id : Nat) : Option State :=
  match (s.queues.find q).bind (·.recording) with
  | none => some (s.refuseItem q id 0x63)
  | some h =>
    let s := s.modQueue q (fun x => { x with recording := none })
    match s.lists.find h with
    | some l =>
      if l.entries.isEmpty then some (({ s with lists := s.lists.del h }).refuseItem q id 0x63)
      else
        some (({ s with lists := s.lists.put h { l with closed := true } }).doneItem q id (BitVec.ofNat 64 h))
    | none => some (s.refuseItem q id 0x63)

/-- R145: record an item of an open list instead of running it: a launch, with its parameter values, or a NOP. -/
def State.recordItem (s : State) (q h : Nat) (it : QItem) : State :=
  match s.lists.find h with
  | none => s.refuseItem q it.id 0x63
  | some l =>
    let n := l.entries.length
    let keep (image : Tab (Tab W64)) : State :=
      let s := { s with lists := s.lists.put h { l with entries := l.entries ++ [(it.hdr, it.body)], image } }
      let s := s.modQueue q (fun x => { x with items := x.items.filter (fun i => i.id != it.id) })
      s.record q (it.hdr.tag, 0, 0, 0)
    if n ≥ 4096 then s.refuseItem q it.id 0x63
    else
      match it.body with
      | .launch p => keep (l.image.put n (List.zip (List.range 64) ((List.range 64).map (p.params.getD · 0))))
      | .nop => keep l.image
      | _ => s.refuseItem q it.id 0x63

/-- R148, R177: the patch table of a replay is good. -/
def Ctx.patchOk (c : Ctx) (list : Nat) (l : CmdList) (p : Patch) : Bool :=
  fld p.h0 7 0 == 1 && fld p.h0 15 8 == 0 && p.h1 == 0 && fld p.h0 63 32 == list &&
    fld p.h0 31 16 == p.entries.length && 1 ≤ p.entries.length && p.entries.length ≤ 4096 &&
    p.entries.all (fun e =>
      fld e.1 63 24 == 0 && fld e.1 11 8 == 0 && fld e.1 7 0 ≤ 63 &&
        (match l.entries[fld e.1 23 12]? with
          | some (_, .launch lp) =>
            (match c.progs.find lp.prog with
              | some g => e.2.toNat ≤ (imgMax g.image (fld e.1 7 0)).toNat
              | none => false)
          | _ => false))

/-- R146: apply a patch table to the parameter image, in table order. -/
def CmdList.patch (l : CmdList) (p : Patch) : CmdList :=
  { l with image := p.entries.foldl (fun im e =>
      im.put (fld e.1 23 12) ((im.get [] (fld e.1 23 12)).put (fld e.1 7 0) e.2)) l.image }

/-- A list entry as an item of its queue. -/
def CmdList.subItem (l : CmdList) (parent base n : Nat) (e : Header × ItemBody) : QItem :=
  let body := match e.2 with
    | .launch p => .launch { p with params := (List.range 64).map ((l.image.get [] n).get 0) }
    | b => b
  { id := base + n, hdr := e.1, body, parent := some (parent, n) }

/-- REPLAY: the patch lands at the replay boundary, then the entries stand in the queue behind their REPLAY item. -/
def State.effReplay (s : State) (q id list : Nat) (patch : Option Patch) : Option State :=
  match s.queueCtx q, s.lists.find list with
  | some (_, c), some l =>
    if l.queue != q || !l.closed then some (s.refuseItem q id 0x62)
    else if !((patch.map (c.patchOk list l)).getD true) then some (s.refuseItem q id 0x63)
    else
      let l := match patch with | some p => l.patch p | none => l
      let subs := (List.range l.entries.length).filterMap (fun n =>
        (l.entries[n]?).map (l.subItem id s.nextItem n))
      let s := { s with lists := s.lists.put list { l with running := some id }
                        nextItem := s.nextItem + l.entries.length }
      some (s.modQueue q (fun x => { x with
        items := x.items.flatMap (fun i => if i.id == id then i :: subs else [i]) }))
  | _, _ => some (s.refuseItem q id 0x62)

end Sys2Proof.Machine
end

