-- ==== Sys2Proof/Machine/Skims.lean ====
section
/-! DEFINITION. Sample slots and skim records (09 R237 to R239, R245, R249, R251 to R257): the effects of the skim items. -/
namespace Sys2Proof.Machine

/-! ### Slots -/

/-- A slot of a context. -/
def State.slotOf (s : State) (ctx slot : Nat) : Option Sample :=
  match s.samples.find slot with
  | some k => if k.ctx == ctx then some k else none
  | none => none

/-- R254: the code of a layer at a step by the schedule. -/
def Sample.scheduled (k : Sample) (n layer : Nat) : Nat :=
  let b := (k.base.getD layer 255).toNat
  if b = 255 then 255
  else
    let v : Int := b + toSigned 8 (k.adj.getD (min n 63) 0).toNat
    if v < 0 then 0 else if v > 127 then 127 else v.toNat

/-- The code of a layer at the slot's step (R237, R254). -/
def Sample.code (k : Sample) (layer : Nat) : Nat :=
  if k.attrs.skmode = 2 then k.scheduled k.step.toNat layer else k.codes.get k.attrs.tinit layer

/-- R245: whether a step number is a truing step of the slot. -/
def Sample.truingAt (k : Sample) (n : Nat) : Bool := k.attrs.skmode == 0 || n % k.attrs.truen == 0

/-- SKIM-BEGIN. The slot takes the skim attributes its queue has now. -/
def State.effSkimBegin (s : State) (q id : Nat) (base adj : List Byte) : Option State :=
  match s.queueCtx q, s.queues.find q with
  | some (ctx, c), some qu =>
    let two := qu.attrs.skmode == 2
    if (two && !(base.length == 1024 && adj.length == 64)) || (!two && !(base.isEmpty && adj.isEmpty)) then
      some (s.refuseItem q id 0x63)
    else if base.any (fun b => 128 ≤ b.toNat && b.toNat ≤ 254) then some (s.refuseItem q id 0x34)
    else
      let used := (s.samples.filter (fun e => e.2.part == c.part)).length
      match s.samples.free 0 127 with
      | some n =>
        if used ≥ s.cfg 0x4014 (c.part + 1) then some (s.refuseItem q id 0x31)
        else
          let k : Sample := { queue := q, ctx, part := c.part, attrs := qu.attrs, base, adj }
          some (({ s with samples := s.samples.put n k }).doneItem q id (BitVec.ofNat 64 n))
      | none => some (s.refuseItem q id 0x31)
  | _, _ => some (s.refuseItem q id 0x62)

/-! ### Records -/

def SkimRec.xref (r : SkimRec) : Nat := bits r.image.toNat 63 48
def SkimRec.yref (r : SkimRec) : Nat := bits r.image.toNat 47 32
def SkimRec.slot (r : SkimRec) : Nat := bits r.image.toNat 31 25
def SkimRec.layer (r : SkimRec) : Nat := bits r.image.toNat 24 15

/-- R239: the two reference descriptors. -/
def refsOk (c : Ctx) (x y : Nat) : Bool :=
  match c.descUse x 0, c.descUse x 1, c.descUse y 0, c.descUse y 1 with
  | some f, some _, some g, some _ =>
    f.kind == 0 && f.rank == 3 && f.sizes.getD 0 0 == 2 && f.inj && g.kind == 0 && g.rank == 2 && g.inj &&
      (g.etype == 0 || g.etype == 1) && g.wmode == 0 && g.sizes.getD 0 0 == f.sizes.getD 1 0
  | _, _, _, _ => false

/-- R238: reserved fields and the fields of access RO are zero. -/
def skimImageOk (im : BitVec 256) : Bool := fld im 14 0 == 0 && fld im 127 88 == 0 && fld im 255 128 == 0

/-- A pass of the context still names a record. -/
def State.skimHeld (s : State) (ctx h : Nat) : Bool :=
  s.mus.any (fun e =>
    (e.2.passQ ++ e.2.arr ++ (e.2.shadow.toList ++ e.2.fin ++ e.2.closing.toList).map (·.pass)).any (fun p =>
      match p.skim with | some k => k.ctx == ctx && k.recH == h | none => false))

/-- SKIM-REC: the fields of access RO start at the reset values of Table 9.1 (log 59). -/
def State.effSkimRec (s : State) (q id : Nat) (im : BitVec 256) : Option State :=
  match s.queueCtx q with
  | none => some (s.refuseItem q id 0x62)
  | some (ctx, _) =>
    let s := s.modCtx ctx (fun c => { c with skims := c.skims.filter (fun e => !e.2.dead || s.skimHeld ctx e.1) })
    let c := (s.ctxs.find ctx).getD { part := 0, fsr := [], slices := [], slotBase := [], saveAreas := [] }
    let r : SkimRec := { image := im }
    match s.slotOf ctx r.slot with
    | none => some (s.refuseItem q id 0x32)
    | some _ =>
      if !(skimImageOk im && refsOk c r.xref r.yref) then some (s.refuseItem q id 0x33)
      else
        match c.skims.free 1 65535 with
        | some h =>
          some ((s.modCtx ctx (fun c => { c with skims := c.skims.put h r })).doneItem q id (BitVec.ofNat 64 h))
        | none => some (s.refuseItem q id 0x33)

/-! ### The step advance (R245, R249, R252, R253, R257) -/

/-- R352: the slot is energy-short in the step that ends. -/
def Sample.short (k : Sample) : Bool :=
  k.ranDies.any (fun d => let g := k.gates.get (0, 0) d; g.1 > 0 && 2 * g.2 ≥ g.1)

/-- R252, R253: a layer's code after a measurement. -/
def adaptCode (a : QAttrs) (short : Bool) (t : Nat) (e : W32) : Nat :=
  let b := of32 a.budget
  let v := of32 e
  if b.lt v then (if t + 4 > 127 then 255 else t + 4)
  else if !(b.lt (v.mulExact (.fin false (2 ^ (unitE + 1))))) then
    (if t = 255 then 127 else max a.tmin (t - (if short then 2 else 1)))
  else t

/-- Orders 2 and 3 of Table 9.6 on the slot. -/
def Sample.advance (k : Sample) : Sample :=
  let next := k.step + 1
  let truing := k.truingAt next.toNat
  let adapt := k.attrs.skmode == 1 && k.truing
  let codes := if adapt then
      k.meas.foldl (fun t e => t.put e.1 (adaptCode k.attrs k.short (t.get k.attrs.tinit e.1) e.2)) k.codes
    else k.codes
  { k with step := next, codes, truing, gates := [], ranDies := [],
           meas := if adapt || truing then [] else k.meas }

/-- Orders 3 and 4 on a record: VALID after a truing step whose every tile was committed (R249). -/
def SkimRec.advance (r : SkimRec) (k : Sample) : SkimRec :=
  let valid := r.valid || (r.true' && !r.bad && r.tiles > 0)
  { r with valid, par := !r.par, true' := k.truingAt k.step.toNat || !valid, tcode := k.code r.layer,
           skipb := 0, strmb := 0, bad := false, tiles := 0 }

/-- SKIM-STEP, once every earlier item of its queue has completed. -/
def State.effSkimStep (s : State) (q id slot : Nat) : Option State :=
  match s.queueCtx q with
  | none => some (s.refuseItem q id 0x62)
  | some (ctx, _) =>
    match s.slotOf ctx slot with
    | none => some (s.refuseItem q id 0x32)
    | some k =>
      let before := ((s.queues.find q).map (fun x => x.items.takeWhile (fun i => i.id != id))).getD []
      if !before.isEmpty then none
      else
        let k := k.advance
        let s := { s with samples := s.samples.put slot k }
        let s := s.modCtx ctx (fun c => { c with skims := c.skims.map (fun e =>
          if e.2.slot == slot && !e.2.dead then (e.1, e.2.advance k) else e) })
        some (s.doneItem q id 0)

/-- The record as SKIM-QUERY returns it (Table 9.1), with the layer's code and, if any, its measurement (log 28). -/
def SkimRec.queryBytes (r : SkimRec) (k : Sample) : List Byte :=
  natLe 16 (r.image.toNat % 2 ^ 128) ++
    natLe 8 (b2n r.valid * 2 ^ 63 + b2n r.true' * 2 ^ 62 + b2n r.par * 2 ^ 61 + r.tcode * 2 ^ 53) ++
    natLe 8 (r.skipb * 2 ^ 32 + r.strmb) ++ natLe 1 (k.code r.layer) ++
    (match k.meas.find r.layer with | some e => natLe 4 e.toNat | none => [])

/-- SKIM-QUERY. -/
def State.effSkimQuery (s : State) (q id h : Nat) : Option State :=
  match s.queueCtx q with
  | none => some (s.refuseItem q id 0x62)
  | some (ctx, c) =>
    match c.skims.find h with
    | some r =>
      match s.slotOf ctx r.slot with
      | some k =>
        if r.dead then some (s.refuseItem q id 0x33)
        else some ((s.send (.itemData q (r.queryBytes k))).doneItem q id 0)
      | none => some (s.refuseItem q id 0x33)
    | none => some (s.refuseItem q id 0x33)

/-- Close a slot: its records stop being accepted. -/
def State.closeSlot (s : State) (slot : Nat) : State :=
  match s.samples.find slot with
  | some k =>
    let s := { s with samples := s.samples.del slot }
    s.modCtx k.ctx (fun c => { c with skims := c.skims.map (fun e =>
      if e.2.slot == slot then (e.1, { e.2 with dead := true }) else e) })
  | none => s

/-- SKIM-END. -/
def State.effSkimEnd (s : State) (q id slot : Nat) : Option State :=
  match s.queueCtx q with
  | none => some (s.refuseItem q id 0x62)
  | some (ctx, _) =>
    match s.slotOf ctx slot with
    | none => some (s.refuseItem q id 0x32)
    | some _ => some ((s.closeSlot slot).doneItem q id 0)

end Sys2Proof.Machine
end

