-- ==== Sys2Proof/Machine/Fabric.lean ====
section
/-! DEFINITION. The self-timed fabric (01 R13 to R15, R18, R24): the links of a package, their fixed routes, the blocks that
receive a word on its way. -/
namespace Sys2Proof.Machine

/-- A link between two dies; dies 0 to 3 are CD0 to CD3, 4 and 5 are IO0 and IO1. -/
structure Link where
  a : Nat
  b : Nat
  /-- the block of Table 20.3 at end `a`, and at end `b` -/
  blockA : Nat
  blockB : Nat
deriving DecidableEq, Repr

/-- R13, Table 1.2: the links of a variant. An I/O die's codes 28 and 29 are its links to the upper and the lower compute die
(20 Table 20.3): CD0 and CD3 on the left, CD1 and CD2 on the right. -/
def Variant.links (v : Variant) : List Link :=
  [⟨0, 1, 28, 28⟩, ⟨3, 2, 28, 28⟩, ⟨0, 3, 29, 29⟩, ⟨1, 2, 29, 29⟩, ⟨0, 4, 30, 28⟩, ⟨3, 4, 30, 29⟩] ++
    (if v == .kdx12 then [] else [⟨1, 5, 30, 28⟩, ⟨2, 5, 30, 29⟩])

/-- The block of die `d` at its end of its link to die `e`. -/
def Variant.linkBlock (v : Variant) (d e : Nat) : Option Nat :=
  v.links.findSome? (fun l => if l.a = d && l.b = e then some l.blockA else if l.b = d && l.a = e then some l.blockB else none)

/-- The die that a link block of a die leads to. -/
def Variant.linkAt (v : Variant) (d block : Nat) : Option Nat :=
  (List.range 6).find? (fun e => v.linkBlock d e == some block)

/-- R14, Table 1.3: the dies a word passes from one die to another, both included. -/
def fixedRoute (a b : Nat) : List Nat :=
  match a, b with
  | 0, 2 => [0, 1, 2]
  | 2, 0 => [2, 3, 0]
  | 1, 3 => [1, 0, 3]
  | 3, 1 => [3, 2, 1]
  | 4, 1 => [4, 0, 1]
  | 4, 2 => [4, 3, 2]
  | 5, 0 => [5, 1, 0]
  | 5, 3 => [5, 2, 3]
  | 1, 4 => [1, 0, 4]
  | 2, 4 => [2, 3, 4]
  | 0, 5 => [0, 1, 5]
  | 3, 5 => [3, 2, 5]
  | 4, 5 => [4, 0, 1, 5]
  | 5, 4 => [5, 2, 3, 4]
  | a, b => if a = b then [a] else [a, b]

/-- Dies in turn along a route. -/
def hops : List Nat → List (Nat × Nat)
  | a :: b :: t => (a, b) :: hops (b :: t)
  | _ => []

/-- R18: a word from die `a` to die `b` is received by block `block` of die `d`. -/
def Variant.receives (v : Variant) (a b d block : Nat) : Bool :=
  (hops (fixedRoute a b)).any (fun h => h.2 = d && v.linkBlock d h.1 == some block)

/-- Traffic in both directions between one die and others. -/
def Variant.crosses (v : Variant) (a : Nat) (bs : List Nat) (d block : Nat) : Bool :=
  bs.any (fun b => v.receives a b d block || v.receives b a d block)

/-- A block of a die is there: a link block only where its link is (Table 1.2). -/
def State.blockPresent (s : State) (d b : Nat) : Bool :=
  (s.die d).present && (!(28 ≤ b && b ≤ 30) || (s.variant.linkAt d b).isSome)

/-- 20 Table 20.3: a dual-rail block of a die that is present. -/
def State.dualRail (s : State) (d b : Nat) : Bool :=
  s.blockPresent d b &&
    (if d < 4 then b ≤ 30
     else d ≤ 5 && (b = 28 || b = 29 || b = 32 || b = 33 || (36 ≤ b && b ≤ 39) || (d = 4 && 44 ≤ b && b ≤ 48)))

/-- The dies that hold what an allocation maps: a host allocation's is its port's. -/
def State.allocDies (s : State) (al : Alloc) : List Nat :=
  match al.kind with
  | .device _ => (al.runs.map (fun r => r.1 / stackRange / s.spd)).eraseDups
  | .host p _ => [portDie p]
  | .slice d _ => [d]

/-- The dies that hold a range of a context's addresses. -/
def State.spanDies (s : State) (c : Ctx) (lo hi : Nat) : List Nat :=
  ((c.allocs.filter (fun e => e.2.va ≤ hi && lo < e.2.va + e.2.size)).flatMap (fun e => s.allocDies e.2)).eraseDups

end Sys2Proof.Machine
end

