-- ==== Sys2Proof/Machine/Spindle.lean ====
section
/-! DEFINITION. The Spindle engines (10 R259, R260, R264 to R271): the job record, its checks, and one output row. -/
namespace Sys2Proof.Machine

/-! ### The job record (Table 10.1) -/

structure JobF where
  src : Nat
  dst : Nat
  wgt : Nat
  nrm : Nat
  kh : Nat
  kw : Nat
  sy : Nat
  sx : Nat
  dy : Nat
  dx : Nat
  pads : List Nat
  uin : Bool
  uout : Bool
  nin : Bool
  nout : Bool
  clmp : Bool
  fmt : Bool
  oy0 : Nat
  rows : Nat
  die : Nat
  clo : W32
  chi : W32
  rsv : Nat
deriving DecidableEq, Repr

def jobOf (w : BitVec 512) : JobF :=
  let n := w.toNat
  let a := bits n 127 64
  let b := bits n 191 128
  { src := bits n 63 48, dst := bits n 47 32, wgt := bits n 31 16, nrm := bits n 15 0,
    kh := bits a 63 61 + 1, kw := bits a 60 58 + 1, sy := bits a 57 56 + 1, sx := bits a 55 54 + 1,
    dy := bits a 53 52 + 1, dx := bits a 51 50 + 1,
    pads := [bits a 49 47, bits a 46 44, bits a 43 41, bits a 40 38],
    uin := bit a 37, uout := bit a 36, nin := bit a 35, nout := bit a 34, clmp := bit a 33, fmt := bit a 32,
    oy0 := bits b 63 48, rows := bits b 47 32 + 1, die := bits b 31 30,
    clo := BitVec.ofNat 32 (bits n 255 224), chi := BitVec.ofNat 32 (bits n 223 192),
    rsv := bits a 31 0 + bits b 29 0 + bits n 511 256 +
      (if bits a 63 61 = 7 || bits a 60 58 = 7 then 1 else 0) +
      sumN ([bits a 49 47, bits a 46 44, bits a 43 41, bits a 40 38].map (fun p => if p = 7 then 1 else 0)) }

/-- Padding at the top and at the left. -/
def JobF.pt (j : JobF) : Nat := j.pads.getD 0 0
def JobF.pl (j : JobF) : Nat := j.pads.getD 2 0

/-- A descriptor's size in a dimension. -/
def DescF.dim (f : DescF) (i : Nat) : Nat := f.sizes.getD i 0

/-- R259: an output extent; none below 1. -/
def outDim (n p1 p2 dil k st : Nat) : Option Nat :=
  if dil * (k - 1) + 1 ≤ n + p1 + p2 then some ((n + p1 + p2 - dil * (k - 1) - 1) / st + 1) else none

/-- The four descriptors of a job; the table is none where the record names none. -/
structure JobD where
  src : DescF
  dst : DescF
  wgt : DescF
  nrm : Option DescF
deriving DecidableEq, Repr

def plainOf (f : DescF) (rank : Nat) (ets : List Nat) : Bool :=
  f.kind == 0 && f.sfmt == 0 && f.rank == rank && ets.contains f.etype

/-- 0x41: the handles and what they must be. -/
def JobF.descs (j : JobF) (c : Ctx) : Option JobD :=
  match c.descUse j.src 0, c.descUse j.dst 1, c.descUse j.wgt 0 with
  | some a, some b, some w =>
    let base := plainOf a 3 [0, 1, 2, 8] && b.kind == 0 && b.rank == 3 && [0, 1, 2, 3, 4, 8].contains b.etype &&
      b.inj && b.wmode == 0 && plainOf w 4 [if j.fmt then 2 else 1]
    if j.nin || j.nout then
      match c.descUse j.nrm 0 with
      | some t => if base && plainOf t 1 [0] then some ⟨a, b, w, some t⟩ else none
      | none => none
    else if base && j.nrm == 0 then some ⟨a, b, w, none⟩ else none
  | _, _, _ => none

/-- Output columns and rows of a job. -/
def JobF.oh (j : JobF) (d : JobD) : Option Nat := outDim (d.src.dim 1) (j.pads.getD 0 0) (j.pads.getD 1 0) j.dy j.kh j.sy
def JobF.ow (j : JobF) (d : JobD) : Option Nat := outDim (d.src.dim 2) (j.pads.getD 2 0) (j.pads.getD 3 0) j.dx j.kw j.sx

/-- 0x42. -/
def JobF.geometryOk (j : JobF) (d : JobD) : Bool :=
  let cin := d.src.dim 0
  let cout := d.dst.dim 0
  d.wgt.sizes == [cout, cin, j.kh, j.kw] && j.oh d == some (d.dst.dim 1) && j.ow d == some (d.dst.dim 2) &&
    j.oy0 + j.rows ≤ d.dst.dim 1 &&
    (match d.nrm with
      | some t => t.dim 0 == (if j.nin then 2 * cin else 0) + (if j.nout then 2 * cout else 0)
      | none => true)

/-- Input columns inside the plane that output columns lo to hi - 1 read: the first, and how many (R265). -/
def JobF.colsOf (j : JobF) (d : JobD) (lo hi : Nat) : Nat × Nat :=
  let first : Int := (j.sx * lo : Nat) - (j.pl : Int)
  let last : Int := (j.sx * (hi - 1) + j.dx * (j.kw - 1) : Nat) - (j.pl : Int)
  let a := if first < 0 then 0 else first.toNat
  let b := if last ≥ (d.src.dim 2 : Int) then d.src.dim 2 - 1 else last.toNat
  (a, if last < 0 then 0 else b + 1 - a)

def JobF.colsRead (j : JobF) (d : JobD) (lo hi : Nat) : Nat := (j.colsOf d lo hi).2

/-- Columns read by one row, summed over the strips (R265). -/
def JobF.rowCols (j : JobF) (d : JobD) : Nat :=
  let ow := d.dst.dim 2
  sumN ((List.range (cdiv ow 512)).map (fun i => j.colsRead d (512 * i) (min ow (512 * i + 512))))

/-- 0x43: limits. One row of one group is charged its steps (R264) and the bytes it brings in and out: the input rows
that its stride adds, and its outputs (log 29). -/
def JobF.limitsOk (j : JobF) (d : JobD) : Bool :=
  let cin := d.src.dim 0
  let cout := d.dst.dim 0
  let q := if cout < 16 then 16 / cout else 1
  let steps := cdiv (d.dst.dim 2) (64 * q) * cdiv (cin * j.kh * j.kw) 16
  let bytes := cin * (etBits d.src.etype / 8) * min j.sy ((j.kh - 1) * j.dy + 1) * j.rowCols d +
    min cout 16 * d.dst.dim 2 * (etBits d.dst.etype / 8)
  cin * j.kh * j.kw ≤ 2048 &&
    cin * ((j.kh - 1) * j.dy + 1) * (511 * j.sx + (j.kw - 1) * j.dx + 1) * 2 ≤ 0x100000 &&
    steps ≤ 150000 && bytes ≤ 102400000

/-- 0x44: flags. -/
def JobF.flagsOk (j : JobF) (d : JobD) : Bool :=
  j.rsv == 0 && (!j.uin || d.src.etype == 8) && (!j.uout || d.dst.etype == 8) &&
    (!j.clmp || !((of32 j.clo).isNan || (of32 j.chi).isNan || (of32 j.chi).lt (of32 j.clo)))

/-- 0x45: the byte ranges of source and destination do not meet. -/
def apart (a b : DescF) : Bool :=
  let x := a.span
  let y := b.span
  x.2 < y.1 || y.2 < x.1

/-- R270: the code of the first check that fails, 0 when all pass. -/
def State.jobCode (s : State) (c : Ctx) (j : JobF) : Nat :=
  match j.descs c with
  | none => 0x41
  | some d =>
    if !j.geometryOk d then 0x42
    else if !j.limitsOk d then 0x43
    else if !j.flagsOk d then 0x44
    else if !apart d.src d.dst then 0x45
    else if (s.die j.die).spindleOut || (s.die j.die).failed || !(s.die j.die).present then 0x47
    else 0

/-- The jobs of an engine as work of R325 (14 R342 for the lead estimate). -/
def jobCands (js : List SpinJob) : List Cand :=
  (List.zip (List.range js.length) js).map (fun e =>
    { key := e.1, lc := e.2.lc, level := e.2.level, urgent := false, since := e.2.startedAt, part := e.2.part,
      lead := e.2.lastEnergy })

/-- Between rows the engine turns to the job the dispatcher picks (R271, 13 R325). -/
def State.turnSpin (s : State) (d : Nat) : State :=
  let js := s.spin.get [] d
  let x := s.die d
  if js.any (fun j => x.spinCur == some (j.queue, j.item)) then s
  else
    let s := s.modDie d (fun y => { y with spinCur := none })
    if x.spindleOut || !s.dieDispatches d then s
    else
      match s.pick d (jobCands js) with
      | some (c, run, _) =>
        match js[c.key]? with
        | some j => s.modDie d (fun y =>
            { y with lcrun := run, spinCur := some (j.queue, j.item), spinFrom := s.clock.refc })
        | none => s
      | none => s

/-- SPINDLE-RUN: accepted by its die's engine, its seed latched (11 Table 11.2). -/
def State.effSpindleRun (s : State) (q id : Nat) (w : BitVec 512) : Option State :=
  match s.queueCtx q, s.queues.find q with
  | some (ctx, c), some qu =>
    let j := jobOf w
    match s.jobCode c j with
    | 0 =>
      if (s.die j.die).disabled then some (s.finishItem q id 4 0 0)
      else
        let slot := (((j.descs c).map (·.dst.seedSlot))).getD 0
        let job : SpinJob :=
          { part := c.part, queue := q, item := id, ctx, job := w, seed := c.seed slot, lc := qu.attrs.cls == 0,
            level := qu.attrs.level, startedAt := s.clock.refc }
        some (({ s with spin := s.spin.put j.die (s.spin.get [] j.die ++ [job]) }).turnSpin j.die)
    | k => some (s.refuseItem q id k)
  | _, _ => some (s.refuseItem q id 0x62)

/-! ### One output row (R266 to R268) -/

/-- The normalisation element at an index. -/
def SpinBuf.norm (b : SpinBuf) (i : Nat) : FV := of32 (BitVec.ofNat 32 (b.nrm.getD i 0))

/-- R266: an input element of the band after the input stage; `cols` are the columns the band holds. -/
def SpinBuf.input (b : SpinBuf) (j : JobF) (d : JobD) (cols : Nat × Nat) (ch y x : Nat) : FV :=
  let code := (b.band.get [] y).getD (ch * cols.2 + (x - cols.1)) 0
  let v := if j.uin then ofIntV code else etValue d.src.etype code
  let fmt := if j.fmt then fp16 else bf16
  let v := if j.nin then v.fma (b.norm (2 * ch)) (b.norm (2 * ch + 1)) else v
  fmt.decode (cvtFloat fmt .nearest false ⟨v, false⟩).1

/-- The taps of an output element in logical K order (R260): channel, kernel row, kernel column. -/
def JobF.taps (j : JobF) (cin : Nat) : List (Nat × Nat × Nat) :=
  (List.range j.kh).flatMap (fun ky => (List.range j.kw).flatMap (fun kx =>
    (List.range cin).map (fun c => (c, ky, kx))))

/-- The columns of the input that a strip reads. -/
def JobF.strip (j : JobF) (d : JobD) (k : Nat) : Nat × Nat :=
  j.colsOf d (512 * k) (min (d.dst.dim 2) (512 * k + 512))

/-- R267: one output element, accumulated from -0; positions outside the plane enter as +0. -/
def SpinBuf.acc (b : SpinBuf) (j : JobF) (d : JobD) (n oy ox : Nat) : FV :=
  let cols := j.strip d b.strip
  (List.zip (j.taps (d.src.dim 0)) (b.wgt.get [] n)).foldl (fun acc e =>
    let y : Int := (j.sy * oy + j.dy * e.1.2.1 : Nat) - (j.pt : Int)
    let x : Int := (j.sx * ox + j.dx * e.1.2.2 : Nat) - (j.pl : Int)
    let inside := 0 ≤ y && y < (d.src.dim 1 : Int) && 0 ≤ x && x < (d.src.dim 2 : Int)
    let a := if inside then b.input j d cols e.1.1 y.toNat x.toNat else .fin false 0
    a.fma (etValue d.wgt.etype e.2) acc) (.fin true 0)

/-- R268, steps 1 and 2. -/
def SpinBuf.output (b : SpinBuf) (j : JobF) (d : JobD) (n : Nat) (y : FV) : FV :=
  let o := if j.nin then 2 * d.src.dim 0 else 0
  let v := if j.nout then y.fma (b.norm (o + 2 * n)) (b.norm (o + 2 * n + 1)) else y
  if j.clmp then (v.max (of32 j.clo)).min (of32 j.chi) else v

/-! ### The buffers of an engine (R265) -/

/-- Codes of a descriptor's elements in order, to the first access that fails. -/
def State.spinRead (s : State) (c : Ctx) (f : DescF) : List (List Nat) → State × AccR × List Nat
  | [] => (s, .ok, [])
  | x :: xs =>
    match s.descGet c f x with
    | (s, .ok, v) =>
      let (s, r, vs) := State.spinRead s c f xs
      (s, r, v :: vs)
    | (s, e, _) => (s, e, [])

/-- Several blocks of elements, each under its key. -/
def State.spinReads (s : State) (c : Ctx) (f : DescF) : List (Nat × List (List Nat)) → Tab (List Nat) → State × AccR × Tab (List Nat)
  | [], t => (s, .ok, t)
  | (k, xs) :: r, t =>
    match s.spinRead c f xs with
    | (s, .ok, vs) => State.spinReads s c f r (t.put k vs)
    | (s, e, _) => (s, e, t)

/-- Input rows inside the plane that an output row's taps name. -/
def JobF.rowsOf (j : JobF) (d : JobD) (oy : Nat) : List Nat :=
  (List.range j.kh).filterMap (fun ky =>
    let y : Int := (j.sy * oy + j.dy * ky : Nat) - (j.pt : Int)
    if 0 ≤ y && y < (d.src.dim 1 : Int) then some y.toNat else none)

/-- R265: the buffers for a row of a job: what the engine holds of the job stays, the rest is read: the normalisation table at
its first row, the weights at a group's, and of a strip's input the rows that are new; rows above are given up. -/
def State.spinFill (s : State) (die : Nat) (c : Ctx) (j : JobF) (d : JobD) (x : SpinJob) (lanes : List Nat) (oy : Nat) :
    State × AccR × SpinBuf :=
  let b : Option SpinBuf := match s.spinBuf.find die with
    | some b => if b.queue = x.queue && b.item = x.item then some b else none
    | none => none
  let new : SpinBuf := { queue := x.queue, item := x.item, group := x.group, strip := x.strip }
  let nrm : State × AccR × List Nat := match b, d.nrm with
    | some b, _ => (s, .ok, b.nrm)
    | none, some t => s.spinRead c t ((List.range (t.dim 0)).map (fun i => [i]))
    | none, none => (s, .ok, [])
  match nrm with
  | (s, .ok, nrm) =>
    let held := b.filter (fun b => b.group = x.group)
    let taps := j.taps (d.src.dim 0)
    let wgt : State × AccR × Tab (List Nat) := match held with
      | some b => (s, .ok, b.wgt)
      | none => s.spinReads c d.wgt (lanes.map (fun n => (n, taps.map (fun t => [n, t.1, t.2.1, t.2.2])))) []
    match wgt with
    | (s, .ok, wgt) =>
      let rows := j.rowsOf d oy
      let band : Tab (List Nat) := ((held.filter (fun b => b.strip = x.strip)).map (fun b =>
        b.band.filter (fun e => j.sy * oy ≤ e.1 + j.pt))).getD []
      let cols := j.strip d x.strip
      let block (y : Nat) : List (List Nat) :=
        (List.range (d.src.dim 0)).flatMap (fun ch => (List.range cols.2).map (fun i => [ch, y, cols.1 + i]))
      let (s, r, band) := s.spinReads c d.src ((rows.filter (fun y => !band.has y)).map (fun y => (y, block y))) band
      (s, r, { new with nrm, wgt, band })
    | (s, e, _) => (s, e, new)
  | (s, e, _) => (s, e, new)

/-- UOUT: an integer from 0 to 255; a saturation counts as an overflow. -/
def unsignedByte (mode : RMode) (v : FV) : Nat × Cnt :=
  match v with
  | .nan _ => (0, ⟨0, 1⟩)
  | .inf neg => (if neg then 0 else 255, ⟨1, 0⟩)
  | .fin neg m =>
    let k := roundAt unitE mode m false / 2 ^ unitE
    if neg && k > 0 then (0, ⟨1, 0⟩) else if k > 255 then (255, ⟨1, 0⟩) else (k, ⟨0, 0⟩)

/-- R268, step 3, and the write. -/
def State.spinPut (s : State) (c : Ctx) (j : JobF) (f : DescF) (seed : BitVec 96) (x : List Nat) (v : FV) :
    State × AccR × Cnt :=
  if j.uout then
    let r := if f.rmode = 2 then chatter24 seed f.stream f.draw (f.linear x) else 0
    let (code, k) := unsignedByte (Sys2Proof.rmode f.rmode r) v
    match s.descPut c f x code with
    | (s, e) => (s, e, k)
  else
    match s.writePlain c f seed [{ idx := x, v }] {} with
    | (s, r) => (s, r.acc, r.cnt)

/-- The elements of a row in turn, to the first write that fails. -/
def State.spinElems (s : State) (c : Ctx) (j : JobF) (d : JobD) (b : SpinBuf) (seed : BitVec 96) (oy : Nat) :
    List (Nat × Nat) → Cnt → State × AccR × Cnt
  | [], k => (s, .ok, k)
  | (n, ox) :: t, k =>
    match s.spinPut c j d.dst seed [n, oy, ox] (b.output j d n (b.acc j d n oy ox)) with
    | (s, .ok, k') => State.spinElems s c j d b seed oy t (k.add k')
    | (s, e, _) => (s, e, k)

/-- The place of the next row: rows, then strips, then groups (R265); none when the job is complete. -/
def SpinJob.advance (x : SpinJob) (rows strips groups : Nat) : Option SpinJob :=
  if x.row + 1 < rows then some { x with row := x.row + 1 }
  else if x.strip + 1 < strips then some { x with row := 0, strip := x.strip + 1 }
  else if x.group + 1 < groups then some { x with row := 0, strip := 0, group := x.group + 1 }
  else none

/-! ### SPINDLE_ROW -/

/-- 13 R327: the row's time to its job's context. -/
def State.accountSpin (s : State) (d : Nat) (x : SpinJob) : State :=
  let ns := 10 * (s.now - (s.die d).spinFrom.toNat)
  let i := if x.lc then 1 else 4
  (s.noteWork d x.ctx x.lc).modCtx x.ctx (fun c => { c with acct := c.acct.set i (BitVec.ofNat 64 ((c.acct.getD i 0).toNat + ns)) })

def State.putJobs (s : State) (d : Nat) (js : List SpinJob) : State := { s with spin := s.spin.put d js }

/-- Run the row at a job's place; its job goes on, ends, or stops (R271: a disable lets the row finish). -/
def State.spinRow (s : State) (d k : Nat) (x : SpinJob) : State :=
  let js := s.spin.get [] d
  let rest := js.eraseIdx k
  match s.ctxs.find x.ctx with
  | none => s.putJobs d rest
  | some c =>
    let j := jobOf x.job
    let desc (h : Nat) : DescF := descOf (((c.descs.find h).map (·.image)).getD 0)
    let g : JobD := ⟨desc j.src, desc j.dst, desc j.wgt, if j.nin || j.nout then some (desc j.nrm) else none⟩
    let cout := g.dst.dim 0
    let ow := g.dst.dim 2
    let lanes := (List.range (min 16 (cout - 16 * x.group))).map (16 * x.group + ·)
    let cols := (List.range (min 512 (ow - 512 * x.strip))).map (512 * x.strip + ·)
    let s0 := s
    let row (s : State) : State × AccR × Cnt :=
      match s.spinFill d c j g x lanes (j.oy0 + x.row) with
      | (s, .ok, b) =>
        ({ s with spinBuf := s.spinBuf.put d b }).spinElems c j g b x.seed (j.oy0 + x.row)
          (lanes.flatMap (fun n => cols.map (fun o => (n, o)))) {}
      | (s, e, _) => (s, e, {})
    match row s with
    | (s, acc, cnt) =>
      let s := (s.countDesc x.ctx j.dst 0 cnt).accountSpin d x
      let (n, s) := s.draw
      let x := { x with lastEnergy := Config.freeNat n (2 ^ 32) }
      match acc with
      | .ok =>
        match x.advance j.rows (cdiv ow 512) (cdiv cout 16) with
        | none => ((s.putJobs d rest).doneItem x.queue x.item 0).sweepDescs x.ctx
        | some y =>
          if x.stop then
            (((s.putJobs d rest).forceItem x.queue x.item (5, 0, 0)).doneItem x.queue x.item 0).sweepDescs x.ctx
          else s.putJobs d (js.set k y)
      | bad =>
        let s := s.putJobs d rest
        let s := match s0.ownFill bad with
          | .hbm 2 a => s.raise (s.hbmRecord 0x23 2 a (some x.part) (some x.ctx) (some x.queue))
          | .sram dd b idx sy => s.raise (sramRecord dd b idx sy (some x.part) (some x.ctx) (some x.queue))
          | _ => s
        (s.finishItem x.queue x.item 3 0x46 0).sweepDescs x.ctx

/-- The place of the job that a die's engine runs among its jobs, and the job. -/
def State.spinJob (s : State) (d : Nat) : Option (Nat × SpinJob) :=
  let js := s.spin.get [] d
  match findPos (fun j => (s.die d).spinCur == some (j.queue, j.item)) js 0 with
  | some k => js[k]?.map (fun j => (k, j))
  | none => none

/-- The engine of a die completes one output row of the job it runs, and turns to the next. -/
def State.spindleRow (s : State) (d : Nat) : State :=
  match s.spinJob d with
  | some (k, j) => ((s.spinRow d k j).modDie d (fun y => { y with spinCur := none })).turnSpin d
  | none => s

/-- The job that an engine runs ends with STATUS 3 and CODE 0x46. -/
def State.spinFail (s : State) (d : Nat) (j : SpinJob) : State :=
  let s := s.putJobs d ((s.spin.get [] d).filter (fun x => !(x.queue == j.queue && x.item == j.item)))
  (((s.finishItem j.queue j.item 3 0x46 0).sweepDescs j.ctx).modDie d (fun y => { y with spinCur := none })).turnSpin d

/-- The dies that hold what a job reads and writes. -/
def State.jobDies (s : State) (x : SpinJob) : List Nat :=
  match s.ctxs.find x.ctx with
  | none => []
  | some c =>
    let j := jobOf x.job
    ([j.src, j.dst, j.wgt] ++ (if j.nin || j.nout then [j.nrm] else [])).flatMap (fun h =>
      match c.descs.find h with
      | some d => let f := descOf d.image; s.spanDies c f.span.1.toNat f.span.2.toNat
      | none => [])

end Sys2Proof.Machine
end

