-- ==== Sys2Proof/Machine/Contexts.lean ====
section
/-! DEFINITION. Admin items (13 R311 to R317, R330 to R337): contexts, their save and restore, queues, allocations and
synchronisation objects. Their handles are the lowest free numbers (log 16). -/
namespace Sys2Proof.Machine

/-! ### Physical memory of a partition (log 15) -/

/-- The prefix tree and its buckets, at the top of stack 0 (08 R230). -/
def treeBase : Nat := stackBytes - 0x2200000

/-- Bytes a page table takes: ADDR of Table 13.3 names addresses of 64 KiB (log 88). -/
def tableBytes : Nat := 0x10000

/-- Physical ranges that are taken: the prefix tree, allocations, save areas and page tables. -/
def State.takenRanges (s : State) : List (Nat × Nat) :=
  (treeBase, 0x2200000) :: s.ctxs.flatMap (fun e =>
    e.2.saveAreas.flatMap id ++ e.2.allocs.flatMap (fun a => a.2.runs) ++ e.2.tables.map (fun t => (t.2, tableBytes)))

/-- A free range without a taken one. -/
def cutRange (t r : Nat × Nat) : List (Nat × Nat) :=
  if t.2 = 0 || t.1 + t.2 ≤ r.1 || r.1 + r.2 ≤ t.1 then [r]
  else
    (if r.1 < t.1 then [(r.1, t.1 - r.1)] else []) ++
    (if t.1 + t.2 < r.1 + r.2 then [(t.1 + t.2, r.1 + r.2 - (t.1 + t.2))] else [])

/-- Free ranges of a partition on the stacks a test admits, lowest address first. -/
def State.freeRanges (s : State) (p : Nat) (ok : Nat → Bool) : List (Nat × Nat) :=
  let own := ((s.extents p).filter (fun e => ok e.1 && e.1 < s.stackCount && (s.stack e.1).state != 3)).map (fun e =>
    (stackRange * e.1 + frameBytes * e.2.1, extentBytes e))
  sortBy (fun a b => a.1 < b.1) (s.takenRanges.foldl (fun rs t => rs.flatMap (cutRange t)) own)

/-- Whole pages from free ranges until `need` bytes are found. -/
def takePages (page : Nat) : List (Nat × Nat) → Nat → Option (List (Nat × Nat))
  | _, 0 => some []
  | [], _ + 1 => none
  | (a, n) :: rs, need + 1 =>
    let b := cdiv a page * page
    let room := (a + n - b) / page * page
    let k := min room (need + 1)
    if b ≥ a + n || k = 0 then takePages page rs (need + 1)
    else if k = need + 1 then some [(b, k)]
    else (takePages page rs (need + 1 - k)).map ((b, k) :: ·)

/-- Whole pages from the high ends of free ranges, the highest range first. -/
def takeHigh (page : Nat) : List (Nat × Nat) → Nat → Option (List (Nat × Nat))
  | _, 0 => some []
  | [], _ + 1 => none
  | (a, n) :: rs, need + 1 =>
    let b := cdiv a page * page
    let e := (a + n) / page * page
    let k := min (e - b) (cdiv (need + 1) page * page)
    if k = 0 then takeHigh page rs (need + 1)
    else (takeHigh page rs (need + 1 - k)).map ((e - k, k) :: ·)

/-! ### Page tables (R315) -/

/-- The tables a context needs: its level 1 table, and below it one for each entry that is a pointer. -/
def Ctx.tableKeys (c : Ctx) : List Nat :=
  let under (a : Alloc) (level : Nat) : List Nat :=
    let n := pageSpan (level - 1)
    (List.range ((a.va + a.size - 1) / n + 1 - a.va / n)).map (fun i => tableKey level ((a.va / n + i) * n))
  let t : Tab Unit := c.allocs.foldl (fun t e =>
    ((if e.2.page == 0x200000 then [2, 3] else [2, 3, 4]).flatMap (under e.2)).foldl (fun t k => t.put k ()) t)
    [(tableKey 1 0, ())]
  t.keys

/-- The tables of a context as its allocations need them: those that stand stay, those without a valid entry are given back,
new ones come from the high end of the partition's memory (log 88); none where there is no room. -/
def State.tablesFor (s : State) (p : Nat) (c : Ctx) : Option (Tab Nat) :=
  let keys := c.tableKeys
  let kept : Tab Nat := c.tables.filter (fun e => keys.contains e.1)
  let new := keys.filter (fun k => !kept.has k)
  (takeHigh tableBytes (s.freeRanges p (fun _ => true)).reverse (tableBytes * new.length)).map (fun rs =>
    let bases := rs.flatMap (fun r => (List.range (r.2 / tableBytes)).map (fun i => r.1 + tableBytes * i))
    (List.zip new bases).foldl (fun t e => t.put e.1 e.2) kept)

/-! ### Contexts -/

/-- R313: bytes of a footprint on a die. -/
def footBytes (fsr : Nat) (slices : W16) : Nat :=
  slotBytes * (16 * fsr) + sliceBytes * ((List.range 16).filter (flag slices)).length

/-- R313: a footprint the partition may have. -/
def State.footOk (s : State) (p : Nat) (fsr : List Nat) (slices : List W16) : Bool :=
  (List.range 4).all (fun d =>
    let f := fsr.getD d 0
    let m := slices.getD d 0
    f ≤ 384 && footBytes f m ≤ 0x6400000 &&
      (List.range 16).all (fun i => !flag m i || (bit (s.cfg 0x4015 (p + 1)) (16 * d + i) && s.isScratch d i)))

/-- R330: the save areas of a footprint, die by die, at the high end of the partition's memory; each lies on its die's own
stacks. -/
def State.takeSave (s : State) (p : Nat) (fsr : List Nat) (slices : List W16) : Option (List (List (Nat × Nat))) :=
  (List.range 4).foldr (fun d acc =>
    match acc, takeHigh 0x10000 (s.freeRanges p (fun k => k / s.spd == d)).reverse
        (footBytes (fsr.getD d 0) (slices.getD d 0) + 0x100000) with
    | some xs, some x => some (x :: xs)
    | _, _ => none) (some [])

/-- First slot of a new footprint: clear of the others where there is room (log 15). -/
def State.newSlots (s : State) (fsr : List Nat) : List Nat :=
  let n := maxN fsr
  let used := s.ctxs.map (fun e => (e.2.slotBase.headD 0, maxN e.2.fsr))
  let b := (firstFit used n 384).getD 0
  [b, b, b, b]

/-- An admin queue's partition and port. -/
def State.adminOf (s : State) (q : Nat) : Option (Nat × Nat) :=
  (s.queues.find q).bind (fun x => if x.ctx.isNone then some (x.part, x.port) else none)

def State.openCtxs (s : State) (p : Nat) : Nat := (s.ctxs.filter (fun e => e.2.part == p)).length
def State.openQueues (s : State) (p : Nat) : Nat := (s.queues.filter (fun e => e.2.part == p)).length

/-- A context of a partition. -/
def State.ctxOf (s : State) (p c : Nat) : Option Ctx :=
  match s.ctxs.find c with
  | some x => if x.part == p then some x else none
  | none => none

/-- CTX-CREATE; in bring-up mode it is refused (21 R478). -/
def State.effCtxCreate (s : State) (q id : Nat) (fsr : List Nat) (slices : List W16) : Option State :=
  match s.adminOf q with
  | none => some (s.refuseItem q id 0x62)
  | some (p, _) =>
    if !(fsr.length == 4 && slices.length == 4) then some (s.refuseItem q id 0x63)
    else if s.start.bringUp = 1 then some (s.refuseItem q id 0x67)
    else if s.openCtxs p ≥ s.cfg 0x4011 (p + 1) then some (s.refuseItem q id 0x61)
    else if !s.footOk p fsr slices then some (s.refuseItem q id 0x66)
    else
      match s.takeSave p fsr slices, s.ctxs.free 0 16383 with
      | some areas, some c =>
        let x : Ctx := { part := p, fsr, slices, slotBase := s.newSlots fsr, saveAreas := areas }
        match ({ s with ctxs := s.ctxs.put c x }).tablesFor p x with
        | some tables => some (({ s with ctxs := s.ctxs.put c { x with tables } }).doneItem q id (BitVec.ofNat 64 c))
        | none => some (s.refuseItem q id 0x65)
      | none, _ => some (s.refuseItem q id 0x65)
      | _, none => some (s.refuseItem q id 0x61)

/-- Everything a context holds outside its own record is released: key-value records, sample slots, codec streams. -/
def State.dropCtx (s : State) (c : Nat) : State :=
  let s := (s.kv.recs.filter (fun e => e.2.ctx == c)).foldl (fun s e => s.releaseRec e.1 e.2) s
  let s := ((s.samples.filter (fun e => e.2.ctx == c)).map (·.1)).foldl State.closeSlot s
  let s := s.forget (fun n => n / 65536 == c)
  let hs := s.codecs.flatMap (fun e => (e.2.streams.filter (fun x => x.2.ctx == c)).map (fun x => 64 * e.1 + x.1))
  let s := hs.foldl State.closeStream s
  { s with ctxs := s.ctxs.del c, launches := s.launches.filter (fun e => e.2.ctx != c) }

/-- CTX-DESTROY: the context is disabled first (R335), and goes when nothing of it runs. -/
def State.effCtxDestroy (s : State) (q id c : Nat) : Option State :=
  match s.adminOf q with
  | none => some (s.refuseItem q id 0x62)
  | some (p, _) =>
    match s.ctxOf p c with
    | none => some (s.refuseItem q id 0x62)
    | some _ =>
      if !(s.queuesOf c).isEmpty then some (s.refuseItem q id 0x67)
      else
        let mine := s.disables.filter (fun e => e.2.scope == .ctx c)
        if s.scopeIdle (.ctx c) then
          some (((mine.foldl (fun s e => s.closeDisable e.1 e.2) s).dropCtx c).doneItem q id 0)
        else if mine.isEmpty then some (s.startDisable { scope := .ctx c, fence := none, at' := s.clock.refc })
        else none

/-! ### CTX-SAVE and CTX-RESTORE (R331 to R333; log 25) -/

/-- Units present and in service, as UNITMAP names them. -/
def State.unitMap (s : State) : W64 :=
  (List.range 64).foldl (fun m u => if s.unitInService u then m ||| BitVec.ofNat 64 (2 ^ u) else m) 0

/-- R329: a context's footprints on every die, resident or saved. -/
def State.allFeet (s : State) (c : Ctx) : Tab SavedFoot :=
  (List.range 4).foldl (fun t d =>
    if c.resident.contains d then t.put d (s.footOf c d)
    else match c.savedFoot.find d with
      | some f => t.put d f
      | none => t) []

/-- 0x67: what keeps a context from being saved. -/
def State.saveBusy (s : State) (c : Nat) : Bool :=
  s.kv.recs.any (fun e => e.2.ctx == c) ||
    (s.queuesOf c).any (fun q => ((s.queues.find q).bind (·.recording)).isSome) ||
    s.codecs.any (fun e => e.2.streams.any (fun x => x.2.ctx == c))

/-- Ask every running launch of a context for a parting point. -/
def State.askSave (s : State) (c : Nat) : State :=
  (s.launchesOf (fun x => x.ctx == c)).foldl (fun s l => s.modLaunch l (fun x =>
    match x.st with
    | .running _ => { x with why := if x.why.contains .save then x.why else x.why ++ [.save] }
    | _ => x)) s

/-- Launches of a context that stand at no parting point yet. -/
def State.moving (s : State) (c : Nat) : Bool :=
  s.launches.any (fun e => e.2.ctx == c && (match e.2.st with | .running _ => true | .ending => true | _ => false))

/-- Table 13.10 up to DIGEST. -/
def State.imageHead (s : State) (c : Ctx) (len : Nat) : List Byte :=
  natLe 8 (2 * 2 ^ 48 + 1 * 2 ^ 32 + len % 2 ^ 32) ++
    natLe 8 (512 * 2 ^ 48 + 16 * 2 ^ 40 + 4 * 2 ^ 32 + s.variant.code * 2 ^ 24 + 2 + b2n c.laneFlag) ++
    c.fsr.flatMap (natLe 2) ++ c.slices.flatMap (fun m => natLe 2 m.toNat)

/-- Write the image once every launch stands at a parting point. -/
def State.writeImage (s : State) (q id c : Nat) (x : Ctx) (al : Alloc) (h : Nat) : State :=
  let words := (List.range 4).flatMap (fun d => if x.resident.contains d then (x.wordsOn d).map (fun w => (d, w)) else [])
  let (s, good) := words.foldl (fun (a : State × Bool) w =>
    let (s, g) := a.1.readFoot c x.part w.1 [w.2]
    (s, a.2 && g)) (s, true)
  if !good then (s.markNotRestorable c).refuseItem q id 0x6A
  else
    let (k, s) := s.draw
    let least := if x.laneFlag then 257 else 1
    let len := Config.freeNat k (2 ^ 32) % (2 ^ 32 - least) + least
    if 4096 * len > al.size then s.refuseItem q id 0x63
    else
      let body := natLe 8 s.unitMap.toNat ++ Config.freeBytes k (4096 * len - 0x48)
      let digest := sha3_256 body
      let saved : Saved :=
        { digest, ctx := { x with savedFoot := s.allFeet x, resident := [] }
          launches := (s.launches.filter (fun e => e.2.ctx == c && !e.2.isDone)).map (·.2)
          slots := s.samples.filter (fun e => e.2.ctx == c), clean := true, unitmap := s.unitMap }
      let s0 := s
      match s.ctxWrite (x.unlocked h) al.va (s.imageHead x len ++ digest ++ body) with
      | (s, .ok) => ({ s with saved := saved :: s.saved.filter (fun e => e.digest != digest) }).doneItem q id 0
      | (s, e) => s.failItem q id (s0.ownFill e)

/-- R337: disables that waited for a context's save start when it ends. -/
def State.startDeferred (s : State) (c : Nat) : State :=
  match s.ctxs.find c with
  | some x =>
    x.afterSave.foldl (fun s sc => s.startDisable { scope := sc, fence := none, at' := s.clock.refc })
      (s.modCtx c (fun y => { y with afterSave := [] }))
  | none => s

/-- CTX-SAVE: the launches part first. -/
def State.effCtxSave (s : State) (q id c h : Nat) : Option State :=
  match s.adminOf q with
  | none => some (s.refuseItem q id 0x62)
  | some (p, _) =>
    match s.ctxOf p c with
    | none => some (s.refuseItem q id 0x62)
    | some x =>
      match x.allocs.find h with
      | none => some (s.refuseItem q id 0x62)
      | some al =>
        if x.notRestorable then some ((s.refuseItem q id 0x6A).startDeferred c)
        else if s.saveBusy c then some ((s.refuseItem q id 0x67).startDeferred c)
        else if s.moving c then some (s.askSave c)
        else some ((s.writeImage q id c x al h).startDeferred c)

/-- Re-created allocations at the same virtual bases, from a partition's memory; none where there is no room. -/
def State.remap (s : State) (p : Nat) : Tab Alloc → Option (State × Tab Alloc)
  | [] => some (s, [])
  | (h, a) :: t =>
    match a.kind with
    | .device m =>
      match takePages a.page (s.freeRanges p (fun k => flag m k)) a.size with
      | none => none
      | some runs =>
        let s := runs.foldl (fun s r => s.scrambleMem r.1 r.2) s
        -- the runs count as taken while the rest is placed
        let hold : Ctx := { part := p, fsr := [], slices := [], slotBase := [], saveAreas := [runs] }
        match State.remap { s with ctxs := s.ctxs.put (100000 + h) hold } p t with
        | some (s, t) => some (s, (h, { a with runs, locked := false }) :: t)
        | none => none
    | _ =>
      match State.remap s p t with
      | some (s, t) => some (s, (h, { a with locked := false }) :: t)
      | none => none

/-- R333: the geometry of an image does not fit this device. -/
def State.geometryBad (s : State) (w0 w1 : Nat) (map : W64) : Bool :=
  bits w0 63 48 != 2 || !bit w1 1 ||
    (bit w1 0 && (bits w1 63 48 != 512 || bits w1 47 40 != 16 || bits w1 39 32 != 4 ||
      (List.range 64).any (fun u => flag map u && !s.unitInService u)))

/-- Sample slots of an image find their numbers again, or the lowest free ones. -/
def State.placeSlots (s : State) (c p : Nat) : List (Nat × Sample) → Option (State × List (Nat × Nat))
  | [] => some (s, [])
  | (n, k) :: t =>
    match (if s.samples.has n then s.samples.free 0 127 else some n) with
    | none => none
    | some m =>
      match State.placeSlots { s with samples := s.samples.put m { k with ctx := c, part := p, queue := 65536 } } c p t with
      | some (s, r) => some (s, (n, m) :: r)
      | none => none

/-- A record's image with its sample slot renumbered. -/
def SkimRec.renumber (r : SkimRec) (m : List (Nat × Nat)) : SkimRec :=
  match m.find? (fun e => e.1 == r.slot) with
  | some e => { r with image := BitVec.ofNat 256 (r.image.toNat - r.slot * 2 ^ 25 + e.2 * 2 ^ 25) }
  | none => r

/-- The images of a restored context take their words in the instruction stores anew, lowest first (log 15). -/
def State.placeProgs (s : State) (c : Nat) (y : Ctx) : Tab Program → Option Ctx
  | [] => some y
  | (h, g) :: t =>
    match firstFit (s.storeUsed c y) g.image.code.length 32768 with
    | some b => State.placeProgs s c { y with progs := y.progs.put h { g with ibase := b } } t
    | none => none

/-- R312: a host allocation of an image names a port that is not the partition's. -/
def State.foreignPort (s : State) (p : Nat) (allocs : Tab Alloc) : Bool :=
  allocs.any (fun e => match e.2.kind with | .host port _ => !bit (s.portMask p) port | _ => false)

/-- 11 R286: the jump state rebuilt from the recorded operands of the last RNG-JUMP. -/
def Ctx.rebuiltJump (x : Ctx) : Tab (List Jump) :=
  match x.jumpOp with
  | none => []
  | some (slot, stream, mask) =>
    ((List.range 64).filter (flag mask)).foldl (fun t u => t.put u (jumpUnit (x.seed slot) stream u)) []

/-- The context an image describes, with the footprint, memory and slots it takes here: all but its images' places and tables. -/
def Saved.rebuilt (v : Saved) (hold : Ctx) (allocs : Tab Alloc) (nums : List (Nat × Nat)) : Ctx :=
  let x := v.ctx
  { hold with
    seeds := x.seeds, jumpOp := x.jumpOp, laneFlag := x.laneFlag
    jump := if x.laneFlag then x.jump else x.rebuiltJump
    fences := x.fences, descs := x.descs, allocs
    skims := x.skims.map (fun e => (e.1, e.2.renumber nums))
    savedFoot := x.savedFoot }

/-- An image's programs, at the slots of the new footprint. -/
def Saved.programs (v : Saved) (hold : Ctx) : Tab Program :=
  v.ctx.progs.map (fun e => (e.1, { e.2 with base := e.2.base - v.ctx.slotOrg + hold.slotOrg }))

/-- Create the context an image describes. -/
def State.restoreCtx (s : State) (q id p : Nat) (v : Saved) : State :=
  let x := v.ctx
  if s.openCtxs p ≥ s.cfg 0x4011 (p + 1) then s.refuseItem q id 0x61
  else if !s.footOk p x.fsr x.slices then s.refuseItem q id 0x66
  else if s.foreignPort p x.allocs then s.refuseItem q id 0x63
  else
    match s.takeSave p x.fsr x.slices, s.ctxs.free 0 16383 with
    | some areas, some c =>
      let hold : Ctx := { part := p, fsr := x.fsr, slices := x.slices, slotBase := s.newSlots x.fsr, saveAreas := areas }
      match State.remap { s with ctxs := s.ctxs.put c hold } p x.allocs with
      | none => s.refuseItem q id 0x65
      | some (s2, allocs) =>
        match ({ s2 with ctxs := s2.ctxs.filter (fun e => e.1 < 100000) }).placeSlots c p v.slots with
        | none => s.refuseItem q id 0x61
        | some (s2, nums) =>
          let put (s : State) (l : Launch) : State :=
            { s with launches := s.launches.put s.nextLaunch { l with ctx := c, queue := 65536, why := [], reqBy := none }
                     nextLaunch := s.nextLaunch + 1 }
          match s2.placeProgs c (v.rebuilt hold allocs nums) (v.programs hold) with
          | none => s.refuseItem q id 0x65
          | some y =>
            match ({ s2 with ctxs := s2.ctxs.put c y }).tablesFor p y with
            | none => s.refuseItem q id 0x65
            | some tables =>
              (v.launches.foldl put { s2 with ctxs := s2.ctxs.put c { y with tables } }).doneItem q id (BitVec.ofNat 64 c)
    | none, _ => s.refuseItem q id 0x65
    | _, none => s.refuseItem q id 0x61

end Sys2Proof.Machine
namespace Sys2Proof.Config
open Sys2Proof.Machine

/-- R332: what the body of an image stands for that another device of the same level wrote; its layout is not stated, so this
is free (log 25), and none where it stands for no context. -/
opaque savedOf : List Byte → Option Saved

end Sys2Proof.Config
namespace Sys2Proof.Machine

/-- A launch of an image stands at a parting point or was never dispatched. -/
def Launch.stands (l : Launch) : Bool := match l.st with | .fresh | .parked _ _ _ _ _ => true | _ => false

/-- The context of an image from elsewhere: its launches at parting points. -/
def foreignImage (body : List Byte) : Option Saved :=
  (Config.savedOf body).map (fun v => { v with launches := v.launches.filter Launch.stands })

/-- An image's context with the footprint and the flag of its header (Table 13.10). -/
def Saved.headed (v : Saved) (bs : List Byte) (lanes : Bool) : Saved :=
  let u16 (o d : Nat) : Nat := leNat ((bs.drop (o + 2 * d)).take 2)
  { v with ctx := { v.ctx with
      fsr := (List.range 4).map (u16 0), slices := (List.range 4).map (fun d => BitVec.ofNat 16 (u16 8 d)), laneFlag := lanes } }

/-- CTX-RESTORE. -/
def State.effCtxRestore (s : State) (q id h hc : Nat) : Option State :=
  match s.adminOf q with
  | none => some (s.refuseItem q id 0x62)
  | some (p, _) =>
    match (s.ctxOf p hc).bind (fun c => (c.allocs.find h).map (fun a => (c, a))) with
    | none => some (s.refuseItem q id 0x62)
    | some (c, al) =>
      let s0 := s
      match s.ctxRead c al.va 0x48 with
      | (s, .ok, hd) =>
        let w0 := leNat (hd.take 8)
        let w1 := leNat ((hd.drop 8).take 8)
        let map : W64 := BitVec.ofNat 64 (leNat (hd.drop 0x40))
        let len := 4096 * bits w0 31 0
        if s.geometryBad w0 w1 map then some (s.refuseItem q id 0x68)
        else if len > al.size || len < 0x48 then some (s.refuseItem q id 0x69)
        else
          match s.ctxRead c (al.va + 0x40) (len - 0x40) with
          | (s, .ok, body) =>
            let digest := (hd.drop 0x20).take 0x20
            if sha3_256 body != digest then some (s.refuseItem q id 0x69)
            else
              match s.saved.find? (fun e => e.digest == digest) with
              | some v => some (s.restoreCtx q id p v)
              | none =>
                match foreignImage body with
                | some v => some (s.restoreCtx q id p (v.headed (hd.drop 0x10) (bit w1 0)))
                | none => some (s.refuseItem q id 0x69)
          | (s, e, _) => some (s.failItem q id (s0.ownFill e))
      | (s, e, _) => some (s.failItem q id (s0.ownFill e))

/-- CTX-DISABLE: the item ends when the disable does; it waits for a save of the context (R337). -/
def State.effCtxDisable (s : State) (q id c k : Nat) (v : W64) : Option State :=
  match s.adminOf q with
  | none => some (s.refuseItem q id 0x62)
  | some (p, _) =>
    match s.ctxOf p c, s.sems.find k with
    | some x, some m =>
      if m.part ≠ p then some (s.refuseItem q id 0x62)
      else if x.notRestorable then some (s.refuseItem q id 0x6A)
      else if s.saving c then none
      else some (s.startDisable
        { scope := .ctx c, fence := some (k, v), at' := s.clock.refc, item := some (q, id) })
    | _, _ => some (s.refuseItem q id 0x62)

/-! ### Queues -/

end Sys2Proof.Machine
namespace Sys2Proof
open Sys2Proof.Machine

/-- Table 13.4 and 09 Table 9.4: every attribute in range. -/
def QAttrs.ok (a : QAttrs) : Bool :=
  a.cls ≤ 1 && a.level ≤ 15 && 10000 ≤ a.age && a.age ≤ 10000000000 && a.dpol ≤ 2 && a.fpol ≤ 1 && 1 ≤ a.bt &&
    a.bt ≤ 128 && a.bw ≤ 255 && a.skmode ≤ 2 && (FV.fin false 0).lt (of32 a.budget) && 1 ≤ a.truen && a.truen ≤ 64 &&
    (a.tinit ≤ 127 || a.tinit == 255) && a.tmin ≤ 127 && 16 ≤ a.depth && a.depth ≤ 65536

/-- 16 Table 16.5: a transport block whose ring keeps `depth` records. -/
def Transport.ok (t : Transport) (depth : Nat) : Bool :=
  fld t.w0 63 48 == 0 && fld t.w1 63 48 == 0 && fld t.w2 63 48 == 0 && fld t.w3 24 0 == 0 && t.sqbase % 64 == 0 &&
    t.cqbase % 16 == 0 && t.ptrs % 8 == 0 && 12 ≤ t.sqlog && t.sqlog ≤ 26 && depth ≤ 2 ^ t.cqlog && t.cqlog ≤ 20 &&
    1 ≤ t.ccnt

end Sys2Proof
namespace Sys2Proof.Machine

/-- R336: a context marked not restorable. -/
def State.spoilt (s : State) (c : Option Nat) : Bool := ((c.bind s.ctxs.find).map (·.notRestorable)).getD false

/-- A queue of a context of a partition. -/
def State.queueOf (s : State) (p q : Nat) : Option Queue :=
  match s.queues.find q with
  | some x => if x.part == p && x.ctx.isSome then some x else none
  | none => none

/-- Q-CREATE. -/
def State.effQCreate (s : State) (q id c : Nat) (a : QAttrs) (t : Transport) : Option State :=
  match s.adminOf q with
  | none => some (s.refuseItem q id 0x62)
  | some (p, port) =>
    match s.ctxOf p c with
    | none => some (s.refuseItem q id 0x62)
    | some x =>
      if x.notRestorable then some (s.refuseItem q id 0x6A)
      else if !(a.ok && t.ok a.depth) then some (s.refuseItem q id 0x63)
      else if s.openQueues p ≥ s.cfg 0x4012 (p + 1) then some (s.refuseItem q id 0x61)
      else
        match s.queues.free 0 65535 with
        | some n =>
          let y : Queue := { ctx := some c, part := p, port, attrs := a, tr := t, disabled := x.disabled }
          some (({ s with queues := s.queues.put n y }).doneItem q id (BitVec.ofNat 64 n))
        | none => some (s.refuseItem q id 0x61)

/-- A disable of a queue, or of its context, is in progress. -/
def State.disabling (s : State) (q : Nat) : Bool :=
  s.disables.any (fun e => match e.2.scope with
    | .queue n => n == q
    | .ctx c => ((s.queues.find q).bind (·.ctx)) == some c
    | _ => false)

/-- Q-SET: refused while its queue is being disabled (R337). -/
def State.effQSet (s : State) (q id n : Nat) (a : QAttrs) (clr : Bool) : Option State :=
  match s.adminOf q with
  | none => some (s.refuseItem q id 0x62)
  | some (p, _) =>
    match s.queueOf p n with
    | none => some (s.refuseItem q id 0x62)
    | some x =>
      if s.spoilt x.ctx then some (s.refuseItem q id 0x6A)
      else if s.disabling n then some (s.refuseItem q id 0x67)
      else if !(a.ok && a.depth ≤ 2 ^ x.tr.cqlog) then some (s.refuseItem q id 0x63)
      else some ((s.modQueue n (fun x => { x with attrs := a, halted := x.halted && !clr })).doneItem q id 0)

/-- Q-DISABLE. -/
def State.effQDisable (s : State) (q id n k : Nat) (v : W64) : Option State :=
  match s.adminOf q with
  | none => some (s.refuseItem q id 0x62)
  | some (p, _) =>
    match s.queueOf p n, s.sems.find k with
    | some x, some m =>
      if m.part ≠ p then some (s.refuseItem q id 0x62)
      else if s.spoilt x.ctx then some (s.refuseItem q id 0x6A)
      else if (x.ctx.map s.saving).getD false then none
      else some (s.startDisable
        { scope := .queue n, fence := some (k, v), at' := s.clock.refc, item := some (q, id) })
    | _, _ => some (s.refuseItem q id 0x62)

/-- Q-DESTROY: the queue is disabled and idle. -/
def State.effQDestroy (s : State) (q id n : Nat) : Option State :=
  match s.adminOf q with
  | none => some (s.refuseItem q id 0x62)
  | some (p, _) =>
    match s.queueOf p n with
    | none => some (s.refuseItem q id 0x62)
    | some x =>
      if !x.disabled || !x.items.isEmpty || s.disabling n then some (s.refuseItem q id 0x67)
      else
        let s := { s with queues := s.queues.del n, lists := s.lists.filter (fun e => e.2.queue != n)
                          gov := { s.gov with hist := s.gov.hist.del n } }
        some (s.doneItem q id 0)

/-! ### Allocations -/

/-- 0x63: page size, alignment and the parts each kind needs. -/
def State.allocOk (s : State) (p va size page : Nat) (kind : AllocKind) : Bool :=
  (page == 0x10000 || page == 0x200000) && va % page == 0 && size % page == 0 && size != 0 && va + size ≤ 2 ^ 48 &&
    (match kind with
      | .device _ => true
      | .host port a => bit (s.portMask p) port && a % page == 0 && a + size ≤ 2 ^ 52
      | .slice d i => d < 4 && i < 16 && size ≤ sliceBytes)

/-- MEM-ALLOC. -/
def State.effMemAlloc (s : State) (q id c va size page : Nat) (kind : AllocKind) (wr : Bool) : Option State :=
  match s.adminOf q with
  | none => some (s.refuseItem q id 0x62)
  | some (p, _) =>
    match s.ctxOf p c with
    | none => some (s.refuseItem q id 0x62)
    | some x =>
      if x.notRestorable then some (s.refuseItem q id 0x6A) else
      let slicesOk := match kind with | .slice d i => flag (x.slices.getD d 0) i | _ => true
      if !s.allocOk p va size page kind then some (s.refuseItem q id 0x63)
      else if !slicesOk then some (s.refuseItem q id 0x66)
      else if x.allocs.any (fun e => e.2.va < va + size && va < e.2.va + e.2.size) then some (s.refuseItem q id 0x64)
      else
        let runs := match kind with
          | .device m => takePages page (s.freeRanges p (fun k => flag m k)) size
          | _ => some []
        match runs, x.allocs.free 1 0xFFFFFFFF with
        | some runs, some h =>
          let y : Ctx := { x with allocs := x.allocs.put h { va, size, page, kind, wr, runs } }
          match ({ s with ctxs := s.ctxs.put c y }).tablesFor p y with
          | some tables => some (({ s with ctxs := s.ctxs.put c { y with tables } }).doneItem q id (BitVec.ofNat 64 h))
          | none => some (s.refuseItem q id 0x65)
        | _, _ => some (s.refuseItem q id 0x65)

/-- 0x67: a live descriptor or an open record names an allocation (04 R114). -/
def State.allocNamed (s : State) (c h : Nat) (x : Ctx) (a : Alloc) : Bool :=
  x.descs.any (fun e => (descOf e.2.image).alloc == h) ||
    s.kv.recs.any (fun e => e.2.ctx == c && (e.2.alloc == h ||
      e.2.entries.any (fun k => a.va ≤ k.base && k.base < a.va + a.size)))

/-- MEM-FREE. -/
def State.effMemFree (s : State) (q id c h : Nat) : Option State :=
  match s.adminOf q with
  | none => some (s.refuseItem q id 0x62)
  | some (p, _) =>
    match s.ctxOf p c with
    | none => some (s.refuseItem q id 0x62)
    | some x =>
      if x.notRestorable then some (s.refuseItem q id 0x6A) else
      let s := s.sweepDescs c
      match (s.ctxOf p c).bind (fun x => (x.allocs.find h).map (fun a => (x, a))) with
      | none => some (s.refuseItem q id 0x62)
      | some (x, a) =>
        if s.allocNamed c h x a then some (s.refuseItem q id 0x67)
        else
          let y : Ctx := { x with allocs := x.allocs.del h }
          some (({ s with ctxs := s.ctxs.put c { y with tables := (s.tablesFor p y).getD y.tables } }).doneItem q id 0)

/-! ### Synchronisation objects (R323, R324) -/

/-- SEM-CREATE. -/
def State.effSemCreate (s : State) (q id : Nat) (v : W64) : Option State :=
  match s.adminOf q with
  | none => some (s.refuseItem q id 0x62)
  | some (p, _) =>
    if (s.sems.filter (fun e => e.2.part == p)).length ≥ s.cfg 0x4013 (p + 1) then some (s.refuseItem q id 0x61)
    else
      match s.sems.free 0 16383 with
      | some k =>
        some (({ s with sems := s.sems.put k { part := p, value := v, failed := v } }).doneItem q id (BitVec.ofNat 64 k))
      | none => some (s.refuseItem q id 0x61)

/-- SEM-DESTROY: items that wait on the object end with STATUS 2. -/
def State.effSemDestroy (s : State) (q id k : Nat) : Option State :=
  match s.adminOf q with
  | none => some (s.refuseItem q id 0x62)
  | some (p, _) =>
    match s.sems.find k with
    | some m =>
      if m.part ≠ p then some (s.refuseItem q id 0x62)
      else
        let waiting := s.queues.flatMap (fun e =>
          (e.2.items.filter (fun i => i.st == .waiting && i.hdr.wv && i.hdr.wsem == k && e.2.part == p)).map (fun i =>
            (e.1, i.id)))
        let s := s.noteWaits k m.value
        let s := waiting.foldl (fun s w => s.refuseItem w.1 w.2 0x62) { s with sems := s.sems.del k }
        some (s.doneItem q id 0)
    | none => some (s.refuseItem q id 0x62)

end Sys2Proof.Machine
end

