-- ==== Sys2Proof/Machine/Queues.lean ====
section
/-! DEFINITION. Submission queues (13 R317 to R324, R334, R501): how an item is checked, started and carried out, deadlines,
and one command per item of Table 13.7 and 15 Table 15.3. -/
namespace Sys2Proof.Machine

/-! ### Kinds and lengths of items -/

/-- The Kind column of Table 13.7. -/
inductive ItemKind where
  | streaming | barrier | admin
deriving DecidableEq, Repr

end Sys2Proof.Machine
namespace Sys2Proof
open Sys2Proof.Machine

def ItemBody.kind : ItemBody → ItemKind
  | .launch _ | .replay _ _ | .spindleRun _ | .nop | .codecFrame _ | .codecRelease _ _ | .unknown _ => .streaming
  | .listBegin | .listEnd | .descCreate _ | .descDestroy _ | .descStatus _ _ | .load _ | .unload _ | .kvOpen _
  | .kvExtend _ _ _ _ _ | .kvMatch _ _ _ | .kvPublish _ _ | .kvClose _ | .skimBegin _ _ | .skimRec _ | .skimStep _
  | .skimQuery _ | .skimEnd _ | .rngSeed _ _ _ | .rngJump _ _ _ _ | .codecOpen _ _ | .codecClose _ => .barrier
  | .ctxCreate _ _ | .ctxDestroy _ | .ctxSave _ _ | .ctxRestore _ _ | .ctxDisable _ _ _ | .qCreate _ _ _ | .qSet _ _ _
  | .qDisable _ _ _ | .qDestroy _ | .memAlloc _ _ _ _ _ _ | .memFree _ _ | .semCreate _ | .semDestroy _ => .admin

/-- R501: PLEN of the items of fixed payload, in 16-byte units. -/
def ItemBody.fixedLen : ItemBody → Option Nat
  | .descCreate _ => some 8
  | .spindleRun _ => some 4
  | .codecFrame _ => some 4
  | .nop => some 0
  | _ => none

/-- R501: bytes an item's own fields declare, where its parts have stated sizes. -/
def ItemBody.declared : ItemBody → Nat
  | .launch p => 16 + 8 * p.params.length
  | .load im => 4 * im.code.length + 8 * im.est.length + 128 * im.ltabs.length + 32 * im.stages.length + 8 * im.pmax.length
  | .kvOpen p => 16 * p.entries.length
  | .kvExtend _ _ _ new repl => 16 * (new.length + repl.length)
  | .skimBegin b a => b.length + a.length
  | .skimRec _ => 32
  | .codecOpen _ pool => 64 + 16 * pool.length
  | _ => 0

/-- The length checks of R501. A REPLAY's list handle stands in 16 bytes, and its patch table, if it carries one, is as long
as its entries (06 R176; DEDUCED, log 71). -/
def ItemBody.lenOk (b : ItemBody) (plen : Nat) : Bool :=
  match b with
  | .replay _ none => plen == 1
  | .replay _ (some p) => plen == 2 + p.entries.length
  | b =>
    match b.fixedLen with
    | some n => plen == n
    | none => b.declared ≤ 16 * plen

end Sys2Proof
namespace Sys2Proof.Machine

/-- R501, and the objects the header names; 0 when nothing is wrong. An entry that a REPLAY runs had its length checked when
it was recorded. -/
def State.headerCode (s : State) (qu : Queue) (h : Header) (b : ItemBody) (entry : Bool := false) : Nat :=
  let named := match b with | .unknown _ => false | _ => true
  if h.rsv != 0 || !named || ((b.kind == .admin) != qu.ctx.isNone) || (h.dline != 0 && qu.attrs.cls != 0) ||
      !(entry || b.lenOk h.plen) then 0x63
  else if (h.wv && (s.semOf qu.part h.wsem).isNone) || (h.sv && (s.semOf qu.part h.ssem).isNone) then 0x62
  else 0

/-! ### The effect of a started item -/

/-- none: what the item waits for has not come. -/
def State.effect (s : State) (q id : Nat) : ItemBody → Option State
  | .launch p => s.effLaunch q id p
  | .replay l p => s.effReplay q id l p
  | .listBegin => s.effListBegin q id
  | .listEnd => s.effListEnd q id
  | .spindleRun w => s.effSpindleRun q id w
  | .nop => some (s.doneItem q id 0)
  | .descCreate im => s.effDescCreate q id im
  | .descDestroy h => s.effDescDestroy q id h
  | .descStatus h c => s.effDescStatus q id h c
  | .load im => s.effLoad q id im
  | .unload h => s.effUnload q id h
  | .kvOpen p => s.effKvOpen q id p
  | .kvExtend h o n e r => s.effKvExtend q id h o n e r
  | .kvMatch h t n => s.effKvMatch q id h t n
  | .kvPublish h t => s.effKvPublish q id h t
  | .kvClose h => s.effKvClose q id h
  | .skimBegin b a => s.effSkimBegin q id b a
  | .skimRec im => s.effSkimRec q id im
  | .skimStep n => s.effSkimStep q id n
  | .skimQuery h => s.effSkimQuery q id h
  | .skimEnd n => s.effSkimEnd q id n
  | .rngSeed n v r => s.effRngSeed q id n v r
  | .rngJump n z m r => s.effRngJump q id n z m r
  | .ctxCreate f m => s.effCtxCreate q id f m
  | .ctxDestroy c => s.effCtxDestroy q id c
  | .ctxSave c a => s.effCtxSave q id c a
  | .ctxRestore a c => s.effCtxRestore q id a c
  | .ctxDisable c k v => s.effCtxDisable q id c k v
  | .qCreate c a t => s.effQCreate q id c a t
  | .qSet n a c => s.effQSet q id n a c
  | .qDisable n k v => s.effQDisable q id n k v
  | .qDestroy n => s.effQDestroy q id n
  | .memAlloc c va n pg k w => s.effMemAlloc q id c va n pg k w
  | .memFree c a => s.effMemFree q id c a
  | .semCreate v => s.effSemCreate q id v
  | .semDestroy k => s.effSemDestroy q id k
  | .codecOpen r p => s.effCodecOpen q id r p
  | .codecFrame p => s.effCodecFrame q id p
  | .codecRelease h m => s.effCodecRelease q id h m
  | .codecClose h => s.effCodecClose q id h
  | .unknown _ => some (s.refuseItem q id 0x63)

/-- Started items whose effect is tried again (log 22). -/
def State.retries (s : State) (q : Nat) (i : QItem) : Bool :=
  i.st == .started &&
    (match i.body with
      | .unload _ | .skimStep _ | .rngJump _ _ _ _ | .ctxSave _ _ | .ctxDestroy _ | .codecClose _ => true
      | .ctxDisable _ _ _ | .qDisable _ _ _ => !s.disables.any (fun e => e.2.item == some (q, i.id))
      | _ => false)

/-! ### Deadlines (R334) -/

/-- Launches of an item. -/
def State.itemLaunches (s : State) (q id : Nat) : List Nat := s.launchesOf (fun x => x.queue == q && x.item == id)

/-- Demote: what remains runs as best-effort work, aged from now; running time so far was latency-critical (R327). -/
def State.demote (s : State) (q id : Nat) : State :=
  let s := (s.itemLaunches q id).foldl (fun s l =>
    let s := match s.launches.find l with
      | some x => (match x.st with | .running _ => s.accountPair x | _ => s)
      | none => s
    s.modLaunch l (fun x => { x with lc := false, level := 0, startedAt := s.clock.refc, dispatchedAt := s.clock.refc })) s
  let down (j : SpinJob) : SpinJob :=
    if j.queue == q && j.item == id then { j with lc := false, level := 0, startedAt := s.clock.refc } else j
  let spin : Tab (List SpinJob) := s.spin.map (fun e => (e.1, e.2.map down))
  { s with spin }

/-- A frame of the item has begun on an engine (15 R371). -/
def State.framed (s : State) (q id : Nat) : Bool :=
  s.codecs.any (fun e => (e.2.cur.map (fun f => f.queue == q && f.item == id)).getD false)

/-- Take a frame that has not begun off its stream. -/
def State.unqueueFrame (s : State) (q id : Nat) : State :=
  let cut (x : Stream) : Stream := x.cutReady (fun r => !(r.1 == q && r.2.1 == id))
  let codecs : Tab Engine := s.codecs.map (fun e => (e.1, { e.2 with streams := e.2.streams.map (fun x => (x.1, cut x.2)) }))
  { s with codecs }

/-- Drop one item. -/
def State.drop (s : State) (q id : Nat) : State :=
  match s.item q id with
  | none => s
  | some it =>
    if s.framed q id then s
    else if it.st == .waiting then s.finishItem q id 6 0 0
    else
      let s := s.forceItem q id (6, 0, 0)
      match it.body with
      | .launch _ => (s.itemLaunches q id).foldl (fun s l => s.stopLaunch l .drop (6, 0, 0)) s
      | .spindleRun _ => s.stopJobs (fun _ j => j.queue == q && j.item == id) (6, 0, 0)
      | .codecFrame _ => (s.unqueueFrame q id).finishItem q id 6 0 0
      | _ => s

/-- A miss: reported, and DPOL applied to the item and to the list entries it runs. -/
def State.miss (s : State) (q id : Nat) : State :=
  match s.queues.find q with
  | none => s
  | some qu =>
    let dpol := (((qu.item id).map (fun i => i.attrsIn qu)).getD qu.attrs).dpol
    let s := s.modItem q id (fun i => { i with missed := true, demoted := dpol == 2 })
    let s := s.raise (s.missRecord q qu)
    let ids := (qu.items.filter (fun i => match i.parent with | some (p, _) => p == id | none => false)).map (·.id)
    match dpol with
    | 1 => (ids ++ [id]).foldl (fun s i => s.drop q i) s
    | 2 => (ids ++ [id]).foldl (fun s i => s.demote q i) s
    | _ => s

/-- DEADLINE_MISS. -/
def execDeadlineMiss (q : Nat) (item : Nat) (s : State) : Out :=
  .next (match s.queues.find q with
  | none => s
  | some qu =>
    match qu.item item with
    | some it => if s.late qu it && !it.missed then s.miss q item else s
    | none => s)

/-! ### Starting items (R320, R324) -/

/-- Start the given item: its own deadline, then its effect. -/
def State.startItem (s : State) (q : Nat) (it : QItem) : State :=
  let attrs := (s.queues.find q).map (·.attrs)
  let late := ((s.queues.find q).map (fun qu => s.late qu it)).getD false && !it.missed
  let s := s.modItem q it.id (fun i => { i with st := .started, startedAt := s.clock.refc, attrs })
  let s := { s with gov := { s.gov with idleSince := none } }
  let s := if late then s.miss q it.id else s
  match s.item q it.id with
  | none => s
  | some i =>
    if i.forced.isSome then s.doneItem q it.id 0
    else
      let s := (s.effect q it.id it.body).getD s
      if i.demoted then s.demote q it.id else s

/-- 05 R147: the list a REPLAY names is running. -/
def State.replayHeld (s : State) (q : Nat) (b : ItemBody) : Bool :=
  match b with
  | .replay l _ => ((s.lists.find l).map (fun x => x.queue == q && x.running.isSome)).getD false
  | _ => false

/-- What may happen to the first waiting item of a queue: none when it must wait. -/
def State.tryStart (s : State) (q : Nat) (qu : Queue) (it : QItem) : Option State :=
  let earlier := qu.items.takeWhile (fun i => i.id != it.id)
  let clear := if it.body.kind == .streaming then earlier.all (fun i => i.body.kind == .streaming) else earlier.isEmpty
  let code := s.headerCode qu it.hdr it.body it.parent.isSome
  let isEnd := match it.body with | .listEnd => true | _ => false
  if !clear || qu.halted || qu.disabled || !qu.waitRecs.isEmpty then none
  else if code ≠ 0 then some (s.refuseItem q it.id code)
  else
    match qu.recording, isEnd || it.parent.isSome with
    | some h, false => some (s.recordItem q h it)
    | _, _ =>
      if it.hdr.wv then
        match s.semOf qu.part it.hdr.wsem with
        | some m =>
          if m.value < it.hdr.wval then none
          else if it.hdr.wf && it.hdr.wval ≤ m.failed then some (s.finishItem q it.id 7 0 0)
          else if s.replayHeld q it.body then none
          else some (s.startItem q it)
        | none => some (s.refuseItem q it.id 0x62)
      else if s.replayHeld q it.body then none
      else some (s.startItem q it)

/-- Start items of a queue in order, as far as they may start. -/
def State.pumpF (s : State) (q : Nat) : Nat → State
  | 0 => s
  | n + 1 =>
    match s.queues.find q with
    | none => s
    | some qu =>
      match qu.items.find? (fun i => i.st == .waiting) with
      | none => s
      | some it =>
        match s.tryStart q qu it with
        | some s => State.pumpF s q n
        | none => s

def State.pump (s : State) (q : Nat) : State := s.pumpF q 200000

/-- Units of 64 bytes an item takes in its ring (16 R385). -/
def headerUnits (h : Header) : Nat := cdiv (64 + 16 * h.plen) 64

/-- R386: the ring holds an item of this length between the head and the tail, and the queue has room for it. -/
def Queue.holdsItem (q : Queue) (h : Header) : Bool :=
  let n := 2 ^ (q.tr.sqlog - 6)
  q.tr.set && q.items.length < q.attrs.depth && headerUnits h ≤ (q.tail + n - q.head) % n

/-- An item is read from a queue's ring: cancelled when the queue is disabled (Table 13.11 order 1), else queued; it starts
when it may. -/
def State.submit (s : State) (q : Nat) (h : Header) (b : ItemBody) : State :=
  match s.queues.find q with
  | none => s
  | some qu =>
    if !s.runs || !qu.holdsItem h then s
    else
      let id := s.nextItem
      let head := (qu.head + headerUnits h) % 2 ^ (qu.tr.sqlog - 6)
      let s := { s with nextItem := id + 1 }
      let s := s.modQueue q (fun x => { x with items := x.items ++ [{ id, hdr := h, body := b }], head })
      if qu.disabled then s.finishItem q id 4 0 0 else s.pump q

/-! ### The bytes of an item (R318, Tables 13.5, 13.7, 15.3) -/

/-- Table 13.5: OP and the header's fields, from its 64 little-endian bytes. -/
def headerOf (bs : List Byte) : Byte × Header :=
  let w (i : Nat) : Nat := leNat ((bs.drop (8 * i)).take 8)
  (BitVec.ofNat 8 (bits (w 0) 63 56),
    { plen := bits (w 0) 47 32, tag := BitVec.ofNat 32 (bits (w 0) 31 0)
      wv := bit (w 1) 63, wf := bit (w 1) 62, wsem := bits (w 1) 61 48, sv := bit (w 1) 47, ssem := bits (w 1) 46 33
      wval := BitVec.ofNat 64 (w 2), sval := BitVec.ofNat 64 (w 3), dline := BitVec.ofNat 64 (w 4)
      rsv := bits (w 0) 55 48 + bits (w 1) 32 0 + w 5 + w 6 + w 7 })

/-- The 64 bytes of a header with nothing in its reserved bits. -/
def headerBytes (op : Byte) (h : Header) : List Byte :=
  natLe 8 (op.toNat * 2 ^ 56 + h.plen * 2 ^ 32 + h.tag.toNat) ++
    natLe 8 (b2n h.wv * 2 ^ 63 + b2n h.wf * 2 ^ 62 + h.wsem * 2 ^ 48 + b2n h.sv * 2 ^ 47 + h.ssem * 2 ^ 33) ++
    natLe 8 h.wval.toNat ++ natLe 8 h.sval.toNat ++ natLe 8 h.dline.toNat ++ List.replicate 24 0

/-- The opcodes of Tables 13.7 and 15.3. -/
def itemOps : List Nat :=
  [0x01, 0x02, 0x03, 0x04, 0x08, 0x09, 0x10, 0x11, 0x12, 0x18, 0x19, 0x20, 0x21, 0x22, 0x23, 0x24, 0x28, 0x29, 0x2A, 0x2B,
   0x2C, 0x30, 0x31, 0x40, 0x41, 0x42, 0x43, 0x44, 0x48, 0x49, 0x4A, 0x4B, 0x50, 0x51, 0x58, 0x59, 0x60, 0x61, 0x62, 0x63]

/-- Table 13.6: a LAUNCH payload. -/
def launchOf (bs : List Byte) : LaunchPl :=
  let w (i : Nat) : Nat := leNat ((bs.drop (8 * i)).take 8)
  let np := bits (w 0) 22 16
  { prog := bits (w 0) 63 48, count := bits (w 0) 47 41, ireg := Fin.ofNat 64 (bits (w 0) 40 35), iv := bit (w 0) 34
    dies := BitVec.ofNat 4 (bits (w 0) 33 30), pv := bit (w 0) 29, pin := bits (w 0) 28 23
    params := (List.range np).map (fun i => BitVec.ofNat 64 (w (2 + i))), rsv := bits (w 0) 15 0 + w 1 }

/-- The item of an opcode and a payload, where the manual lays the payload out bit by bit; the other items come as commands
of their own (log 95). -/
def payloadOf (op : Nat) (p : List Byte) : Option ItemBody :=
  let n (k : Nat) : Nat := leNat (p.take k)
  match op with
  | 0x01 => some (.launch (launchOf p))
  | 0x03 => some .listBegin
  | 0x04 => some .listEnd
  | 0x08 => some (.spindleRun (BitVec.ofNat 512 (n 64)))
  | 0x09 => some .nop
  | 0x10 => some (.descCreate (BitVec.ofNat 1024 (n 128)))
  | 0x29 => some (.skimRec (BitVec.ofNat 256 (n 32)))
  | 0x61 => some (.codecFrame (BitVec.ofNat 512 (n 64)))
  | op => if itemOps.contains op then none else some (.unknown (BitVec.ofNat 8 op))

/-- ITEM_START: items of a queue that may start do; an item may also arrive here as the bytes of its header and payload, one
whose OP names none among them. -/
def execItemStart (q : Nat) (raw : Option (List Byte)) (s : State) : Out :=
  .next (match raw with
  | some bs =>
    let (op, h) := headerOf bs
    match payloadOf op.toNat (bs.drop 64) with
    | some b => s.submit q h b
    | none => s
  | none =>
    match s.queues.find q with
    | none => s
    | some qu =>
      let again := (qu.items.filter (fun i => s.retries q i)).foldl (fun s i => (s.effect q i.id i.body).getD s) s
      again.pump q)

/-! ### The items as commands -/

def execLaunch (q : Nat) (h : Header) (p : LaunchPl) (s : State) : Out := .next (s.submit q h (.launch p))
def execReplay (q : Nat) (h : Header) (list : Nat) (patch : Option Patch) (s : State) : Out :=
  .next (s.submit q h (.replay list patch))
def execListBegin (q : Nat) (h : Header) (s : State) : Out := .next (s.submit q h .listBegin)
def execListEnd (q : Nat) (h : Header) (s : State) : Out := .next (s.submit q h .listEnd)
def execSpindleRun (q : Nat) (h : Header) (rec : BitVec 512) (s : State) : Out := .next (s.submit q h (.spindleRun rec))
def execNop (q : Nat) (h : Header) (s : State) : Out := .next (s.submit q h .nop)
def execDescCreate (q : Nat) (h : Header) (image : BitVec 1024) (s : State) : Out :=
  .next (s.submit q h (.descCreate image))
def execDescDestroy (q : Nat) (h : Header) (d : Nat) (s : State) : Out := .next (s.submit q h (.descDestroy d))
def execDescStatus (q : Nat) (h : Header) (d : Nat) (clear : Bool) (s : State) : Out :=
  .next (s.submit q h (.descStatus d clear))
def execLoad (q : Nat) (h : Header) (im : Image) (s : State) : Out := .next (s.submit q h (.load im))
def execUnload (q : Nat) (h : Header) (p : Nat) (s : State) : Out := .next (s.submit q h (.unload p))
def execKvOpen (q : Nat) (h : Header) (p : KvOpenPl) (s : State) : Out := .next (s.submit q h (.kvOpen p))
def execKvExtend (q : Nat) (h : Header) (r oldlen newlen : Nat) (entries repl : List (W64 × W64)) (s : State) : Out :=
  .next (s.submit q h (.kvExtend r oldlen newlen entries repl))
def execKvMatch (q : Nat) (h : Header) (r tokens count : Nat) (s : State) : Out :=
  .next (s.submit q h (.kvMatch r tokens count))
def execKvPublish (q : Nat) (h : Header) (r tokens : Nat) (s : State) : Out := .next (s.submit q h (.kvPublish r tokens))
def execKvClose (q : Nat) (h : Header) (r : Nat) (s : State) : Out := .next (s.submit q h (.kvClose r))
def execSkimBegin (q : Nat) (h : Header) (base adj : List Byte) (s : State) : Out :=
  .next (s.submit q h (.skimBegin base adj))
def execSkimRec (q : Nat) (h : Header) (image : BitVec 256) (s : State) : Out := .next (s.submit q h (.skimRec image))
def execSkimStep (q : Nat) (h : Header) (slot : Nat) (s : State) : Out := .next (s.submit q h (.skimStep slot))
def execSkimQuery (q : Nat) (h : Header) (r : Nat) (s : State) : Out := .next (s.submit q h (.skimQuery r))
def execSkimEnd (q : Nat) (h : Header) (slot : Nat) (s : State) : Out := .next (s.submit q h (.skimEnd slot))
def execRngSeed (q : Nat) (h : Header) (slot : Nat) (value : BitVec 96) (rsv : Nat) (s : State) : Out :=
  .next (s.submit q h (.rngSeed slot value rsv))
def execRngJump (q : Nat) (h : Header) (slot : Nat) (stream : W32) (mask : W64) (rsv : Nat) (s : State) : Out :=
  .next (s.submit q h (.rngJump slot stream mask rsv))
def execCtxCreate (q : Nat) (h : Header) (fsr : List Nat) (slices : List W16) (s : State) : Out :=
  .next (s.submit q h (.ctxCreate fsr slices))
def execCtxDestroy (q : Nat) (h : Header) (c : Nat) (s : State) : Out := .next (s.submit q h (.ctxDestroy c))
def execCtxSave (q : Nat) (h : Header) (c alloc : Nat) (s : State) : Out := .next (s.submit q h (.ctxSave c alloc))
def execCtxRestore (q : Nat) (h : Header) (alloc allocCtx : Nat) (s : State) : Out :=
  .next (s.submit q h (.ctxRestore alloc allocCtx))
def execCtxDisable (q : Nat) (h : Header) (c fence : Nat) (value : W64) (s : State) : Out :=
  .next (s.submit q h (.ctxDisable c fence value))
def execQCreate (q : Nat) (h : Header) (c : Nat) (a : QAttrs) (t : Transport) (s : State) : Out :=
  .next (s.submit q h (.qCreate c a t))
def execQSet (q : Nat) (h : Header) (target : Nat) (a : QAttrs) (clearHalt : Bool) (s : State) : Out :=
  .next (s.submit q h (.qSet target a clearHalt))
def execQDisable (q : Nat) (h : Header) (target fence : Nat) (value : W64) (s : State) : Out :=
  .next (s.submit q h (.qDisable target fence value))
def execQDestroy (q : Nat) (h : Header) (target : Nat) (s : State) : Out := .next (s.submit q h (.qDestroy target))
def execMemAlloc (q : Nat) (h : Header) (c va size page : Nat) (kind : AllocKind) (wr : Bool) (s : State) : Out :=
  .next (s.submit q h (.memAlloc c va size page kind wr))
def execMemFree (q : Nat) (h : Header) (c alloc : Nat) (s : State) : Out := .next (s.submit q h (.memFree c alloc))
def execSemCreate (q : Nat) (h : Header) (v : W64) (s : State) : Out := .next (s.submit q h (.semCreate v))
def execSemDestroy (q : Nat) (h : Header) (k : Nat) (s : State) : Out := .next (s.submit q h (.semDestroy k))
def execCodecOpen (q : Nat) (h : Header) (rec : BitVec 512) (pool : List (W64 × W64)) (s : State) : Out :=
  .next (s.submit q h (.codecOpen rec pool))
def execCodecFrame (q : Nat) (h : Header) (p : BitVec 512) (s : State) : Out := .next (s.submit q h (.codecFrame p))
def execCodecRelease (q : Nat) (h : Header) (sid : Nat) (mask : W16) (s : State) : Out :=
  .next (s.submit q h (.codecRelease sid mask))
def execCodecClose (q : Nat) (h : Header) (sid : Nat) (s : State) : Out := .next (s.submit q h (.codecClose sid))

end Sys2Proof.Machine
end

