-- ==== Sys2Proof/Machine/Dict.lean ====
section
/-! DEFINITION. Reading the object dictionary (17 R408, R409, R423; 18): values, presence, encodings, the digests, and the
conditions of the reliability promise. -/
namespace Sys2Proof.Machine

/-! ### Identity (19 R442 to R444) -/

/-- R443: the identity and exchange keys of the module's seed. -/
def identitySeed : List Byte := sha3_256 (ascii "KDX-SIG" ++ Config.seed)
def exchangeSeed : List Byte := sha3_512 (ascii "KDX-KEM" ++ Config.seed)

def identityPublic : List Byte := fit 1312 (Config.mldsaPublic identitySeed)
def exchangePublic : List Byte := fit 1184 (Config.mlkemPublic exchangeSeed)

/-- R412: the identity prefix. -/
def identityPrefix : List Byte := (sha3_256 identityPublic).take 8

/-- A signature under the identity key. -/
def identitySign (m : List Byte) : List Byte := fit 2420 (Config.mldsaSign identitySeed m)

/-! ### Derived states -/

/-- 17 Table 17.16, OD 0x2010.03. -/
def RingSt.state (r : RingSt) : Nat :=
  if !r.inserted then 0 else if r.dup then 4 else if r.noCycle then 1 else if r.addr = 0 then 2 else 3

/-- 18 Table 18.6, OD 0x8020.02: conditions of the promise that do not hold. -/
def State.promise (s : State) : Nat :=
  b2n (s.cfg 0x5020 1 == 0) + 2 * b2n (s.cfg 0x5020 3 == 0) + 4 * b2n (flag s.env.cond 2)

/-- R458: a record 0x29 when the promise's conditions begin or cease to hold between two states. -/
def State.promiseRecord (s old : State) : State :=
  if (s.promise == 0) == (old.promise == 0) then s
  else s.raise { cause := 0x29, detail := BitVec.ofNat 64 s.promise }

/-- 18 Table 18.5, OD 0x6001. -/
def Die.stateCode (d : Die) : Nat :=
  if d.failed then 3 else if !d.present then 0 else if d.disabled then 2 else if d.hold then 4 else 1

/-- 18 R437: one context's account. -/
def State.account (s : State) (viewer c : Nat) : List Byte :=
  match s.ctxs.find c with
  | some x =>
    let seen := viewer = 0 || s.own.owner == some viewer || s.partOfPort (viewer - 1) == some x.part
    if seen then x.acct.flatMap (fun w => natLe 8 w.toNat) else List.replicate 48 0
  | none => List.replicate 48 0

/-- R439: the fault log as elements. -/
def FLog.value (g : FLog) : List Byte :=
  natLe 2 1024 ++ (List.range 1024).flatMap (fun i =>
    match g.entries.find? (fun e => e.seq % 1024 == i) with
    | some e => e.bytes
    | none => List.replicate 32 0)

def StageMeas.bytes (m : StageMeas) : List Byte := natLe 1 m.stage ++ natLe 1 m.bank ++ natLe 4 m.version ++ fit 32 m.measure

/-- Power over the window in units of 0.1 W: ten energies in uJ of 10 us each. -/
def windowPower (es : List Nat) : Nat := sumN (es.take 10) / 10

/-- 22 R486: the bit stands while a measured item is outside its range, and for 10 s afterwards. -/
def Env.note (e : Env) (now : W64) (out : Bool) : Env :=
  let still : Bool := match e.outAt with | some t => decide (now.toNat < t.toNat + secCounts 10) | none => false
  { e with outAt := if out then some now else if still then e.outAt else none, cond := if out || still then 4 else 0 }

/-! ### Digests (17 R423) -/

/-- A configuration object's value among given effective values. -/
def State.cfgVal (s : State) (t : Tab Val) (o : Obj) (sub : Nat) : Val :=
  match t.find (okey o.idx sub) with
  | some v => v
  | none =>
    if o.idx = 0x6010 then .num (s.mu (sub - 1)).repair.toNat
    else if o.ty = 0x0F then .arr [] else .num o.dflt

/-- Table 17.10: a value's bytes. -/
def encodeVal (idx ty : Nat) : Val → List Byte
  | .num n => natLe (tySize ty) n
  | .arr xs => natLe 2 xs.length ++ xs.flatMap (natLe (if idx = 0xF001 then 4 else 8))
  | .bytes bs => bs

/-- R3: an object of an absent port, die, stack or engine is not present. The command counters of a controller whose port is
absent count as an object of that port (DESIGN CHOICE, log 98). -/
def State.present (s : State) (idx sub : Nat) : Bool :=
  if 0x2021 ≤ idx && idx ≤ 0x2025 then sub ≤ s.portCount + 1
  else if 0x4030 ≤ idx && idx ≤ 0x4036 then sub ≤ s.portCount
  else if 0x5040 ≤ idx && idx ≤ 0x5044 then sub ≤ s.stackCount
  else if idx = 0x3031 || idx = 0x3032 || idx = 0x3034 || idx = 0x6030 || idx = 0x6031 || idx = 0x9010 then
    sub ≤ s.dieCount
  else if 0x8010 ≤ idx && idx ≤ 0x8012 || idx = 0x8015 then sub ≤ s.dieCount
  else if 0x7010 ≤ idx && idx ≤ 0x7023 then sub ≤ s.codecCount
  else true

/-- The subindices of an object line that are present. -/
def State.subs (s : State) (o : Obj) : List Nat :=
  ((List.range (o.hi + 1 - o.lo)).map (o.lo + ·)).filter (s.present o.idx)

/-- The canonical encoding of configuration values. -/
def State.canonical (s : State) (t : Tab Val) : List Byte :=
  (objects.filter (fun o => o.cls == .config)).flatMap (fun o => (s.subs o).flatMap (fun sub =>
    let v := encodeVal o.idx o.ty (s.cfgVal t o sub)
    natLe 2 o.idx ++ natLe 1 sub ++ natLe 1 o.ty ++ natLe 2 v.length ++ v))

/-- Effective values the digest covers: those before an activation that is applying. -/
def State.digestVals (s : State) : Tab Val :=
  match s.dict.act with
  | some a => a.before
  | none => s.dict.eff

def State.digest (s : State) : List Byte := sha3_256 (s.canonical s.digestVals)

def State.stagedDigest (s : State) : List Byte :=
  sha3_256 (s.canonical (s.dict.staged.foldl (fun t e => t.put e.1 e.2) s.digestVals))

/-! ### Values -/

/-- A type definition object (18 R433). -/
def typeObj (idx : Nat) : Bool := 1 ≤ idx && idx ≤ 15

/-- 18 Table 18.3: the fields of a record as type codes and lengths. -/
def recordFields (idx : Nat) : List (Nat × Nat) :=
  if idx = 0x0101 then [(0x0C, 32)]
  else if idx = 0x0102 then List.replicate 6 (5, 8)
  else if idx = 0x0103 then [(2, 1), (2, 1), (4, 4), (0x0D, 32)]
  else if idx = 0x0104 then [(3, 2), (3, 2), (3, 2)]
  else []

/-- R429: the highest subindex of an index. -/
def topSub (idx : Nat) : Nat :=
  if typeObj idx then 1
  else if 0x0101 ≤ idx && idx ≤ 0x0104 then (recordFields idx).length
  else maxN ((objects.filter (fun o => o.idx == idx)).map (·.hi))

/-- An object's line, those of R429, R433 and R434 included. -/
def State.lookup (s : State) (idx sub : Nat) : Option Obj :=
  let top := topSub idx
  if top = 0 || sub > top then none
  else if sub = 0 then some ⟨idx, 0, 0, 2, .ro, .runtime, top⟩
  else if typeObj idx then some ⟨idx, 1, 1, 3, .ro, .runtime, tySize idx⟩
  else if idx ≤ 0x0104 then
    let f := (recordFields idx).getD (sub - 1) (0, 0)
    some ⟨idx, sub, sub, 4, .ro, .runtime, f.1 * 2 ^ 24 + f.2 * 2 ^ 8⟩
  else if s.present idx sub then objOf idx sub else none

/-- Identity, firmware and reset objects (18 Table 18.4, 19 R454). -/
def State.valIdentity (s : State) (idx sub : Nat) : Val :=
  let f := s.fw
  if idx = 0x1000 then
    match sub with
    | 1 => .bytes (ascii "Euxisia Microsystems")
    | 2 => .bytes (ascii s.variant.order)
    | 3 => .num s.variant.code
    | 4 => .bytes f.serial
    | 5 => .num f.hwLevel
    | _ => .num 2
  else if idx = 0x1010 then
    match sub with
    | 1 => .bytes identityPublic
    | 2 => .bytes identityPrefix
    | _ => .bytes (sha3_256 Config.vendorRoot)
  else if idx = 0x1011 then
    match sub with
    | 1 => .bytes (natLe 2 f.stages.length ++ f.stages.flatMap StageMeas.bytes)
    | 2 => .bytes (fit 32 f.bundleMeas)
    | 3 => .num f.version
    | _ => .num f.floorFw
  else if idx = 0x1012 then (if sub = 1 then .bytes f.nonce else .bytes f.report)
  else if idx = 0x1020 then .num f.ownerKeys.length
  else if idx = 0x1030 then
    match sub with
    | 1 => .num f.updAddr
    | 2 => .num f.updLen
    | 3 => .num f.updAction
    | 4 => .num f.updState
    | _ => .num f.updFail
  else .num 0

/-- Lease remaining in ms (OD 0x2020.03). -/
def State.leaseLeft (s : State) : Nat :=
  match s.own.owner with
  | some _ => (s.own.leaseAt.toNat + s.own.leaseLen * 100000000 - s.now) / 100000
  | none => 0

/-- Ring and ownership objects (17 Table 17.16). -/
def State.valRing (s : State) (idx sub : Nat) : Val :=
  let k := s.ctlOf (sub - 1)
  if idx = 0x2010 then
    match sub with
    | 1 => .num s.ring.addr
    | 3 => .num s.ring.state
    | 4 => .num s.ring.crcErr
    | 5 => .num s.ring.cycle.toNat
    | _ => .num s.ring.dropped
  else if idx = 0x2020 then
    match sub with
    | 1 => .num (s.own.owner.getD 0xFF)
    | 3 => .num s.leaseLeft
    | _ => .num s.own.prio
  else if idx = 0x2021 then .num (((s.own.claims.find (sub - 1)).map (·.prio)).getD 0xFF)
  else if idx = 0x2022 then .num k.l.toNat
  else if idx = 0x2023 then .num k.notExec
  else if idx = 0x2024 then .num (b2n k.key.isSome)
  else if idx = 0x2025 then .num k.result.toNat
  else
    match sub with
    | 1 => .bytes s.digest
    | 2 => .num s.dict.epoch.toNat
    | 3 => .bytes s.stagedDigest
    | 4 => .num (if s.dict.act.isSome then 2 else b2n (!s.dict.staged.isEmpty))
    | _ => .num s.dict.refusedCount

/-- Governor, pace and telemetry objects (14 Table 14.5, 01 R38, 18 Table 18.7). -/
def State.valPower (s : State) (idx sub : Nat) : Val :=
  let d := s.die (sub - 1)
  if idx = 0x3030 then (if sub = 1 then .num s.gov.ladder else .num (windowPower s.gov.moduleWin / 10))
  else if idx = 0x3031 then .num d.volt
  else if idx = 0x3032 then .num (windowPower d.energyWin)
  else if idx = 0x3033 then .num (ofSigned 32 d.creditNow.floor)
  else if idx = 0x3034 then .num (ofSigned 16 d.hot)
  else if idx = 0x3035 then .num (2 * d.f)
  else if idx = 0x3040 then .num (s.gov.energy.get 0 (sub - 1))
  else if idx = 0x9010 then .num d.pace
  else if idx = 0x9020 then
    match sub with
    | 1 => .num s.env.mv10
    | 2 => .num s.env.ma10
    | 3 => .num (ofSigned 16 s.env.inlet)
    | 4 => .num (ofSigned 16 s.env.outlet)
    | _ => .num s.env.flow
  else if idx = 0x9030 then .num d.busyMu
  else if idx = 0x9031 then .num d.busyVec
  else if idx = 0x9032 then .num d.busySpin
  else if idx = 0x9040 then (if sub = 1 then .num s.clock.refc.toNat else .num 100000000)
  else .num 0

/-- Partition, port and memory objects (13 Table 13.2, 16 Table 16.8, 12 Table 12.7, 18 R437). -/
def State.valHost (s : State) (viewer idx sub : Nat) : Val :=
  let p := s.port (sub - 1)
  let k := s.stack (sub - 1)
  if idx = 0x4020 then .num (s.ctxs.filter (fun e => e.2.part == sub - 1)).length
  else if idx = 0x4021 then .num (s.queues.filter (fun e => e.2.part == sub - 1)).length
  else if idx = 0x4030 then .num p.state
  else if idx = 0x4031 then .num p.width
  else if idx = 0x4032 then .num p.rate
  else if idx = 0x4033 then .num p.losses
  else if idx = 0x4034 then .num p.ignored
  else if idx = 0x4040 then
    .bytes (natLe 2 256 ++ (List.range 256).flatMap (fun i => s.account viewer (256 * (sub - 1) + i)))
  else if idx = 0x5011 then .num (s.die (sub - 1)).mask.toNat
  else if idx = 0x5040 then .num (if k.state = 1 && k.doubled then 2 else k.state)
  else if idx = 0x5041 then .num k.corrected
  else if idx = 0x5042 then .num k.uncorrectable
  else if idx = 0x5043 then .num k.parity
  else if idx = 0x5044 then .num (ofSigned 16 k.temp)
  else if idx = 0x5050 then .num (s.die (sub - 1)).corrected
  else .num 0

/-- Dies, units and codec engines (18 Table 18.5, 03 R102, 15 Table 15.7). -/
def State.valDies (s : State) (idx sub : Nat) : Val :=
  let d := s.die (sub - 1)
  let e := s.engine (sub - 1)
  if idx = 0x6001 then .num d.stateCode
  else if idx = 0x6002 then .num ((List.range 16).filter (fun u => (s.mu (16 * (sub - 1) + u)).state == 0)).length
  else if idx = 0x6011 then .num (s.mu (sub - 1)).state
  else if idx = 0x6030 then .num (s.clock.era.get 0 (sub - 1)).toNat
  else if idx = 0x6031 then .num (s.clock.localc.get 0 (sub - 1)).toNat
  else if idx = 0x7020 then .num e.streams.length
  else if idx = 0x7021 then .num e.frames
  else if idx = 0x7022 then .num e.damaged
  else if idx = 0x7023 then .num e.busy
  else .num 0

/-- Fault and bring-up objects (18 Tables 18.6, 18.8). -/
def State.valFault (s : State) (idx sub : Nat) : Val :=
  let d := s.die (sub - 1)
  let f := s.fw
  if idx = 0x8000 then
    match sub with
    | 1 => .num s.log.entries.length
    | 2 => .num s.log.overwritten
    | _ => .num (if s.log.entries.isEmpty then 0 else s.log.seq)
  else if idx = 0x8001 then .bytes s.log.value
  else if idx = 0x8010 then .num d.detected
  else if idx = 0x8011 then .num d.illegal
  else if idx = 0x8012 then .num d.stalls
  else if idx = 0x8013 then .num d.witness
  else if idx = 0x8014 then .num d.sequencer
  else if idx = 0x8015 then .num d.dissents
  else if idx = 0x8016 then .num d.aborts
  else if idx = 0x8020 then (if sub = 1 then .num (b2n (s.promise == 0)) else .num s.promise)
  else if idx = 0x8030 then .num s.start.wdExpiries
  else if idx = 0xF000 then .num s.start.bringUp
  else if idx = 0xF001 then
    match sub with
    | 1 => .num s.start.phase
    | 2 => .num s.start.fail
    | _ => .arr ((List.range 8).map (fun i => s.start.durations.getD i 0))
  else if idx = 0xF010 then
    match sub with
    | 1 => .num f.stackReq.toNat
    | 2 => .num f.stackState
    | _ => .bytes f.stackResult
  else if idx = 0xF020 then .num (s.mu (sub - 1)).proposed.toNat
  else if idx = 0xF030 then
    if sub = 1 then .num f.sweepReq.toNat
    else .bytes (natLe 2 f.sweepPoints.length ++
      f.sweepPoints.flatMap (fun p => natLe 2 p.1 ++ natLe 2 p.2.1 ++ natLe 2 (min p.2.2 65535)))
  else if idx = 0xF040 then
    match sub with
    | 2 => .num f.buildState
    | 3 => .bytes f.buildDigest
    | _ => .num 0
  else .num 0

/-- The value of a runtime or telemetry object, as a viewer (a controller) reads it. -/
def State.objVal (s : State) (viewer : Nat) (o : Obj) (sub : Nat) : Val :=
  if sub = 0 || o.idx ≤ 0x0104 then .num o.dflt
  else if o.cls == .config then s.cfgVal s.dict.eff o sub
  else if o.idx < 0x2000 then s.valIdentity o.idx sub
  else if o.idx < 0x3000 then s.valRing o.idx sub
  else if o.idx < 0x4000 then s.valPower o.idx sub
  else if o.idx < 0x6000 then s.valHost viewer o.idx sub
  else if o.idx < 0x8000 then s.valDies o.idx sub
  else if o.idx < 0x9000 || 0xF000 ≤ o.idx then s.valFault o.idx sub
  else s.valPower o.idx sub

/-- The value read with STG = 1 (18 R430). -/
def State.stagedVal (s : State) (o : Obj) (sub : Nat) : Val :=
  match s.dict.staged.find (okey o.idx sub) with
  | some v => v
  | none => s.cfgVal s.dict.eff o sub

/-- A read by a controller: the whole value, or a status of Table 17.5. -/
def State.objRead (s : State) (c idx sub : Nat) (stg : Bool) : Except Nat (List Byte) :=
  match s.lookup idx sub with
  | none => .error 5
  | some o =>
    if o.acc == .wo || (o.acc == .rwo && s.own.owner != some c) then .error 2
    else if stg && o.cls != .config then .error 7
    else if idx = 0x1012 && sub = 2 && s.gov.ladder == 4 then .error 8
    else .ok (encodeVal idx o.ty (if stg then s.stagedVal o sub else s.objVal c o sub))

/-! ### Decoding written values (17 Table 17.10) -/

def le64s : List (List Byte) → List Nat := List.map leNat

/-- A value from its bytes; none where type or length is wrong. -/
def decodeVal (ty : Nat) (bs : List Byte) : Option Val :=
  if ty = 1 then
    match bs with
    | [b] => if b = 0 then some (.num 0) else if b = 1 then some (.num 1) else none
    | _ => none
  else if ty = 0x0F then
    let n := leNat (bs.take 2)
    if bs.length = 2 + 8 * n && bs.length ≥ 2 then some (.arr (le64s (chunks 8 (bs.drop 2)))) else none
  else if tySize ty = 0 then some (.bytes bs)
  else if ty = 0x0D then (if bs.length = 32 then some (.bytes bs) else none)
  else if bs.length = tySize ty then some (.num (leNat bs)) else none

/-! ### Segments (17 R409) -/

/-- What a write's access block gives: a whole value, nothing yet, or a status. -/
inductive Seg where
  | whole (bs : List Byte)
  | more
  | bad
deriving DecidableEq, Repr

/-- Take one segment of a controller's write; `room` is the most data a segment carries. -/
def State.segment (s : State) (c : Nat) (a : Access) (room : Nat) : State × Seg :=
  let key := a.index * 256 + a.sub
  let clear : State := { s with dict := { s.dict with seg := s.dict.seg.del c } }
  if a.rsv ≠ 0 || a.stg || a.data.length ≠ a.cnt || a.cnt > room || a.off + a.cnt > a.size then (clear, .bad)
  else if a.off = 0 then
    if a.cnt = a.size then (clear, .whole a.data)
    else ({ s with dict := { s.dict with seg := s.dict.seg.put c ⟨key, a.size, a.data⟩ } }, .more)
  else
    match s.dict.seg.find c with
    | some g =>
      if g.key ≠ key || g.size ≠ a.size || g.got.length ≠ a.off || a.cnt = 0 then (clear, .bad)
      else if a.off + a.cnt = a.size then (clear, .whole (g.got ++ a.data))
      else ({ s with dict := { s.dict with seg := s.dict.seg.put c ⟨key, a.size, g.got ++ a.data⟩ } }, .more)
    | none => (clear, .bad)

end Sys2Proof.Machine
end

