-- ==== Sys2Proof/Machine/Firmware.lean ====
section
/-! DEFINITION. Signed packages (19 R445 to R448), the bundle's contents (19 Table 19.4, 21 R483; its container is log 23),
enrolment (R447, R452), updates (18 R435, 19 R451) and the attestation report (19 R453). -/
namespace Sys2Proof.Machine

/-! ### Ranges of configuration objects -/

/-- Table 3.9: a repair word without a reserved value. -/
def repairOk (w : Nat) : Bool :=
  bits w 31 21 = 0 && bits w 18 9 ≤ 512 && bits w 7 0 ≤ 128

/-- The stated range of a configuration object of number type. -/
def rangeOk (idx sub n : Nat) : Bool :=
  if idx = 0x2010 then n ≤ 250
  else if idx = 0x2020 then (if sub = 2 then 5 ≤ n && n ≤ 600 else n ≤ 8 || n = 0xFF)
  else if idx = 0x3010 then
    match sub with
    | 1 => 600 ≤ n && n ≤ 3600
    | 2 => 60 ≤ n && n ≤ 95
    | _ => 550 ≤ n && n ≤ 850 && n % 10 = 0
  else if idx = 0x3020 then (if sub = 1 then 1 ≤ n && n ≤ 4 else 1 ≤ n && n ≤ 1000000000)
  else if idx = 0x4036 || idx = 0x7011 then n ≤ 1
  else if idx = 0x5020 then (if sub = 2 then 1 ≤ n && n ≤ 12 else if sub = 4 then 1 ≤ n && n ≤ 10 else n ≤ 1)
  else if idx = 0x6010 then repairOk n
  else true

/-- A value within its object's own rules, standing alone. -/
def valOk (idx sub : Nat) : Val → Bool
  | .num n => rangeOk idx sub n
  | .arr xs => xs.length ≤ 64 && xs.all (fun w => bits w 55 28 ≤ 12287)
  | .bytes _ => true

/-! ### The header (Table 19.2) -/

def word64 (bs : List Byte) (off : Nat) : Nat := leNat ((bs.drop off).take 8)

/-- The fields of a package. -/
structure Pkg where
  magic : Nat
  ty : Nat
  signer : Nat
  fmt : Nat
  version : Nat
  floor : Nat
  target : Nat
  rsv : Nat
  length : Nat
  bodyHash : List Byte
  header : List Byte
  body : List Byte
  sig : List Byte
deriving DecidableEq, Repr

def pkgOf (bs : List Byte) : Pkg :=
  let w0 := word64 bs 0
  let w1 := word64 bs 8
  let w3 := word64 bs 24
  let n := bits w3 31 0
  { magic := bits w0 63 32, ty := bits w0 31 24, signer := bits w0 23 16, fmt := bits w0 15 0, version := bits w1 63 32
    floor := bits w1 31 0, target := word64 bs 16, rsv := bits w3 63 32, length := n
    bodyHash := (bs.drop 32).take 32, header := bs.take 64, body := (bs.drop 64).take n, sig := (bs.drop (64 + n)).take 2420 }

/-- A package's bytes from its parts. -/
def pkgHeader (ty signer version floor target : Nat) (body : List Byte) : List Byte :=
  natLe 8 (0x4B445850 * 2 ^ 32 + ty * 2 ^ 24 + signer * 2 ^ 16 + 1) ++ natLe 8 (version * 2 ^ 32 + floor) ++
    natLe 8 target ++ natLe 8 (body.length % 2 ^ 32) ++ sha3_256 body

/-! ### Bodies -/

/-- A firmware set: stage number, offset and length of each image (log 23: four U32 words after the count). -/
def stageTable (b : List Byte) : Option (List (Nat × List Byte)) :=
  let w (i : Nat) := leNat ((b.drop (4 * i)).take 4)
  let rows := (List.range 4).map (fun i => (w (1 + 3 * i), w (2 + 3 * i), w (3 + 3 * i)))
  if b.length ≥ 52 && w 0 = 4 && rows.map (·.1) = [1, 2, 3, 4] && rows.all (fun r => 52 ≤ r.2.1 && r.2.1 + r.2.2 ≤ b.length) then
    some (rows.map (fun r => (r.1, (b.drop r.2.1).take r.2.2)))
  else none

/-- What a bundle carries. -/
structure Bundle where
  vals : Tab Val := []
  epoch : W64 := 0
  repair : List W32 := []
  trims : List Nat := []
  train : Tab (List Byte) := []
deriving DecidableEq, Repr

/-- Configuration values in the canonical encoding, `n` of them. -/
def bundleVals : Nat → List Byte → Option (Tab Val × List Byte)
  | 0, bs => some ([], bs)
  | n + 1, bs =>
    let idx := leNat (bs.take 2)
    let sub := leNat ((bs.drop 2).take 1)
    let ty := leNat ((bs.drop 3).take 1)
    let len := leNat ((bs.drop 4).take 2)
    match objOf idx sub with
    | some o =>
      if bs.length < 6 + len || o.cls != .config || o.ty ≠ ty then none
      else
        match decodeVal ty ((bs.drop 6).take len), bundleVals n (bs.drop (6 + len)) with
        | some v, some (t, rest) => if valOk idx sub v then some (t.put (okey idx sub) v, rest) else none
        | _, _ => none
    | none => none

/-- Training results: stack, length, bytes. -/
def bundleTrain : Nat → List Byte → Option (Tab (List Byte) × List Byte)
  | 0, bs => some ([], bs)
  | n + 1, bs =>
    let len := leNat ((bs.drop 1).take 2)
    if bs.length < 3 + len then none
    else
      match bundleTrain n (bs.drop (3 + len)) with
      | some (t, rest) => some (t.put (leNat (bs.take 1)) ((bs.drop 3).take len), rest)
      | none => none

/-- A bundle's body, in the order of Table 19.4 (log 23 fixes the counts and widths). -/
def bundleOf (b : List Byte) : Option Bundle :=
  match bundleVals (leNat (b.take 2)) (b.drop 2) with
  | none => none
  | some (vals, r) =>
    if r.length < 271 then none
    else
      let repair := (chunks 4 ((r.drop 8).take 256)).map (fun c => BitVec.ofNat 32 (leNat c))
      match bundleTrain (leNat ((r.drop 270).take 1)) (r.drop 271) with
      | some (train, []) =>
        if repair.all (fun w => repairOk w.toNat) then
          some { vals, epoch := BitVec.ofNat 64 (leNat (r.take 8)), repair, train
                 trims := ((r.drop 264).take 6).map (·.toNat) }
        else none
      | _ => none

def Bundle.encode (canonical : List Byte) (count : Nat) (b : Bundle) : List Byte :=
  natLe 2 count ++ canonical ++ natLe 8 b.epoch.toNat ++ b.repair.flatMap (fun w => natLe 4 w.toNat) ++
    b.trims.flatMap (natLe 1) ++ natLe 1 b.train.length ++
    b.train.flatMap (fun e => natLe 1 e.1 ++ natLe 2 e.2.length ++ e.2)

/-- R447: the entries of a command-key enrolment; none when its tag fails or its content is not valid. -/
def commandKeys (p : Pkg) : Option (List (Nat × List Byte)) :=
  let ct := p.body.take 1088
  let rest := p.body.drop 1088
  let n := rest.length - 16
  if p.body.length < 1088 + 16 + 33 || n % 33 ≠ 0 || n > 297 then none
  else
    let key := sha3_256 (fit 32 (Config.mlkemDecap exchangeSeed ct) ++ p.header)
    match Config.gcmOpen key (List.replicate 12 0) p.header (rest.take n) (rest.drop n) with
    | some text =>
      let es := (chunks 33 text).map (fun e => (leNat (e.take 1), e.drop 1))
      if text.length = n && es.all (fun e => e.1 ≤ 8 && e.2.length = 32) then some es else none
    | none => none

/-! ### The checks (Table 19.3) -/

/-- Table 19.4. -/
def signerOk (ty signer : Nat) : Bool :=
  match ty with
  | 1 => signer = 0
  | 2 => signer ≤ 5
  | 3 => signer = 0
  | 4 => signer ≤ 4
  | _ => false

/-- The key of a signer. -/
def State.signerKey (s : State) (signer : Nat) : Option (List Byte) :=
  if signer = 0 then some Config.vendorRoot
  else if signer = 5 then some identityPublic
  else s.fw.ownerKeys.find signer

def State.floorOf (s : State) (ty : Nat) : Nat :=
  match ty with
  | 1 => s.fw.floorFw
  | 2 => s.fw.floorCfg
  | 3 => s.fw.floorOwner
  | _ => s.fw.floorCmd

def targetOk (p : Pkg) : Bool :=
  let need := p.ty = 3 || p.ty = 4 || (p.ty = 2 && p.signer = 5)
  p.target = leNat identityPrefix || (p.target = 0 && !need)

def bodyOk (p : Pkg) : Bool :=
  match p.ty with
  | 1 => (stageTable p.body).isSome
  | 2 => (bundleOf p.body).isSome
  | 3 => p.body.length = 1320 && 1 ≤ leNat (p.body.take 1) && leNat (p.body.take 1) ≤ 4 &&
      ((p.body.drop 1).take 7).all (· == 0)
  | _ => (commandKeys p).isSome

/-- The first failing row of Table 19.3, or 0. A bundle that start-up checks may stand at its floor, which it set
itself when it was written (log 23). -/
def State.pkgCode (s : State) (types : List Nat) (limit : Nat) (boot : Bool) (bs : List Byte) : Nat :=
  let p := pkgOf bs
  let floor := s.floorOf p.ty
  let newer := if boot && p.ty = 2 then floor ≤ p.version else floor < p.version
  if p.magic ≠ 0x4B445850 || p.fmt ≠ 1 || p.rsv ≠ 0 || (p.ty ≠ 1 && p.floor ≠ 0) || bs.length < 2484 ||
      bs.length ≠ 64 + p.length + 2420 || bs.length > limit then 1
  else if !types.contains p.ty || !signerOk p.ty p.signer then 2
  else
    match s.signerKey p.signer with
    | none => 2
    | some k =>
      if !targetOk p then 3
      else if !Config.mldsaVerify k p.header p.sig then 4
      else if p.bodyHash ≠ sha3_256 p.body then 5
      else if !newer || p.version = 0 then 6
      else if !bodyOk p then 7
      else 0

/-! ### Enrolment (R452) -/

/-- An accepted enrolment package takes effect. -/
def State.enrol (s : State) (p : Pkg) : State :=
  if p.ty = 3 then
    let slot := leNat (p.body.take 1)
    let key := p.body.drop 8
    let keys := if key.all (· == 0) then s.fw.ownerKeys.del slot else s.fw.ownerKeys.put slot key
    { s with fw := { s.fw with ownerKeys := keys, floorOwner := p.version } }
  else
    let s := ((commandKeys p).getD []).foldl (fun s e => s.modCtl e.1 (fun k => { k with key := some e.2 })) s
    { s with fw := { s.fw with floorCmd := p.version } }

/-- A write of OD 0x1020.01: the status, with a record 0x52 for a refused package. -/
def State.writeEnrolment (s : State) (bs : List Byte) : State × Nat :=
  let code := s.pkgCode [3, 4] 4096 false bs
  if code = 0 then (s.enrol (pkgOf bs), 0)
  else (s.raise { cause := 0x52, detail := BitVec.ofNat 64 code }, 6)

/-! ### Updates (18 R435, 19 R451) -/

def updLimit : Nat := 0x4000000

/-- The range lies inside one populated stack range. -/
def State.imageRange (s : State) (a n : Nat) : Bool :=
  match s.region a, s.region (a + n - 1) with
  | .stack i _, .stack j _ => i == j && n != 0
  | _, _ => false

/-- A write of OD 0x1030.03. -/
def State.writeUpdate (s : State) (n : Nat) : State × Nat :=
  let f := s.fw
  if n ≠ 1 && n ≠ 2 then (s, 6)
  else if f.updState = 1 || f.updState = 2 then (s, 8)
  else if !s.imageRange f.updAddr f.updLen then (s, 6)
  else
    ({ s with fw := { f with updAction := n, updState := 1, updFail := 0, updFrom := f.updAddr
                             updImage := s.mem.read f.updAddr f.updLen } }, 0)

/-- The bank an update of a type writes: firmware into the bank not running, a bundle into the one not in force. -/
def Firmware.spare (f : Firmware) (ty : Nat) : Nat := if ty = 1 then 1 - f.running else 1 - f.inForce

def Firmware.setBank (f : Firmware) (ty n : Nat) (b : FlashBank) : Firmware :=
  if ty = 1 then { f with fwBanks := f.fwBanks.put n b } else { f with cfgBanks := f.cfgBanks.put n b }

/-- The inactive bank is left invalid when its writing is cut off (R436, 22 R488). -/
def Firmware.cutWrite (f : Firmware) : Firmware :=
  let f := if f.updState = 2 then f.setBank (pkgOf f.updImage).ty (f.spare (pkgOf f.updImage).ty) {} else f
  if f.buildState = 1 then f.setBank 2 (f.spare 2) {} else f

/-- A package is written into its bank as trial; a bundle's floor rises (R448). -/
def Firmware.writeBank (f : Firmware) (bs : List Byte) : Firmware :=
  let p := pkgOf bs
  let f := f.setBank p.ty (f.spare p.ty) { mark := .trial, pkg := bs }
  if p.ty = 2 then { f with floorCfg := max f.floorCfg p.version } else f

/-- UPDATE_COMPLETE: verification ends, the image that changed under it last of Table 19.3's checks before the write, or the
writing ends. -/
def execUpdateComplete (flashOk : Bool) (s : State) : Out :=
  let f := s.fw
  .next (
    if f.updState = 1 then
      let code := match s.pkgCode [1, 2] updLimit false f.updImage with
        | 0 => if s.mem.read f.updFrom f.updImage.length ≠ f.updImage then 8 else 0
        | e => e
      if code ≠ 0 then { s with fw := { f with updState := 4, updFail := code, updImage := [] } }
      else if f.updAction = 2 then { s with fw := { f with updState := 0, updImage := [] } }
      else { s with fw := { f with updState := 2 } }
    else if f.updState = 2 then
      if flashOk then { s with fw := { f.writeBank f.updImage with updState := 3, updImage := [] } }
      else { s with fw := { f.cutWrite with updState := 4, updFail := 9, updImage := [] } }
    else s)

/-! ### The attestation report (Table 19.6) -/

/-- Bytes 0x000 to 0x14F. -/
def State.reportBody (s : State) (nonce : List Byte) : List Byte :=
  let f := s.fw
  let slots := (List.range 4).flatMap (fun i =>
    match f.ownerKeys.find (i + 1) with
    | some k => sha3_256 k
    | none => List.replicate 32 0)
  let rec' (n : Nat) := ((f.stages.find? (fun m => m.stage == n)).getD ⟨n, 0, 0, []⟩).bytes
  natLe 8 (0x4B445841 * 2 ^ 32 + 1 * 2 ^ 16 + 2756) ++ fit 32 nonce ++ identityPrefix ++ natLe 8 s.clock.refc.toNat ++
    natLe 8 ((s.clock.era.get 0 4).toNat * 2 ^ 48 + s.variant.code * 2 ^ 40 + (s.own.owner.getD 0xFF) * 2 ^ 32 + f.version) ++
    natLe 8 (f.floorFw * 2 ^ 32 + f.floorCfg) ++ natLe 8 (f.floorOwner * 2 ^ 32 + f.floorCmd) ++ s.digest ++
    natLe 8 s.dict.epoch.toNat ++ fit 32 f.bundleMeas ++ sha3_256 slots ++ rec' 1 ++ rec' 2 ++ rec' 3 ++ rec' 4

/-- R453. -/
def State.attest (s : State) (nonce : List Byte) : List Byte :=
  let b := s.reportBody nonce
  b ++ identitySign b

end Sys2Proof.Machine
end

