-- ==== Sys2Proof/Machine/Restart.lean ====
section
/-! DEFINITION. Leaving and re-entering service (18 R436, 19 R448 to R450, 20 R465, 21 R470 to R475, 22 R488): what a reset
keeps, a module stop, and the eight phases of start-up. Log 5 says how the module comes to run from State.reset. -/
namespace Sys2Proof.Machine

/-! ### Into reset -/

/-- R479: rows repaired for good stay repaired; the stack's contents are lost (20 R465). -/
def Stack.afterReset (k : Stack) : Stack := { repaired := k.repaired.filter (fun r => r.2.2.2) }

/-- What a controller keeps over a reset: its key and the mark H, from which L starts (17 R414). -/
def Ctl.afterReset (k : Ctl) : Ctl := { l := k.h, h := k.h, key := k.key }

/-- What flash keeps (19): banks, floors, owner keys, the training area. -/
def Firmware.afterReset (f : Firmware) : Firmware :=
  let f := f.cutWrite
  { fwBanks := f.fwBanks, cfgBanks := f.cfgBanks, running := f.running, inForce := f.inForce, floorFw := f.floorFw
    floorCfg := f.floorCfg, floorOwner := f.floorOwner, floorCmd := f.floorCmd, ownerKeys := f.ownerKeys
    serial := f.serial, hwLevel := f.hwLevel, trainArea := f.trainArea }

/-- R480: a hard repair cut off leaves its row repaired or not, which is open (log 8). -/
def State.cutRepair (s : State) : State :=
  let r := s.fw.stackReq.toNat
  let (k, s) := s.draw
  if s.fw.stackState = 1 && bits r 55 48 = 3 && Config.freeNat k 2 % 2 = 1 then
    s.modStack (bits r 63 56) (fun x => { x with
      repaired := x.repaired ++ [(bits r 47 43, bits r 42 38, bits r 37 23, true)] })
  else s

/-- The module is held in reset (`p`): flash, the island's counter and the silicon's repairs stay; contexts, memory
contents, the log and everything staged are lost. -/
def State.intoReset (s : State) (p : Power) : State :=
  let s := s.cutRepair
  let (k, s) := s.draw
  let clock : Clock := { refc := s.clock.refc, era := s.clock.era, flashEra := s.clock.flashEra }
  let start : Start := { power := p, phase := if p == .latched then s.start.phase else 0
                         fail := if p == .latched then s.start.fail else 0, carried := s.start.carried
                         wdExpiries := s.start.wdExpiries, wdTimes := s.start.wdTimes, tripped := s.start.tripped }
  let hbm : Tab Stack := s.hbm.map (fun e => (e.1, e.2.afterReset))
  let ctl : Tab Ctl := s.sec.ctl.map (fun e => (e.1, e.2.afterReset))
  let mus : Tab MUnit := (List.range 64).map (fun u => (u, { feed := { junk := [⟨0, feedBytes, k⟩] } }))
  { pending := s.pending, variant := s.variant, fresh := s.fresh, out := s.out, clock, start, hbm, mus
    sec := { ctl }, fw := s.fw.afterReset, mem := { junk := [⟨0, 2 ^ 48, k⟩] } }

/-- Every launch, job and frame of the module is aborted (20 R465, 14 Table 14.2): launches under R175, the other items
with STATUS 3. -/
def State.abortAll (s : State) (cause : Nat) : State :=
  let ls := (s.launches.filter (fun e => e.2.st != .ending && e.2.st != .done)).map (·.1)
  let s := ls.foldl (fun s l => s.abortFor l cause) s
  let its := s.spin.flatMap (fun e => e.2.map (fun j => (j.queue, j.item))) ++
    s.codecs.flatMap (fun e => e.2.cur.toList.map (fun f => (f.queue, f.item)))
  let codecs : Tab Engine := s.codecs.map (fun e => (e.1, { e.2 with cur := none }))
  its.foldl (fun s i => s.finishItem i.1 i.2 3 cause 0) { s with spin := [], codecs }

/-- R465: a module stop by the fault of a record: the record is saved, work is aborted, the module resets. `hold` keeps it
in reset until the input is cycled (R468). -/
def State.moduleStop (s : State) (r : EvRec) (hold : Bool) : State :=
  let t := if r.die ≥ 6 then 4 else r.die
  let r := { r with
    lcount := s.clock.localc.get 0 t, era := s.clock.era.get 0 t
    cls := if r.cls = 0 then causeClass r.cause else r.cls, carried := true }
  let s := s.abortAll r.cause
  { s with start := { s.start with carried := some r } }.intoReset (if hold then .latched else .reset)

/-- A thermal trip (14 Table 14.2): work aborted, rails off, held in reset. Its record, which goes to the ring, is carried over
the cycle of the input as a module stop's is (log 92). -/
def State.thermalTrip (s : State) (h : Int) : State :=
  let r : EvRec := { cause := 0x31, sev := 4, detail := BitVec.ofNat 64 (1 + ofSigned 16 h * 2 ^ 16) }
  let s := (s.raise r).abortAll 0x31
  let r := { r with lcount := s.clock.localc.get 0 4, era := s.clock.era.get 0 4, carried := true }
  { s with start := { s.start with tripped := true, carried := some r } }.intoReset .latched

/-! ### Admin queues (13 R312) -/

/-- Every port of a partition in use has its admin queue; a port of none has none. -/
def State.makeAdmin (s : State) (i : Nat) : State :=
  match s.partOfPort i, (s.port i).admin with
  | some p, none =>
    match s.queues.free 0 65535 with
    | some q =>
      ({ s with queues := s.queues.put q { ctx := none, part := p, port := i } }).modPort i (fun x => { x with admin := some q })
    | none => s
  | some p, some q =>
    if ((s.queues.find q).map (·.part)) == some p then s
    else { s with queues := s.queues.put q { ctx := none, part := p, port := i } }
  | none, some q => ({ s with queues := s.queues.del q }).modPort i (fun x => { x with admin := none })
  | none, none => s

def State.makeAdmins (s : State) : State := (List.range 8).foldl State.makeAdmin s

/-! ### Start-up (21 Table 21.1) -/

/-- How start-up goes on: with a state, or with a fatal failure and its code. -/
inductive Boot where
  | on (s : State)
  | fail (s : State) (code : Nat)

def Boot.andThen (b : Boot) (f : State → Boot) : Boot :=
  match b with
  | .on s => f s
  | .fail s c => .fail s c

def Boot.check (b : Boot) (ok : Bool) (code : Nat) : Boot :=
  b.andThen (fun s => if ok then .on s else .fail s code)

def Boot.check' (b : Boot) (ok : State → Bool) (code : Nat) : Boot :=
  b.andThen (fun s => if ok s then .on s else .fail s code)

/-- A phase is reached: its number and its duration. -/
def Boot.phase (b : Boot) (r : ColdReport) (n : Nat) : Boot :=
  b.andThen (fun s =>
    let ds := (List.range 8).map (fun i => if i + 1 = n then r.durations.getD i 0 else s.start.durations.getD i 0)
    let s := { s with start := { s.start with phase := n, durations := ds } }
    if r.overrun = some n then .fail s (16 * n + 15) else .on s)

/-- Power comes up: eras advance from flash and local counts restart (01 R35). -/
def State.powerUp (s : State) : State :=
  let era : Tab W16 := (List.range s.dieCount).map (fun d => (d, s.clock.flashEra.get 0 d + 1))
  let localc : Tab W64 := (List.range s.dieCount).map (fun d => (d, 0))
  { s with clock := { s.clock with era, flashEra := era, localc, trimmed := [] }
           start := { s.start with powerUpAt := s.clock.refc, tripped := false } }

/-- Whether a bank passes Table 19.3 at start-up. -/
def State.bankOk (s : State) (ty : Nat) (b : FlashBank) : Bool :=
  b.mark != .invalid && (b.factory || s.pkgCode [ty] updLimit true b.pkg = 0)

/-- Table 19.5 orders 3 and 4: the trial bank, else the active one, then the other once; a bank that fails is marked
invalid. -/
def State.chooseBank (s : State) (ty : Nat) : State × Option Nat :=
  let banks := if ty = 1 then s.fw.fwBanks else s.fw.cfgBanks
  let markOf (n : Nat) := (banks.get {} n).mark
  let first := if markOf 0 == .trial then 0 else if markOf 1 == .trial then 1 else if markOf 0 == .active then 0 else 1
  let invalid (s : State) (n : Nat) : State :=
    { s with fw := s.fw.setBank ty n { banks.get {} n with mark := .invalid } }
  if s.bankOk ty (banks.get {} first) then (s, some first)
  else
    let s := invalid s first
    if s.bankOk ty (banks.get {} (1 - first)) then (s, some (1 - first)) else (invalid s (1 - first), none)

/-- R449: measurements and version of the firmware that runs. -/
def State.bootFirmware (s : State) (n : Nat) : State :=
  let b := s.fw.fwBanks.get {} n
  let p := pkgOf b.pkg
  let v := if b.factory then 0 else p.version
  let meas (i : Nat) : List Byte :=
    if b.factory then fit 32 (Config.factoryStage i)
    else sha3_256 ((((stageTable p.body).getD []).find? (fun e => e.1 == i)).map (·.2) |>.getD [])
  { s with fw := { s.fw with running := n, version := v, newFloor := if b.factory then 0 else p.floor
                             stages := [1, 2, 3, 4].map (fun i => ⟨i, n, v, meas i⟩) }
           start := { s.start with stageIsland := [meas 3, meas 4] } }

/-- 17 R424, 03 R100: the bundle's values, epoch, repair words and trims are in force. A trim byte of 1 is a valid trim, any
other is none (DESIGN CHOICE, log 99). -/
def State.bootBundle (s : State) (n : Nat) : State :=
  let b := s.fw.cfgBanks.get {} n
  let c : Bundle := if b.factory then { trims := List.replicate 6 1 } else (bundleOf (pkgOf b.pkg).body).getD {}
  let word (u : Nat) : W32 := c.repair.getD u 0
  let mus : Tab MUnit := (List.range 64).map (fun u =>
    (u, { s.mu u with repair := word u, proposed := word u, state := if bit (word u).toNat 20 then 2 else 0 }))
  let trimmed : Tab Bool := (List.range 6).map (fun d => (d, c.trims.getD d 0 == 1))
  { s with mus, clock := { s.clock with trimmed }
           dict := { eff := c.vals.filter (fun e => e.1 / 256 != 0x6010), epoch := c.epoch }
           fw := { s.fw with inForce := n
                             bundleMeas := if b.factory then fit 32 Config.factoryBundle else (pkgOf b.pkg).bodyHash
                             trainCache := c.train } }

/-- R471: the stored training results: of the training area, then of the bundle in force. -/
def Firmware.trained (f : Firmware) : Tab (List Byte) :=
  f.trainCache.foldl (fun t e => if t.has e.1 then t else t.put e.1 e.2) f.trainArea

/-- R471: a stack with no stored training result, or one that does not fit it (`again`), is trained in full, and the training
area rewritten. -/
def State.train (s : State) (n : Nat) (again : Bool) : State :=
  if s.fw.trained.has n && !again then s
  else
    let (k, s) := s.draw
    { s with fw := { s.fw with trainArea := s.fw.trainArea.put n (fit 256 (Config.freeBytes k 256)) } }

/-- Phase 3: stacks come up or fail. -/
def State.startStacks (s : State) (bad again : List Nat) : State :=
  (List.range s.stackCount).foldl (fun s n =>
    let s := s.modStack n (fun k => { k with state := if bad.contains n then 3 else 1 })
    if bad.contains n then s else s.train n (again.contains n)) s

/-- Phase 4: I/O dies, ports and codec engines. -/
def State.startIo (s : State) (r : ColdReport) : State :=
  let s := (List.range (s.dieCount - 4)).foldl (fun s i =>
    s.modDie (4 + i) (fun d => { d with present := true, vtarget := 750, rail := 75000 })) s
  let s := (List.range s.codecCount).foldl (fun s e => s.modEngine e (fun g =>
    { g with removed := r.badCodecs.contains e, disabled := s.cfg 0x7010 (e + 1) == 0 })) s
  (List.range s.portCount).foldl (fun s i => s.modPort i (fun p => { p with failed := r.badPorts.contains i })) s

/-- Phase 5: the ring, when the receiver locks. -/
def State.startRing (s : State) (lock : Bool) : State :=
  { s with ring := { s.ring with inserted := lock, addr := s.cfg 0x2010 2, cycleAt := s.clock.refc } }

/-- Phase 6: enabled ports wait in Detect. -/
def State.startPorts (s : State) : State :=
  (List.range s.portCount).foldl (fun s i => s.modPort i (fun p =>
    { p with state := if s.cfg 0x4035 (i + 1) = 0 then 6 else 1 })) s

/-- R473: the self test of one compute die; `d` of a test is a unit of the die. -/
def State.testDie (s : State) (d : Nat) (t : DieTest) : State :=
  let dead := !t.ok || !t.memCtlOk || !t.trimOk
  let s := s.modDie d (fun x => { x with
    present := true, failed := dead, spindleOut := x.spindleOut || !t.spindleOk, rail := 100 * x.vtarget
    mask := BitVec.ofNat 16 (s.cfg 0x5010 (d + 1)), disabled := s.cfg 0x6020 (d + 1) == 0 })
  let s := if t.memCtlOk then s else
    (List.range s.spd).foldl (fun s i => s.modStack (d * s.spd + i) (fun k => { k with state := 3 })) s
  let s := { s with clock := { s.clock with trimmed := s.clock.trimmed.put d t.trimOk } }
  let s := t.badUnits.foldl (fun s u => if u < 16 then
    s.modMu (16 * d + u) (fun m => { m with state := if m.state = 2 then 2 else 1 }) else s) s
  t.located.foldl (fun s c => if c.1 < 16 then
    s.modMu (16 * d + c.1) (fun m => { m with
      proposed := (assignSpare m.repair m.proposed c.2.1 c.2.2).1, located := (c.2.1, c.2.2) :: m.located }) else s) s

/-- R473: the oscillator of an I/O die is measured and trimmed. -/
def State.trimIo (s : State) (d : Nat) (t : DieTest) : State :=
  { s with clock := { s.clock with trimmed := s.clock.trimmed.put d t.trimOk } }

def State.testDies (s : State) (ts : List DieTest) : State :=
  (List.range (s.dieCount - 4)).foldl (fun s i => s.trimIo (4 + i) (ts.getD (4 + i) {}))
    ((List.range 4).foldl (fun s d => s.testDie d (ts.getD d {})) s)

/-- R34: every present die that has not failed is trimmed. An I/O die that cannot be keeps phase 7 from ending (log 91). -/
def State.allTrimmed (s : State) : Bool :=
  (List.range 6).all (fun d => !(s.die d).present || (s.die d).failed || s.clock.trimmed.get false d)

/-- R450: a trial bank that ran becomes active, and the other bank is then marked older. -/
def confirmBank (t : Tab FlashBank) (n : Nat) : Tab FlashBank :=
  if (t.get {} n).mark == .trial then
    let other := t.get {} (1 - n)
    (t.put n { t.get {} n with mark := .active }).put (1 - n)
      { other with mark := if other.mark == .invalid then .invalid else .older }
  else t

/-- Phase 8: Ready. -/
def State.ready (s : State) : State :=
  let f := s.fw
  { s with
    fw := { f with fwBanks := confirmBank f.fwBanks f.running, cfgBanks := confirmBank f.cfgBanks f.inForce
                   floorFw := max f.floorFw f.newFloor }
    start := { s.start with readyAt := s.clock.refc, prefWindow := s.cfg 0x2020 5 ≤ 8, prefClaimed := false } }

/-- R465 step 3: the carried record is the first entry of the log, and a record 0x33 follows; that of a thermal trip goes to the
log and the ring. -/
def State.enterCarried (s : State) : State :=
  match s.start.carried with
  | none => s
  | some r =>
    let s := { s with log := s.log.enter r, start := { s.start with carried := none } }
    if r.cause = 0x31 then { s with ring := s.ring.enter r }
    else
    s.raise { cause := 0x33, sev := 4, cls := r.cls, detail := BitVec.ofNat 64 r.cause }

/-- Phases 1 and 2. -/
def State.bootEarly (s : State) (r : ColdReport) : Boot :=
  let b := ((Boot.on s.powerUp).phase r 1).check r.inputOk 0x11
  let b := (((b.check r.flashOk 0x12).phase r 2).check r.rootOk 0x21).check r.identityOk 0x24
  let b := (b.check r.counterOk 0x25).andThen (fun s =>
    match s.chooseBank 1 with
    | (s, some n) => .on (s.bootFirmware n)
    | (s, none) => .fail s 0x22)
  b.andThen (fun s =>
    match s.chooseBank 2 with
    | (s, some n) => .on (s.bootBundle n)
    | (s, none) => .fail s 0x23)

/-- Phases 5 and 6, which a held failure completes too (R475). -/
def State.startLinks (s : State) (r : ColdReport) : State := (s.startRing r.rxLock).startPorts.makeAdmins

/-- Phases 3 to 8. -/
def State.bootLate (s : State) (r : ColdReport) : Boot :=
  let b := ((Boot.on s).phase r 3).andThen (fun s => .on (s.startStacks r.badStacks r.retrained))
  let b := (b.check (!r.badStacks.contains 0) 0x31).phase r 4
  let b := (b.andThen (fun s => .on (s.startIo r))).check
    (!r.badIo.any (fun n => 44 ≤ n && n ≤ 48)) 0x41
  let b := ((b.phase r 5).phase r 6).andThen (fun s => .on (s.startLinks r))
  let b := (b.phase r 7).andThen (fun s => .on (s.testDies r.dies))
  let b := b.andThen (fun s => if (List.range 4).all (fun d => (s.die d).failed) then .fail s 0x71 else .on s)
  ((b.check' State.allTrimmed 0x7F).phase r 8).andThen (fun s => .on s.ready)

/-- Expiries of the watchdog within the hour before. -/
def State.recentExpiries (s : State) : List W64 := s.start.wdTimes.filter (fun t => s.now < t.toNat + secCounts 3600)

/-- Record 0x32, which the module controller queues when it has restarted (20 R468). -/
def State.expiryRecord (s : State) : EvRec :=
  { cause := 0x32, sev := 2, die := 6, detail := BitVec.ofNat 64 s.start.wdExpiries }

/-- R476: the watchdog expires n times during the start: the expiries count, and each start resumes from phase 1. -/
def State.startExpiries (s : State) (n : Nat) : State :=
  { s with start := { s.start with
      wdExpiries := satAdd 32 s.start.wdExpiries n, wdTimes := s.recentExpiries ++ List.replicate n s.clock.refc } }

/-- The outcome of a start that the watchdog lets end: Ready, held, or latched in reset with its code. -/
def State.startPhases (s : State) (r : ColdReport) : State :=
  let failed (s : State) (p : Power) (held : Bool) (code : Nat) : State :=
    { s with start := { s.start with power := p, held, fail := code } }
  match s.bootEarly r with
  | .fail s c => failed s .latched false c
  | .on s =>
    match ({ s with start := { s.start with power := .running } }).bootLate r with
    | .on s => s.enterCarried
    | .fail s c =>
      let s := if s.start.phase < 5 then s.startIo r else s
      let s := if s.start.phase < 7 then s.startLinks r else s
      (failed s .running true c).enterCarried

/-- R476: a start; the third expiry within one hour stops the module, and the record of each is queued after the restart. -/
def State.coldStart (s : State) (r : ColdReport) : State :=
  let t := s.startExpiries r.watchdog
  if r.watchdog ≠ 0 && t.start.wdTimes.length ≥ 3 then t.moduleStop { t.expiryRecord with sev := 4 } true
  else
    let u := t.startPhases r
    if u.runs then (List.range r.watchdog).foldl (fun s _ => s.raise s.expiryRecord) u else u

/-- COLD_START: the input is applied, or the module leaves reset. -/
def execColdStart (r : ColdReport) (s : State) : Out :=
  .next (match s.start.power with
  | .off | .reset => s.coldStart r
  | _ => s)

/-! ### Commands that end in a reset -/

/-- MODULE_RESET: 1 ms after it was asked for (R436). -/
def execModuleReset (s : State) : Out :=
  .next (match s.start.resetAt with
  | some t => if s.now ≥ t.toNat + usCounts 1000 then s.intoReset .reset else s
  | none => s)

/-- MODULE_STOP (R465): a class 4 fault of a block whose loss stops the module, or a class 9 fault. -/
def stopsModule (die block : Nat) : Bool :=
  (die < 4 && 25 ≤ block && block ≤ 30) || (4 ≤ die && die ≤ 5 && (block = 28 || block = 29)) ||
    (die = 4 && 44 ≤ block && block ≤ 48)

def execModuleStop (die block cause : Nat) (s : State) : Out :=
  let cls := if cause = 0x20 then (if die = 4 && block = 48 then 9 else 1) else causeClass cause
  let known := if cause = 0x20 then die = 4 && block = 48 else cause = 0x21 || cause = 0x22
  .next (if s.runs && stopsModule die block && s.blockPresent die block && known then
    s.moduleStop { cause, cls, sev := 4, die, block } false
  else s)

/-- INPUT_LOSS (22 R488): the power stages switch off; the island loses its counter, and a cycle of the input ends what
held the module in reset. -/
def execInputLoss (s : State) : Out :=
  .next (if s.start.power == .off then s
  else
    let s := s.intoReset .off
    { s with clock := { s.clock with refc := 0, era := [] }, start := { power := .off, carried := s.start.carried } })

/-- Banks on trial that run. -/
def Firmware.onTrial (f : Firmware) : Bool :=
  (f.fwBanks.get {} f.running).mark == .trial || (f.cfgBanks.get {} f.inForce).mark == .trial

/-- R450: trial banks that run are marked invalid. -/
def Firmware.rejectTrial (f : Firmware) : Firmware :=
  let cut (t : Tab FlashBank) (n : Nat) : Tab FlashBank :=
    if (t.get {} n).mark == .trial then t.put n { t.get {} n with mark := .invalid } else t
  { f with fwBanks := cut f.fwBanks f.running, cfgBanks := cut f.cfgBanks f.inForce }

/-- TRIAL_BANK_TIMEOUT: no Ready within 30 s of power-up on a trial bank. -/
def execTrialBankTimeout (s : State) : Out :=
  .next (if s.start.fail ≠ 0 && 2 ≤ s.start.phase && s.fw.onTrial && !s.start.tripped &&
      s.now ≥ s.start.powerUpAt.toNat + secCounts 30 then
    ({ s with fw := s.fw.rejectTrial }).intoReset .reset
  else s)

end Sys2Proof.Machine
end

