-- ==== Sys2Proof/Machine/Ports.lean ====
section
/-! DEFINITION. Host ports (16): links and their loss, doorbells and interrupts, HDM decoders, CXL.mem, bias, and the mailbox
commands that set a port up. -/
namespace Sys2Proof.Machine

/-! ### Links (R374, R377, R392 to R395) -/

/-- Another active port of a port's partition. -/
def State.otherPort (s : State) (p : Nat) : Bool :=
  match s.partOfPort p with
  | some q => (s.activePorts q).any (· != p)
  | none => false

/-- Start a disable with no fence; one of a context whose CTX-SAVE runs waits for it (R395). -/
def State.lossDisable (s : State) (c : Option Nat) (sc : Scope) : State :=
  match c with
  | some k =>
    if s.saving k then s.modCtx k (fun x => { x with afterSave := x.afterSave ++ [sc] })
    else s.startDisable { scope := sc, fence := none, at' := s.clock.refc }
  | none => s.startDisable { scope := sc, fence := none, at' := s.clock.refc }

/-- Table 16.7 order 3. -/
def State.lossWork (s : State) (p : Nat) (other : Bool) : State :=
  if other then
    (s.homed p).foldl (fun s q => s.lossDisable ((s.queues.find q).bind (·.ctx)) (.queue q)) s
  else
    match s.partOfPort p with
    | some k => ((s.ctxs.filter (fun e => e.2.part == k)).map (·.1)).foldl (fun s c => s.lossDisable (some c) (.ctx c)) s
    | none => s

/-- Table 16.7: a surprise loss. `stays`: the link stays trained (hot and function-level reset); `ide`: an IDE failure. -/
def State.loss (s : State) (p : Nat) (stays ide : Bool) : State :=
  let part := s.partOfPort p
  let other := s.otherPort p
  let s := if (s.port p).state = 4 && s.gov.ladder > 1 then s.wake 1 else s
  let s := s.modPort p (fun x => { x with
    state := if stays then x.state else 1, losses := satAdd 32 x.losses 1, quiescing := false, session := none
    biasJob := none, recovering := none, lossSince3 := !stays
    ideIo := x.ideIo && stays, ideMem := x.ideMem && stays })
  let s := s.lossWork p other
  let rec' (c : Nat) : EvRec :=
    { cause := c, sev := 2, die := portDie p, block := 36 + p % 4, part, detail := BitVec.ofNat 64 p }
  let s := if ide then s.raise (rec' 0x41) (some p) else s
  s.raise (rec' 0x40) (some p)

/-- A port whose link can be lost: active, and not quiesced. -/
def Port.losable (p : Port) : Bool := (p.active || p.state == 7) && !p.quiesced

/-- SURPRISE_LOSS (R394). A link that enters Recovery has 10 ms to come back (RECOVERY_TIMEOUT, LINK_UP). -/
def execSurpriseLoss (port : Fin 8) (why : LossWhy) (s : State) : Out :=
  .next (if s.runs && (s.port port.val).losable then
    match why with
    | .recovery => s.modPort port.val (fun x => { x with recovering := some (x.recovering.getD s.clock.refc) })
    | .ideFailure => s.loss port.val false true
    | _ => s.loss port.val false false
  else s)

/-- RECOVERY_TIMEOUT. -/
def execRecoveryTimeout (port : Fin 8) (s : State) : Out :=
  .next (match (s.port port.val).recovering with
  | some t => if s.runs && s.now ≥ t.toNat + usCounts 10000 then s.loss port.val false false else s
  | none => s)

/-- What a hot or function-level reset clears: the admin transport and the event ring. -/
def State.clearRings (s : State) (p : Nat) : State :=
  let s := s.modPort p (fun x => { x with evring := none })
  match (s.port p).admin with
  | some q => s.modQueue q (fun x => { x with tr := {}, head := 0, tail := 0, consumed := 0, written := 0, waitRecs := [] })
  | none => s

/-- HOT_RESET (R394). -/
def execHotReset (port : Fin 8) (s : State) : Out :=
  .next (if s.runs && ((s.port port.val).active || (s.port port.val).state == 7) then
    let s := (s.loss port.val true false).clearRings port.val
    s.modPort port.val (fun x => { x with
      hdm0 := {}, hdm1 := {}, ideIo := false, ideMem := false
      state := if x.state = 3 && s.cfg 0x4036 (port.val + 1) = 1 then 7 else x.state })
  else s)

/-- FUNCTION_LEVEL_RESET (R394). -/
def execFunctionLevelReset (port : Fin 8) (s : State) : Out :=
  .next (if s.runs && ((s.port port.val).active || (s.port port.val).state == 7) then
    (s.loss port.val true false).clearRings port.val
  else s)

/-- LINK_UP (R374, R392): training from Detect ends, or a link returns from L1 or from Recovery. -/
def execLinkUp (port : Fin 8) (width rate : Nat) (cxl : Bool) (s : State) : Out :=
  let p := port.val
  let x := s.port p
  let good := cxl && (width = 4 || width = 8 || width = 16) && (rate = 8 || rate = 16 || rate = 32)
  let ide := s.cfg 0x4036 (p + 1) = 1 && !(x.ideIo && x.ideMem)
  .next (if !s.runs || p ≥ s.portCount || x.failed then s
  else if x.recovering.isSome then s.modPort p (fun x => { x with recovering := none })
  else if x.state = 4 then s.modPort p (fun x => { x with state := 3 })
  else if x.state = 1 || x.state = 2 || x.state = 5 then
    if good then
      s.modPort p (fun x => { x with
        state := if ide then 7 else 3, width, rate, quiesced := false, lossSince3 := x.lossSince3 && ide })
    else s.modPort p (fun x => { x with state := 5, width := 0, rate := 0 })
  else s)

/-- PLANNED_LINK_DOWN (R393). -/
def execPlannedLinkDown (port : Fin 8) (s : State) : Out :=
  let x := s.port port.val
  .next (if s.runs && x.quiesced && (x.active || x.state == 7) then
    s.modPort port.val (fun x => { x with state := 1, session := none, ideIo := false, ideMem := false })
  else s)

/-! ### Doorbells and interrupts (R386, R387) -/

/-- R386: a doorbell write that is not ignored. -/
def State.ringDoorbell (s : State) (q : Nat) (v : W64) : State :=
  let s := s.modQueue q (fun x =>
    let c := fld v 63 32
    { x with tail := fld v 31 0, consumed := x.consumed + (c + 2 ^ 32 - x.consumed % 2 ^ 32) % 2 ^ 32 })
  (s.drainRecords q).pump q

/-- A queue whose doorbell a port may ring with this tail. -/
def State.rings (s : State) (p q : Nat) (v : W64) : Bool :=
  match s.queues.find q, s.partOfPort p with
  | some x, some k => x.part == k && x.tr.set && fld v 31 0 < 2 ^ (x.tr.sqlog - 6)
  | _, _ => false

/-- DOORBELL: `off` is the offset in the port's BAR. -/
def execDoorbell (port : Fin 8) (off : Nat) (len : Nat) (val : W64) (s : State) : Out :=
  let p := port.val
  let x := s.port p
  let q := off / 8 % 0x20000
  .next (if !s.runs || !x.active || x.quiescing || x.quiesced || off < 0x100000 || off ≥ 0x180000 then s
  else if off % 8 = 0 && len = 8 && s.rings p q val then
    -- the write arrives on a link that is up again, and wakes the module (14 Table 14.4)
    ((if x.state = 4 then s.modPort p (fun x => { x with state := 3 }) else s).rouse).ringDoorbell q val
  else s.modPort p (fun x => { x with ignored := satAdd 32 x.ignored 1 }))

/-- INTERRUPT_DELAY: CTIME has passed since the first unsignalled record. -/
def execInterruptDelay (q : Nat) (s : State) : Out :=
  .next (match s.queues.find q with
  | some x =>
    if x.unsig > 0 && x.tr.vec ≠ 0 && s.now ≥ x.unsigAt.toNat + usCounts x.tr.ctime then
      (s.modQueue q (fun y => { y with unsig := 0 })).send (.msix x.port x.tr.vec)
    else s
  | none => s)

/-! ### HDM decoders and CXL.mem (R379 to R381) -/

def gran : Nat := 0x10000000

/-- HDM_DECODER_COMMIT (R380). -/
def execHdmDecoderCommit (port : Fin 8) (n : Fin 2) (base size skip ways : Nat) (s : State) : Out :=
  let x := s.port port.val
  let room := ((s.partOfPort port.val).map s.partBytes).getD 0
  let before := if n.val = 0 then 0 else x.hdm0.skip + x.hdm0.size
  let ok := base % gran = 0 && size % gran = 0 && skip % gran = 0 && ways = 1 &&
    (n.val = 0 || x.hdm0.committed) && before + skip + size ≤ room
  let h : Hdm := { base, size, skip, committed := ok, error := !ok }
  .next (if s.runs && x.active then
    s.modPort port.val (fun x => if n.val = 0 then { x with hdm0 := h } else { x with hdm1 := h })
  else s)

/-- R380: the partition offset of a host physical address. -/
def Port.offset (p : Port) (h : Nat) : Option Nat :=
  if p.hdm0.committed && p.hdm0.base ≤ h && h < p.hdm0.base + p.hdm0.size then some (p.hdm0.skip + (h - p.hdm0.base))
  else if p.hdm1.committed && p.hdm1.base ≤ h && h < p.hdm1.base + p.hdm1.size then
    some (p.hdm0.skip + p.hdm0.size + p.hdm1.skip + (h - p.hdm1.base))
  else none

/-- The device address of a host physical address through a port, with its partition. -/
def State.hpaAddr (s : State) (p h : Nat) : Option (Nat × Nat) :=
  match s.partOfPort p, (s.port p).offset h with
  | some k, some o => (offsetAddr (s.extents k) o).map (fun a => (k, a))
  | _, _ => none

/-- Record 0x42: a request no committed decoder covers. -/
def State.uncovered (s : State) (p h : Nat) : State :=
  s.raise { cause := 0x42, die := portDie p, block := 36 + p % 4, part := s.partOfPort p
            detail := BitVec.ofNat 64 (p + h % 2 ^ 48 * 2 ^ 8) }

/-- A stack action keeps host accesses off its stack (21 R479). -/
def State.acting (s : State) (a : Nat) : Bool := (s.stack (a / stackRange)).acting

/-- Where a host's access to a line goes: the device address and its partition, where a committed decoder covers it. -/
def State.hostLine (s : State) (p hpa : Nat) : Option (Nat × Nat) := s.hpaAddr p (hpa - hpa % 64)

/-- The response of a read whose data could not be had: poison. -/
def deadLine : List Byte := List.replicate 64 0

/-- A read of one 64-byte line by the host of a port (Table 16.4). -/
def State.hostRead (s : State) (p hpa : Nat) : State :=
  let h := hpa - hpa % 64
  let dead := deadLine
  match s.hostLine p hpa with
  | none => (s.uncovered p h).send (.memResp p dead true true)
  | some (k, a) =>
    let inv := (s.hostBias a).isNone
    if s.acting a then s.send (.memResp p dead true inv)
    else
      match s.devRead a 64 false with
      | (s, .ok, bs) => s.send (.memResp p bs false inv)
      | (s, .unmapped, _) => s.send (.memResp p dead true inv)
      | (s, .hbm 2 b, _) => (s.raise (s.hbmRecord 0x23 2 b (some k) none none)).send (.memResp p dead true inv)
      | (s, _, _) => s.send (.memResp p dead true inv)

/-- The halves of a 64-byte line that a write with byte enables covers whole, and in part. -/
def halvesOf (data : List (Option Byte)) : List (Nat × Bool) :=
  (List.range 2).filterMap (fun i =>
    let n := (((data.drop (32 * i)).take 32).filter Option.isSome).length
    if n = 0 then none else some (i, n = 32))

/-- Bytes of a write with byte enables reach memory. -/
def putBytes (m : Mem) (a : Nat) : List (Option Byte) → Mem
  | [] => m
  | some b :: t => putBytes (m.put a b) (a + 1) t
  | none :: t => putBytes m (a + 1) t

/-- A host's write at the home controller: cached copies are invalidated (Table 16.4); a partial write of an uncorrectable
half writes nothing (12 R499). -/
def State.hostWrite (s : State) (a : Nat) (data : List (Option Byte)) : State × AccR :=
  let n := a / stackRange
  let off := a % stackRange
  let base := off - off % 256
  let first := off % 256 / 32
  let hs := halvesOf data
  let whole := (hs.filter (·.2)).map (fun h => first + h.1)
  let part := (hs.filter (fun h => !h.2)).map (fun h => first + h.1)
  let d := n / s.spd
  let cached := (s.cache d).lines.find? (fun l => l.line == a / 256)
  let hit := match cached with | some l => part.any (fun i => flag l.poison i) | none => false
  let marks := badMarks (s.stack n).bad base
  if hit then (s, .hbm 1 a)
  else
    let s := s.flushWhere d (fun l => l.line == a / 256)
    let s := if part.isEmpty then s else s.transfer n
    match part.find? (fun i => flag marks i) with
    | some i =>
      (s.modStack n (fun k => { k with uncorrectable := satAdd 32 k.uncorrectable 1 }), .hbm 2 (a - a % 256 + 32 * i))
    | none =>
      let s := (s.modStack n (fun k => k.heal base whole)).queueWrite a 64
      ({ s with mem := putBytes s.mem a data }, .ok)

/-- R220: the line holds bytes of an allocation that an open key-value record keeps read-only, for hosts as well. -/
def State.lockedLine (s : State) (a : Nat) : Bool :=
  s.ctxs.any (fun e => e.2.allocs.any (fun x => x.2.locked && x.2.runs.any (fun r => r.1 < a + 64 && a < r.1 + r.2)))

/-- A write of one 64-byte line with byte enables by the host of a port. A line that is read-only for hosts is not written
(log 93). -/
def State.hostStore (s : State) (p hpa : Nat) (data : List (Option Byte)) : State :=
  let h := hpa - hpa % 64
  match s.hostLine p hpa with
  | none => (s.uncovered p h).send (.memDrop p)
  | some (k, a) =>
    match s.region a with
    | .stack _ _ =>
      if s.acting a || s.lockedLine a then s.send (.memDrop p)
      else
        match s.hostWrite a data with
        | (s, .ok) => s
        | (s, .hbm 1 _) => s.send (.memDrop p)
        | (s, .hbm _ b) => (s.raise (s.hbmRecord 0x23 2 b (some k) none none)).send (.memDrop p)
        | (s, _) => s.send (.memDrop p)
    | _ => s.send (.memDrop p)

/-- SNOOP (Table 16.1): no host line is ever cached. -/
def execSnoop (port : Fin 8) (_addr : Nat) (s : State) : Out :=
  .next (if s.runs && (s.port port.val).active then s.send (.snoopResp port.val) else s)

/-! ### Register window (R378, R388) -/

/-- What an aligned 8-byte read of a port's BAR returns in the ranges the manual fixes: semaphore values, and zero. -/
def State.barRead (s : State) (p off : Nat) : W64 :=
  if 0x200000 ≤ off && off < 0x240000 then
    match s.sems.find (off / 16 % 0x20000) with
    | some k => if s.partOfPort p = some k.part then (if off % 16 = 0 then k.value else k.failed) else 0
    | none => 0
  else 0

/-! ### Mailbox commands of a port (R382, R385, R389, R393) -/

/-- A port serves its mailbox. -/
def State.mailboxOk (s : State) (p : Nat) : Bool := s.runs && (s.port p).active

/-- ADMIN_SETUP. -/
def execAdminSetup (port : Fin 8) (t : Transport) (s : State) : Out :=
  let p := port.val
  .next (if !s.mailboxOk p then s
  else if s.start.held then s.send (.mailbox p .unsupported [])
  else
    match (s.port p).admin with
    | some q =>
      match s.queues.find q with
      | some x =>
        if t.ok x.attrs.depth then
          (s.modQueue q (fun x => { x with tr := t, head := 0, tail := 0, consumed := 0, written := 0, unsig := 0
                                           waitRecs := [] })).send (.mailbox p .success [])
        else s.send (.mailbox p .invalidInput [])
      | none => s.send (.mailbox p .invalidInput [])
    | none => s.send (.mailbox p .invalidInput []))

/-- EVENT_SETUP: the rules of completion rings bound its fields (log 24). -/
def execEventSetup (port : Fin 8) (base : W64) (log2n : Nat) (ptr : W64) (vec : Nat) (s : State) : Out :=
  let p := port.val
  let ok := (s.partOfPort p).isSome && base.toNat % 16 = 0 && ptr.toNat % 8 = 0 && log2n ≤ 20 && vec ≤ 2047
  .next (if !s.mailboxOk p then s
  else if ok then
    (s.modPort p (fun x => { x with
      evring := some { base := base.toNat, log2n, ptr := ptr.toNat, vec } })).send (.mailbox p .success [])
  else s.send (.mailbox p .invalidInput []))

/-- One frame changes its bias (R382). -/
def State.biasFrame (s : State) (p part : Nat) (toHost : Bool) (f : Nat) : State :=
  let old := s.bias.get [] part
  if toHost then
    let s := match offsetAddr (s.extents part) (frameBytes * f) with
      | some b => s.flushWhere (b / stackRange / s.spd) (fun l => b ≤ l.line * 256 && l.line * 256 < b + frameBytes)
      | none => s
    { s with bias := s.bias.put part (if old.contains f then old else old ++ [f]) }
  else
    let s := s.send (.ownFrame p f)
    { s with bias := s.bias.put part (old.filter (· != f)) }

/-- BIAS_SET: a background command, one at a time for a port; frames of the port's partition change one by one, in ascending
order (BIAS_SET's time: log 97). -/
def execBiasSet (port : Fin 8) (first count : Nat) (toHost : Bool) (s : State) : Out :=
  let p := port.val
  .next (if !s.mailboxOk p then s
  else
    match s.partOfPort p with
    | some k =>
      if first + count > s.partBytes k / frameBytes then s.send (.mailbox p .invalidInput [])
      else if (s.port p).biasJob.isSome then s.send (.mailbox p .busy [])
      else (s.modPort p (fun x => { x with
        biasJob := if count = 0 then none else some ⟨first, count, toHost⟩ })).send (.mailbox p .background [])
    | none => s.send (.mailbox p .invalidInput []))

/-- The job after its next frame. -/
def BiasJob.advance (j : BiasJob) : Option BiasJob :=
  if j.left ≤ 1 then none else some { j with next := j.next + 1, left := j.left - 1 }

/-- The next frame of a port's BIAS-SET has changed (R382); a frame that the partition no longer has is passed over. -/
def State.biasNext (s : State) (p : Nat) : State :=
  match (s.port p).biasJob with
  | none => s
  | some j =>
    let s := match s.partOfPort p with
      | some k => if j.next < s.partBytes k / frameBytes then s.biasFrame p k j.toHost j.next else s
      | none => s
    s.modPort p (fun x => { x with biasJob := j.advance })

/-- What a count of the reference counter brings to the ports' BIAS-SETs. -/
def State.biasPulse (s : State) : State :=
  (List.range 8).foldl (fun s p =>
    match (s.port p).biasJob with
    | some j => if Config.biasPulse p j.next s.now then s.biasNext p else s
    | none => s) s

/-- One count of the reference counter, which the island keeps while the module has its input. -/
def State.tick (s : State) : State := if s.start.power == .off then s else (s.elapse 1).biasPulse

/-- PORT_QUIESCE: it completes when the disables of its queues have ended (DISABLE_COMPLETE). -/
def execPortQuiesce (port : Fin 8) (s : State) : Out :=
  let p := port.val
  .next (if !s.mailboxOk p then s
  else if (s.partOfPort p).isNone then s.send (.mailbox p .invalidInput [])
  else if (s.port p).quiescing then s.send (.mailbox p .busy [])
  else (s.send (.mailbox p .background [])).quiesce p)

end Sys2Proof.Machine
end

