-- ==== Sys2Proof/Machine/Governor.lean ====
section
/-! DEFINITION. The Headstock governor (14): the gate period with its reports, budgets, credits, thermal response and
voltage targets, and the power ladder. -/
namespace Sys2Proof.Machine

/-! ### Time and reports (R338, R339) -/

/-- The reference counter reaches `t`. -/
def State.advanceTo (s : State) (t : Nat) : State := s.elapse (t - s.now)

/-- The count of the next gate pulse. -/
def State.nextGate (s : State) : Nat :=
  let t := cdiv s.now 1000 * 1000
  if t ≤ s.gov.lastGate.toNat then s.gov.lastGate.toNat + 1000 else t

end Sys2Proof.Machine
namespace Sys2Proof

/-- A vote of three readings: the middle one, which two readings that agree give (20 Table 20.1 class 6; log 38). -/
def vote {α : Type} [LE α] [DecidableRel (α := α) (· ≤ ·)] (r : α × α × α) : α :=
  let (a, b, c) := r
  let lo := if a ≤ b then a else b
  let hi := if a ≤ b then b else a
  if c ≤ lo then lo else if c ≤ hi then c else hi

/-- A channel of a vote dissents. -/
def dissent {α : Type} [DecidableEq α] (r : α × α × α) : Bool := !(r.1 == r.2.1 && r.2.1 == r.2.2)

/-- R339: energy of the period in uJ. -/
def DieReport.energy (r : DieReport) : Nat := (r.sensors.take 64).foldl (fun n x => n + vote x.energy) 0

/-- R339: the highest of the 64 voted temperatures. -/
def DieReport.hot (r : DieReport) : Int :=
  match (r.sensors.take 64).map (fun x => vote x.temp) with
  | [] => 0
  | t :: ts => ts.foldl (fun a b => if a ≤ b then b else a) t

/-- Votes with a dissenting sensor (OD 0x8015). -/
def DieReport.dissents (r : DieReport) : Nat :=
  (r.sensors.take 64).foldl (fun n x => n + (if dissent x.energy then 1 else 0) + (if dissent x.temp then 1 else 0)) 0

/-- 01 R36: the lowest of a die's 16 or 4 pace monitors. -/
def DieReport.pace (r : DieReport) (die : Nat) : Nat :=
  match r.paces.take (if die < 4 then 16 else 4) with
  | [] => 0
  | p :: ps => ps.foldl min p

end Sys2Proof
namespace Sys2Proof.Machine

/-- The mean of a rail over the counts of the gate period, in mV. -/
def Die.meanRail (d : Die) : Nat := if d.railN = 0 then d.rail / 100 else d.railSum / d.railN / 100

/-- A die's report, or its absence. A pace read over a window in which the die was power-gated or left the gate is 0
(01 R38). -/
def State.dieReport (s : State) (d : Nat) (r : Option DieReport) : State :=
  let x := s.die d
  if !x.present then s
  else
    match r with
    | some r =>
      let s := s.modDie d (fun x => { x with
        energyWin := (r.energy :: x.energyWin).take 10, volt := x.meanRail
        pace := if x.gated then 0 else r.pace d, hot := r.hot, missed := 0
        sensorFault := false, dissents := satAdd 32 x.dissents r.dissents })
      -- 22 R486: the junction's range
      let s := { s with env := s.env.note s.clock.refc (r.hot < 0 || r.hot > 800) }.promiseRecord s
      if x.sensorFault then s.raise { cause := 0x27, sev := 2, die := d, block := 45 } else s
    | none =>
      let e := (x.budget * 10).floor.toNat
      let lost := x.missed + 1 ≥ 2 && !x.sensorFault
      let s := s.modDie d (fun x => { x with
        energyWin := (e :: x.energyWin).take 10, missed := x.missed + 1, sensorFault := x.sensorFault || lost })
      if lost then s.raise { cause := 0x27, sev := 2, die := d, block := 45, detail := 1 } else s

/-- Energy of a die over the period just ended. -/
def Die.lastEnergy (d : Die) : Nat := if d.present then d.energyWin.headD 0 else 0

/-! ### Accounting (13 R327, R350) -/

/-- Contexts with work on a die now, by class: of its running launches, and of the job its Spindle engine runs. -/
def State.working (s : State) (d : Nat) : List (Nat × Bool) :=
  ((s.runningOn d).map (fun e => (e.2.ctx, e.2.lc)) ++
    ((s.spin.get [] d).filter (fun j => (s.die d).spinCur == some (j.queue, j.item))).map (fun j => (j.ctx, j.lc))).eraseDups

/-- Contexts that worked on a die in the gate period. -/
def State.workers (s : State) (d : Nat) : List (Nat × Bool) :=
  (s.working d ++ (s.die d).worked.filter (fun w => s.ctxs.has w.1)).eraseDups

/-- An energy divided among workers: the manual does not say in what parts (log 8). -/
def divideEnergy (k : Nat) : List (Nat × Bool) → Nat → List ((Nat × Bool) × Nat)
  | [], _ => []
  | [w], e => [(w, e)]
  | w :: ws, e => let a := Config.freeNat (k + ws.length) (e + 1) % (e + 1); (w, a) :: divideEnergy k ws (e - a)

/-- Account one share of energy. -/
def State.chargeEnergy (s : State) (w : Nat × Bool) (e : Nat) : State :=
  let i := if w.2 then 2 else 5
  let part := ((s.ctxs.find w.1).map (·.part)).getD 0
  let s := s.modCtx w.1 (fun c => { c with acct := c.acct.set i (BitVec.ofNat 64 ((c.acct.getD i 0).toNat + e)) })
  let win := match s.gov.shareWin with
    | t :: ts => (t.1, t.2.put part (t.2.get 0 part + e)) :: ts
    | [] => [(s.clock.refc, [(part, e)])]
  { s with gov := { s.gov with shareWin := win, energy := s.gov.energy.put part (s.gov.energy.get 0 part + e) } }

/-- The energy of one period, die by die, goes to the contexts that worked there; the window of R350 is the last 100 ms. -/
def State.accountEnergy (s : State) : State :=
  let win := (s.clock.refc, []) :: s.gov.shareWin.filter (fun t => s.now < t.1.toNat + usCounts 100000)
  let s := { s with gov := { s.gov with shareWin := win } }
  (List.range 4).foldl (fun s d =>
    let (k, s) := s.draw
    let s := (divideEnergy k (s.workers d) (s.die d).lastEnergy).foldl (fun s w => s.chargeEnergy w.1 w.2) s
    s.modDie d (fun x => { x with worked := [] })) s

/-! ### Thermal response (R349, Table 14.2; 20 R467) -/

def State.thermal (s : State) (d : Nat) (reported : Bool) : State :=
  let x := s.die d
  let th : Int := 8 * (s.cfg 0x3010 2 : Nat)
  if !x.present then s
  else if x.sensorFault then s.modDie d (fun x => { x with f := 16 })
  else if !reported then s
  else
    let hold := x.hot > 800
    let f := if hold then 16 else if x.hot ≤ th - 16 then min (x.f + 1) 64 else if x.hot ≤ th then x.f else max (x.f - 4) 16
    let s := s.modDie d (fun x => { x with f, hold })
    if hold == x.hold then s
    else s.raise { cause := 0x30, die := d, block := 45
                   detail := BitVec.ofNat 64 (b2n hold + ofSigned 16 x.hot * 2 ^ 16) }

/-! ### Budgets and credits (R340, R341) -/

/-- Compute dies in L0 and not disabled. -/
def State.budgeted (s : State) : List Nat := if s.gov.ladder = 0 then (List.range 4).filter s.dieTakes else []

def Die.debitSum (d : Die) : Rat := (sumN (d.debits.map (·.energy)) : Rat) / 1000

/-- Measured power over the window with the debits not yet measured, in W. -/
def Die.need (d : Die) : Rat := ((sumN (d.energyWin.take 10) : Rat) + d.debitSum) / 100

def sumR (xs : List Rat) : Rat := xs.foldl (· + ·) 0

def State.budgets (s : State) : State :=
  let ds := s.budgeted
  let avail : Rat := (s.cfg 0x3010 1 : Nat) - (sumN (s.gov.restWin.take 10) : Rat) / 100
  let base : Rat := if ds.isEmpty then 0 else avail / (ds.length : Rat)
  let need (d : Nat) : Rat := (s.die d).need
  let spare := sumR (ds.map (fun d => max 0 (base - need d)))
  let excess := sumR (ds.map (fun d => max 0 (need d - base)))
  (List.range 4).foldl (fun s d =>
    let b : Rat :=
      if !ds.contains d then 0
      else if need d ≤ base then need d
      else base + (need d - base) * min 1 (spare / excess)
    s.modDie d (fun x =>
      let b := b * ((x.f : Rat) / 64)
      let y : Die := { x with budget := b, credit := b * 100 - (sumN (x.energyWin.take 9) : Rat) }
      { y with short := decide (y.creditNow < 0) || y.f < 64 })) s

/-! ### Deadlines (R348) -/

/-- An item and, of a REPLAY, the entries it runs. -/
def State.itemParts (s : State) (q id : Nat) : List Nat :=
  id :: (((s.queues.find q).map (·.items)).getD []).filterMap (fun i =>
    match i.parent with | some (p, _) => if p = id then some i.id else none | none => none)

/-- Dies that a body may run on before it starts: of a LAUNCH its unit's or those it names, of a SPINDLE-RUN the engine's, of
a REPLAY those of its list. -/
def namedDies (p : LaunchPl) : List Nat := ((List.range (p.count + 1)).flatMap p.diesOf).eraseDups

def State.bodyDies (s : State) : ItemBody → List Nat
  | .launch p => namedDies p
  | .spindleRun w => [(jobOf w).die]
  | .replay l _ => (((s.lists.find l).map (·.entries)).getD []).flatMap (fun e =>
      match e.2 with | .launch p => namedDies p | _ => [])
  | _ => []

/-- Dies that run a started item or may take it. -/
def State.itemDies (s : State) (q id : Nat) : List Nat :=
  let parts := s.itemParts q id
  (parts.flatMap (fun i => (s.itemLaunches q i).filterMap (s.launches.find ·))).flatMap (fun x =>
    match x.st with
    | .running u => [unitDie u]
    | .parked d _ _ _ _ => [d]
    | .fresh => x.dies.filter s.dieTakes
    | _ => []) ++
  s.spin.flatMap (fun e => (e.2.filter (fun j => j.queue == q && j.item == id)).map (fun _ => e.1)) ++
  (parts.filterMap (s.item q)).flatMap (fun i => if i.st == .waiting then (s.bodyDies i.body).filter s.dieTakes else [])

/-- R348, in whole numbers. -/
def State.itemAtRisk (s : State) (q : Nat) (i : QItem) : Bool :=
  match s.gov.hist.find q with
  | none => false
  | some (t, pl) =>
    let ds := if i.st == .started then s.itemDies q i.id else (s.bodyDies i.body).filter s.dieTakes
    let pn := match bestBy (fun a b => a < b) (ds.map (fun d => (s.die d).pace)) with | some p => p | none => 0
    let from' : Nat := if i.st == .started then i.startedAt.toNat else s.now
    i.hdr.dline ≠ 0 && ((t * pl * 105 : Nat) : Int) > ((i.hdr.dline.toNat : Int) - (from' : Int)) * (pn * 100 : Nat)

def State.atRisk (s : State) (q id : Nat) : Bool :=
  match s.queues.find q with
  | some x =>
    match x.item id with
    | some i => ((i.attrsIn x).cls = 0 && s.itemAtRisk q i) || (match i.parent with
      | some (p, _) => (match x.item p with | some r => (r.attrsIn x).cls = 0 && s.itemAtRisk q r | none => false)
      | none => false)
    | none => false
  | none => false

/-- Queue and item of what a die runs: its launches, and the row of its Spindle engine. -/
def State.runsItems (s : State) (d : Nat) : List (Nat × Nat) :=
  (s.runningOn d).map (fun e => (e.2.queue, e.2.item)) ++
    ((s.spin.get [] d).filter (fun j => (s.die d).spinCur == some (j.queue, j.item))).map (fun j => (j.queue, j.item))

/-- The die runs work of an at-risk item, or of the list a REPLAY at risk runs. -/
def State.dieAtRisk (s : State) (d : Nat) : Bool := (s.runsItems d).any (fun e => s.atRisk e.1 e.2)

/-! ### Voltage (R346, R347) -/

def State.overCap (s : State) : Bool := sumN (s.gov.moduleWin.take 10) > 100 * s.cfg 0x3010 1

/-- R346, R347, 20 R467: the next target, at most 10 mV from this one. -/
def State.voltTarget (s : State) (d : Nat) (reported : Bool) : Nat :=
  let x := s.die d
  let vrun := s.cfg 0x3010 3
  let risk := s.dieAtRisk d
  let want :=
    if x.sensorFault || s.gov.ladder ≠ 0 then 550
    else if !reported then x.vtarget
    else if x.hot > 800 then 550
    else if risk then (if s.overCap then x.vtarget else min (x.vtarget + 10) (s.cfg 0x3010 4))
    else if x.creditNow < 0 || s.overCap then max (x.vtarget - 10) 550
    else if x.creditNow ≥ x.budget * 25 && (s.freePairs d).isEmpty && x.vtarget < vrun then x.vtarget + 10
    else if x.vtarget > vrun then x.vtarget - 10
    else x.vtarget
  max (x.vtarget - 10) (min want (x.vtarget + 10))

def State.voltages (s : State) (reports : List (Option DieReport)) : State :=
  (List.range 4).foldl (fun s d =>
    let v := s.voltTarget d (reports.getD d none).isSome
    if (s.die d).present then s.modDie d (fun x => { x with vtarget := v }) else s) s

/-! ### What else a gate pulse counts -/

/-- R348: the lowest pace reported during an item by a die that ran it. -/
def State.notePace (s : State) : State :=
  (List.range 4).foldl (fun s d =>
    let p := (s.die d).pace
    let low (s : State) (q id : Nat) : State := s.modItem q id (fun i =>
      { i with lowPace := if i.lowPace = 0 then p else min i.lowPace p })
    (s.runsItems d).foldl (fun s e =>
      let up := (s.item e.1 e.2).bind (·.parent)
      let s := low s e.1 e.2
      match up with | some (r, _) => low s e.1 r | none => s) s) s

/-- R352: gate periods of each sample's step, and those in which a die was energy-short. -/
def State.noteShort (s : State) : State :=
  let f (k : Sample) : Sample :=
    { k with gates := (List.range 4).foldl (fun t d =>
        let g := t.get (0, 0) d
        t.put d (g.1 + 1, g.2 + b2n (s.die d).short)) k.gates }
  { s with samples := s.samples.map (fun e => (e.1, f e.2)) }

/-! ### Idleness (R354) -/

/-- Waiting items whose wait is met. -/
def State.waitMet (s : State) (p : Nat) (i : QItem) : Bool :=
  i.st == .waiting && i.hdr.wv && (match s.semOf p i.hdr.wsem with | some k => k.value ≥ i.hdr.wval | none => false)

/-- The module is idle. -/
def State.idle (s : State) : Bool :=
  !s.queues.any (fun e => e.2.items.any (fun i => i.st == .started || s.waitMet e.2.part i)) &&
    !s.codecs.any (fun e => !e.2.streams.isEmpty) && !s.mus.any (fun e => e.2.closing.isSome) && s.gov.scrubFrom.isNone

/-- Keep the count from which the module has been idle. -/
def State.noteIdle (s : State) : State :=
  if s.idle then
    { s with gov := { s.gov with idleSince := some (s.gov.idleSince.getD s.clock.refc) } }
  else { s with gov := { s.gov with idleSince := none } }

/-! ### GATE_PULSE -/

/-- 17 Table 17.13 order 4: the governor objects of an activation take effect at order 3 of Table 14.1. -/
def State.applyLate (s : State) : State :=
  match s.dict.act with
  | some a => { s with dict := { s.dict with
      eff := a.late.foldl (fun t e => t.put e.1 e.2) s.dict.eff, act := some { a with late := [] } } }
  | none => s

/-- One gate period (Table 14.1). -/
def State.gate (s : State) (rest : Nat) (reports : List (Option DieReport)) : State :=
  let s := s.advanceTo s.nextGate
  let s := (List.range 6).foldl (fun s d => (s.dieReport d (reports.getD d none)).modDie d (fun x =>
    { x with gated := false, railSum := 0, railN := 0 })) s
  let all := rest + sumN ((List.range 4).map (fun d => (s.die d).lastEnergy))
  let s := { s with gov := { s.gov with
    lastGate := s.clock.refc, restWin := (rest :: s.gov.restWin).take 10
    moduleWin := (all :: s.gov.moduleWin).take 10 } }
  let s := s.accountEnergy.notePace.applyLate
  match bestBy (fun a b => b < a) ((List.range 6).filterMap (fun d => if (s.die d).present then some (s.die d).hot else none)) with
  | some h =>
    if h > 880 then s.thermalTrip h
    else
      let s := (List.range 4).foldl (fun s d => s.thermal d (reports.getD d none).isSome) s
      ((s.budgets.voltages reports).noteShort.batchPulse).noteIdle
  | none => s

/-- GATE_PULSE: sent in L0 and L1. `rest` is the energy of everything but the compute dies, in uJ. -/
def execGatePulse (rest : Nat) (reports : List (Option DieReport)) (s : State) : Out :=
  .next (if s.runs && s.gov.ladder ≤ 1 then s.gate rest reports else s)

/-! ### The ladder (R354 to R356, Table 14.4; 16 R377) -/

/-- SRAM loses its contents: feed stores, scratch slices. -/
def State.loseSram (s : State) : State :=
  let (k, s) := s.draw
  let mus : Tab MUnit := s.mus.map (fun e => (e.1, { e.2 with feed := { junk := [⟨0, feedBytes, k⟩] }, toks := [] }))
  let slices := (List.range 4).flatMap (fun d => ((List.range 16).filter (s.isScratch d)).map (sliceAddr d))
  slices.foldl (fun s a => s.scrambleMem a sliceBytes) { s with mus }

/-- On entry to L3: resident contexts are evicted, caches flushed, SRAM powered off, links go to L1. -/
def State.enterBanked (s : State) : State :=
  let s := (List.range 4).foldl (fun s d =>
    ((s.ctxs.filter (fun e => e.2.resident.contains d)).map (·.1)).foldl (fun s c => s.evict c d) s) s
  let s := ((List.range 4).foldl State.flush s).loseSram
  (List.range 8).foldl (fun s p => s.modPort p (fun x => { x with state := if x.state = 3 then 4 else x.state })) s

/-- A die is power-gated: its pace reads 0 (01 R38). -/
def Die.gate (d : Die) : Die := { d with pace := 0, gated := true }

/-- On entry to L4: every rail but the island's is off; links go down as planned; soft repairs are lost. -/
def State.enterDormant (s : State) : State :=
  let s := (List.range 8).foldl (fun s p => s.modPort p (fun x =>
    { x with state := if x.active then 1 else x.state, session := none, ideIo := false, ideMem := false })) s
  let hbm : Tab Stack := s.hbm.map (fun e =>
    (e.1, { e.2 with repaired := e.2.repaired.filter (fun r => r.2.2.2), bad := [] }))
  let dies : Tab Die := s.dies.map (fun e => (e.1, { e.2.gate with rail := 0 }))
  { s with hbm, wq := [], dies }

/-- The extra condition for entry to a rung. -/
def State.mayEnter (s : State) (n : Nat) : Bool :=
  n ≤ s.cfg 0x3020 1 && (n ≤ 1 || s.start.bringUp = 0) &&
    (n ≠ 3 || (List.range 8).all (fun p => !(s.port p).active || Config.aspmL1 p)) &&
    (n ≠ 4 || (s.ctxs.isEmpty && (List.range 8).all (fun p => (s.port p).state != 3)))

/-- What happens on entry to a rung. -/
def State.enterRung (s : State) (n : Nat) : State :=
  let s := { s with gov := { s.gov with ladder := n, idleSince := some s.clock.refc } }
  match n with
  | 1 => (List.range 4).foldl (fun s d => s.modDie d (fun x => { x with vtarget := 550 })) s
  | 2 => (List.range 4).foldl (fun s d => s.modDie d Die.gate) s
  | 3 => s.enterBanked
  | 4 => s.enterDormant
  | _ => s

/-- LADDER_DESCEND: the end of a scrub burst, or one rung after the dwell of the next. -/
def execLadderDescend (s : State) : Out :=
  .next (if !s.runs || s.start.held then s
  else
    match s.gov.scrubFrom with
    | some n => ({ s with gov := { s.gov with scrubFrom := none } }).enterRung n
    | none =>
      let s := s.noteIdle
      let n := s.gov.ladder + 1
      match s.gov.idleSince with
      | some t =>
        if n ≤ 4 && s.mayEnter n && s.now ≥ t.toNat + usCounts (s.cfg 0x3020 (n + 1)) then s.enterRung n else s
      | none => s)

/-- A wake's cause is there (Table 14.4): items in a queue's ring, a command a ring write brought, a frame's input, a wait that
is met, the deadline of a waiting item, a link that was lost (16 R395). -/
def State.wakeCause (s : State) : Wake → Bool
  | .doorbell => s.queues.any (fun e => e.2.head ≠ e.2.tail)
  | .ringWrite => !s.sec.queue.isEmpty
  | .codecInput => s.codecs.any (fun e => e.2.streams.any (fun x => !x.2.ready.isEmpty))
  | .metWait => s.queues.any (fun e => e.2.items.any (s.waitMet e.2.part))
  | .deadline => s.queues.any (fun e => e.2.items.any (fun i =>
      i.st == .waiting && i.hdr.dline ≠ 0 && decide (i.hdr.dline.toNat ≤ s.now)))
  | .linkLoss => s.ports.any (fun e => e.2.lossSince3)

/-- Table 14.4, L3: the host has brought its link back, where a link is in its low-power state at all. -/
def State.linkBack (s : State) : Bool := s.ports.any (fun e => e.2.state == 3) || !s.ports.any (fun e => e.2.state == 4)

/-- LADDER_WAKE: from L1, L2 or L3, when the cause is there. A link lost in L1 wakes the module to L1 Poised (16 R395). -/
def execLadderWake (why : Wake) (s : State) : Out :=
  .next (if s.runs && 1 ≤ s.gov.ladder && s.gov.ladder ≤ 3 && s.wakeCause why then
    match why with
    | .linkLoss => s.wake 1
    | _ => if s.gov.ladder = 3 && !s.linkBack then s else s.wake 0
  else s)

/-- SCRUB_BURST_WAKE (R356). -/
def execScrubBurstWake (s : State) : Out :=
  .next (if s.runs && (s.gov.ladder = 2 || s.gov.ladder = 3) then
    { s with gov := { s.gov with scrubFrom := some s.gov.ladder, ladder := 1 } }
  else s)

/-- Exit from L4: eras advance, counts restart, memory contents are undefined, ports wait in Detect (R355, 01 R35). -/
def State.leaveDormant (s : State) : State :=
  let era : Tab W16 := (List.range s.dieCount).map (fun d => (d, s.clock.era.get 0 d + 1))
  let localc : Tab W64 := (List.range s.dieCount).map (fun d => (d, 0))
  let (k, s) := s.draw
  let mus : Tab MUnit := s.mus.map (fun e => (e.1, { e.2 with located := [] }))
  let pairs : Tab Pair := s.pairs.map (fun e => (e.1, { e.2 with seqFaults := 0 }))
  let dies : Tab Die := s.dies.map (fun e =>
    let v := if e.1 < 4 then 550 else 750
    (e.1, { e.2 with vtarget := v, rail := 100 * v }))
  let s := { s with
    clock := { s.clock with era, flashEra := era, localc, frac := [] }, mus, pairs, caches := [], dies
    mem := { junk := [⟨0, 2 ^ 48, k⟩] }, kv := {}
    gov := { s.gov with ladder := 0, idleSince := none, l4Wake := false } }
  s.loseSram

/-- L4_EXIT (21 R477): `stages` are the images of stages 3 and 4 as read again. -/
def execL4Exit (stages : List (List Byte)) (s : State) : Out :=
  .next (if s.runs && s.gov.ladder = 4 && s.gov.l4Wake then
    if stages.map sha3_256 = s.start.stageIsland then s.leaveDormant else s.intoReset .reset
  else s)

end Sys2Proof.Machine
end

