-- ==== Sys2Proof/Machine/Activation.lean ====
section
/-! DEFINITION. Staged activation (17 R425, Table 17.13): the checks of order 3 (13 R311, 14 R350, 12 R303, 16 R380), what
each object does when it applies, the change of a slice mask (12 Table 12.3), and the end of the activation. -/
namespace Sys2Proof.Machine

/-! ### Order 3 -/

/-- The state as it would be with a set's values in force. -/
def State.trial (s : State) (set : Tab Val) : State :=
  { s with dict := { s.dict with eff := set.foldl (fun t e => t.put e.1 e.2) s.dict.eff } }

def keyIdx (k : Nat) : Nat := k / 256
def keySub (k : Nat) : Nat := k % 256

/-- An object of partition `p` (13 Table 13.2). -/
def isPartKey (p k : Nat) : Bool := 0x4010 ≤ keyIdx k && keyIdx k ≤ 0x4016 && keySub k == p + 1

/-- Extents as ranges of device addresses. -/
def extentRange (e : Nat × Nat × Nat) : Nat × Nat := (stackRange * e.1 + frameBytes * e.2.1, extentBytes e)

def meets (a b : Nat × Nat) : Bool := a.1 < b.1 + b.2 && b.1 < a.1 + a.2

/-- A range lies inside the extents. -/
def coveredBy (es : List (Nat × Nat × Nat)) (r : Nat × Nat) : Bool :=
  ((es.map extentRange).foldl (fun rs t => rs.flatMap (cutRange t)) [r]).isEmpty

/-- The highest offset of the committed decoders of a port (16 R380). -/
def Port.reach (p : Port) : Nat :=
  if p.hdm1.committed then p.hdm0.skip + p.hdm0.size + p.hdm1.skip + p.hdm1.size
  else if p.hdm0.committed then p.hdm0.skip + p.hdm0.size
  else 0

/-- Memory, slices and the ports of host allocations of a context lie inside a partition's values. -/
def Ctx.inside (c : Ctx) (n : State) (p : Nat) : Bool :=
  let es := n.extents p
  let usable := n.cfg 0x4015 (p + 1)
  c.saveAreas.all (fun a => a.all (coveredBy es)) && c.tables.all (fun t => coveredBy es (t.2, tableBytes)) &&
    c.allocs.all (fun a => match a.2.kind with | .host port _ => bit (n.portMask p) port | _ => true) &&
    c.allocs.all (fun a => a.2.runs.all (coveredBy es)) &&
    (List.range 4).all (fun d => (c.slicesOn d).all (fun i => bit usable (16 * d + i)))

/-- R311, last case: a live object of the partition would lie outside the new values. -/
def State.liveOutside (s n : State) (p : Nat) : Bool :=
  let cs := s.ctxs.filter (fun e => e.2.part == p)
  let qs := s.queues.filter (fun e => e.2.part == p && (e.2.ctx.isSome || bit (n.portMask p) e.2.port))
  let ks := s.sems.filter (fun e => e.2.part == p)
  let xs := s.samples.filter (fun e => e.2.part == p)
  cs.length > n.cfg 0x4011 (p + 1) || qs.length > n.cfg 0x4012 (p + 1) || ks.length > n.cfg 0x4013 (p + 1) ||
    xs.length > n.cfg 0x4014 (p + 1) || !cs.all (fun e => e.2.inside n p) ||
    qs.any (fun e => !bit (n.portMask p) e.2.port) ||
    (n.portMask p = 0 && !(cs.isEmpty && ks.isEmpty && xs.isEmpty))

/-- R311 and R380: an activation of a partition is refused. -/
def State.partBad (s n : State) (p : Nat) : Bool :=
  let others := (List.range 8).filter (· != p)
  let es := (n.extents p).map extentRange
  let ports := (List.range 8).filter (bit (n.portMask p ||| s.portMask p))
  others.any (fun q => n.portMask p &&& n.portMask q != 0) ||
    others.any (fun q => (n.extents q).any (fun e => es.any (meets (extentRange e)))) ||
    (n.extents p).any (fun e => e.1 == 0 && e.2.1 + e.2.2 > 12271 && e.2.2 != 0) ||
    s.liveOutside n p || ports.any (fun i => (s.port i).reach > n.partBytes p)

/-- Partitions of the set that fail drop out, until none does. -/
def State.dropParts (s : State) : Nat → Tab Val → Tab Val
  | 0, set => set
  | f + 1, set =>
    let n := s.trial set
    let bad := (List.range 8).filter (fun p => set.any (fun e => isPartKey p e.1) && s.partBad n p)
    if bad.isEmpty then set else State.dropParts s f (set.filter (fun e => !bad.any (fun p => isPartKey p e.1)))

/-- R350: shares of used partitions above 100. -/
def State.dropShares (s : State) (set : Tab Val) : Tab Val :=
  let n := s.trial set
  let used := (List.range 8).filter (fun p => n.portMask p != 0)
  let newly := used.filter (fun p => s.portMask p == 0)
  if sumN (used.map (fun p => n.cfg 0x3011 (p + 1))) > 100 then
    set.filter (fun e => keyIdx e.1 != 0x3011 && !newly.any (fun p => isPartKey p e.1))
  else set

/-- 12 R303: a mask that would make a reserved slice a cache slice. -/
def State.maskReserved (s : State) (d m : Nat) : Bool :=
  s.ctxs.any (fun e => (e.2.slicesOn d).any (fun i => !bit m i))

/-- 14 Table 14.5: the deadline ceiling lies at or above the run setpoint. -/
def State.ceilingBad (s : State) (set : Tab Val) : Bool :=
  let n := s.trial set
  n.cfg 0x3010 4 < n.cfg 0x3010 3

/-- The objects of a set that pass order 3. -/
def State.accepted (s : State) (set : Tab Val) : Tab Val :=
  let set := s.dropParts 8 (s.dropShares (s.dropParts 8 set))
  let bad := s.ceilingBad set
  set.filter (fun e =>
    !(keyIdx e.1 == 0x5010 && s.maskReserved (keySub e.1 - 1) (match e.2 with | .num m => m | _ => 0)) &&
      !(bad && keyIdx e.1 == 0x3010 && (keySub e.1 == 3 || keySub e.1 == 4)))

/-! ### Order 4 -/

/-- Running launches of a die are asked to part for its new mask (12 Table 12.3 order 2). -/
def State.askMask (s : State) (d : Nat) : State :=
  (s.runningOn d).foldl (fun s e => s.modLaunch e.1 (fun x =>
    { x with why := if x.why.contains .mask then x.why else x.why ++ [.mask] })) (s.modDie d (fun x => { x with masking := true }))

/-- Port enable (16 R393). -/
def State.applyPort (s : State) (i : Nat) (on : Bool) : State :=
  if on then
    s.modPort i (fun x => if x.state = 6 then { x with state := 1, quiesced := false, quiescing := false } else x)
  else s.quiesce i

/-- Die enable (13 Table 13.11). -/
def State.applyDie (s : State) (d : Nat) (on : Bool) : State :=
  if on then s.modDie d (fun x => { x with disabled := false })
  else if (s.die d).disabled then s
  else s.startDisable { scope := .die d, fence := none, at' := s.clock.refc }

/-- Engine enable (15 R369 to R372). -/
def State.applyEngine (s : State) (e : Nat) (on : Bool) : State :=
  if on then s.modEngine e (fun g => { g with disabled := false })
  else if (s.engine e).disabled then s
  else s.startDisable { scope := .codec e, fence := none, at' := s.clock.refc }

/-- IDE policy of a port (16 R392). -/
def State.applyIde (s : State) (i n : Nat) : State :=
  s.modPort i (fun x =>
    if n = 1 && x.active && !(x.ideIo && x.ideMem) then { x with state := 7 }
    else if n = 0 && x.state = 7 then { x with state := 3 }
    else x)

/-- What one object does when its value is in force. -/
def State.applyObj (s : State) (k n : Nat) : State :=
  let i := keySub k - 1
  if keyIdx k = 0x4035 then s.applyPort i (n == 1)
  else if keyIdx k = 0x6020 then s.applyDie i (n == 1)
  else if keyIdx k = 0x7010 then s.applyEngine i (n == 1)
  else if keyIdx k = 0x4036 then s.applyIde i n
  else if keyIdx k = 0x5010 then (if (s.die i).mask.toNat = n then s else s.askMask i)
  else s

/-- Frames of a partition newly in use are in device bias, and no bit outlives its frame (16 R381). -/
def State.applyBias (s old : State) : State :=
  let bias : Tab (List Nat) := (List.range 8).foldl (fun t p =>
    if old.portMask p = 0 then t.del p
    else
      match t.find p with
      | some fs => t.put p (fs.filter (fun f => frameBytes * (f + 1) ≤ s.partBytes p))
      | none => t) s.bias
  { s with bias }

/-- A ladder floor above the present state: the module returns upward (14 Table 14.3). -/
def State.applyFloor (s : State) : State :=
  if s.gov.ladder > s.cfg 0x3020 1 then
    if s.gov.ladder = 4 then { s with gov := { s.gov with l4Wake := true } } else s.wake 0
  else s

/-- The accepted objects take their values and act. -/
def State.applySet (s : State) (set : Tab Val) : State :=
  let n := (s.trial set).makeAdmins
  let n := set.foldl (fun n e => match e.2 with | .num v => n.applyObj e.1 v | _ => n) n
  ((n.applyBias s).applyFloor).promiseRecord s

/-- Start-up has not reached Ready (21 R472). -/
def State.notReady (s : State) : Bool := s.start.phase < 8 && !s.start.held

/-- A governor object (14 Table 14.5). -/
def governorKey (k : Nat) : Bool := 0x3010 ≤ keyIdx k && keyIdx k ≤ 0x3020

/-- ACTIVATE (Table 17.13 orders 1 to 4). Governor objects wait for the gate pulse, which L0 and L1 have. -/
def State.activate (s : State) (c : Nat) (b : List Byte) : State × Nat :=
  let epoch : W64 := BitVec.ofNat 64 (leNat b)
  if s.own.owner ≠ some c then (s, 2)
  else if b.length ≠ 8 then (s, 7)
  else if s.notReady || s.dict.act.isSome then (s, 8)
  else if epoch ≤ s.dict.epoch then (s, 0x0A)
  else
    let set := s.accepted s.dict.staged
    let waits (e : Nat × Val) : Bool := governorKey e.1 && s.gov.ladder ≤ 1
    let n : State := { s with dict := { s.dict with
      staged := [], act := some { epoch, set, before := s.dict.eff, late := set.filter waits }
      refusedCount := s.dict.staged.length - set.length } }
    (n.applySet (set.filter (fun e => !waits e)), 0)

/-! ### Slice masks (12 Table 12.3) -/

/-- SLICE_MASK_CHANGE: orders 3 to 6. -/
def State.changeMask (s : State) (d : Nat) : State :=
  let old := (s.die d).mask
  let new : W16 := BitVec.ofNat 16 (s.cfg 0x5010 (d + 1))
  let s := s.flush d
  let gained := (List.range 16).filter (fun i => flag new i && !flag old i)
  let s := gained.foldl (fun s i => s.scrambleMem (sliceAddr d i) sliceBytes) s
  s.modDie d (fun x => { x with mask := new, masking := false })

def execSliceMaskChange (d : Fin 4) (s : State) : Out :=
  .next (if s.runs && (s.die d.val).masking && (s.runningOn d.val).isEmpty then s.changeMask d.val else s)

/-! ### Order 5 -/

/-- Every object of an activation has taken effect. -/
def State.activationDone (s : State) (a : Activation) : Bool :=
  a.set.all (fun e =>
    let i := keySub e.1 - 1
    if keyIdx e.1 = 0x4035 then !(s.port i).quiescing
    else if keyIdx e.1 = 0x6020 then !s.disables.any (fun x => x.2.scope == .die i)
    else if keyIdx e.1 = 0x7010 then !s.disables.any (fun x => x.2.scope == .codec i)
    else if keyIdx e.1 = 0x5010 then !(s.die i).masking
    else if governorKey e.1 then s.gov.ladder > 1 || a.late.isEmpty
    else true)

/-- ACTIVATION_DONE. A module that has gone down to L2 has no gate pulse that its governor objects could wait for. -/
def execActivationDone (s : State) : Out :=
  .next (match s.dict.act with
  | some a =>
    if s.runs && s.activationDone a then
      let s := s.applyLate.applyFloor
      let s : State := { s with dict := { s.dict with act := none, epoch := a.epoch } }
      s.raise { cause := 0x51, detail := BitVec.ofNat 64 (leNat (s.digest.take 8)) }
    else s
  | none => s)

end Sys2Proof.Machine
end

