-- ==== Sys2Proof/Machine/Bringup.lean ====
section
/-! DEFINITION. Bring-up and repair (18 R441, 21 R478 to R483): the mode, stack actions, margin sweeps and the bundle the
module builds. Each write answers a state and a status of 17 Table 17.5. -/
namespace Sys2Proof.Machine

/-- R441: an action, sweep or build is in state 1. -/
def State.bringBusy (s : State) : Bool := s.fw.stackState = 1 || s.fw.sweepState = 1 || s.fw.buildState = 1

/-- OD 0xF000.01 (R441, R472, R478). -/
def State.writeMode (s : State) (n : Nat) : State × Nat :=
  if s.bringBusy || s.notReady then (s, 8)
  else if n > 1 then (s, 6)
  else if n = 1 && (!s.ctxs.isEmpty || s.codecs.any (fun e => !e.2.streams.isEmpty)) then (s, 6)
  else ({ s with start := { s.start with bringUp := n } }, 0)

/-! ### Stack actions (R479, R480) -/

/-- The fields of OD 0xF010.01. -/
structure StackReq where
  stack : Nat
  action : Nat
  pc : Nat
  bank : Nat
  row : Nat
  rest : Nat
deriving DecidableEq, Repr

def stackReq (n : Nat) : StackReq :=
  { stack := bits n 63 56, action := bits n 55 48, pc := bits n 47 43, bank := bits n 42 38, row := bits n 37 23
    rest := bits n 22 0 }

/-- A request with no reserved field set. -/
def StackReq.ok (r : StackReq) : Bool :=
  1 ≤ r.action && r.action ≤ 4 && r.rest = 0 &&
    (r.action = 2 || r.action = 3 || (r.pc = 0 && r.bank = 0 && r.row = 0))

/-- OD 0xF010.01: cached lines of the stack are written back and invalidated, and the action runs. -/
def State.writeStack (s : State) (n : Nat) : State × Nat :=
  let r := stackReq n
  if s.start.bringUp ≠ 1 then (s, 2)
  else if s.bringBusy then (s, 8)
  else if !r.ok || r.stack ≥ s.stackCount || (s.stack r.stack).state = 3 then (s, 6)
  else
    let s := s.flushWhere (r.stack / s.spd) (fun l => l.line * 256 / stackRange == r.stack)
    let s := s.modStack r.stack (fun k => { k with acting := true })
    ({ s with fw := { s.fw with stackReq := BitVec.ofNat 64 n, stackState := 1 } }, 0)

/-- 12 R291 and Table 12.2: the two pieces of a row of a bank of a pseudo-channel, as stack offsets. -/
def rowPieces (pc bank row : Nat) : List Nat :=
  let mid := bank ^^^ bits row 9 5 ^^^ bits row 14 10
  let praw := pc ^^^ mid ^^^ bits row 4 0
  let a := row * 2 ^ 20 + mid * 2 ^ 15 + praw * 2 ^ 9
  [a, a + 2 ^ 14]

/-- A stack's offsets of bad halves outside a range. -/
def Stack.healRange (k : Stack) (lo n : Nat) : Stack :=
  { k with bad := k.bad.filter (fun b => b * 32 + 32 ≤ lo || lo + n ≤ b * 32) }

/-- Table 21.3, contents afterwards: a range of a stack is undefined, under new protection. -/
def State.loseStack (s : State) (stack lo n : Nat) : State :=
  (s.modStack stack (fun k => k.healRange lo n)).scrambleMem (stackRange * stack + lo) n

/-- Table 21.3: what the action does to the stack. -/
def State.stackEffect (s : State) (r : StackReq) (outcome : Nat) (entries : List W64) : State :=
  if r.action = 1 then s.loseStack r.stack 0 stackBytes
  else if r.action = 4 then
    if outcome ≤ 1 then
      { s with fw := { s.fw with
        trainArea := s.fw.trainArea.put r.stack (fit 256 (entries.flatMap (fun e => natLe 8 e.toNat))) } }
    else s
  else
    let s := (rowPieces r.pc r.bank r.row).foldl (fun s a => s.loseStack r.stack a 512) s
    if outcome = 0 then
      s.modStack r.stack (fun k => { k with repaired := k.repaired ++ [(r.pc, r.bank, r.row, r.action == 3)] })
    else s

/-- R480: the result. -/
def stackResult (r : StackReq) (outcome count : Nat) (entries : List W64) : List Byte :=
  let es := if r.action = 1 then entries.take 511 else if r.action = 4 then entries.take 32 else []
  natLe 1 r.action ++ natLe 1 r.stack ++ natLe 1 outcome ++ [0#8] ++ natLe 2 (min count 65535) ++ [0#8, 0#8] ++
    es.flatMap (fun e => natLe 8 e.toNat)

/-- STACK_ACTION_DONE: `outcome` is byte 2 of the result. -/
def execStackActionDone (outcome : Nat) (count : Nat) (entries : List W64) (s : State) : Out :=
  let r := stackReq s.fw.stackReq.toNat
  .next (if s.runs && s.fw.stackState = 1 && outcome ≤ 3 then
    let s := (s.stackEffect r outcome entries).modStack r.stack (fun k => { k with acting := false })
    { s with fw := { s.fw with stackState := if outcome ≤ 1 then 2 else 3
                               stackResult := stackResult r outcome count entries } }
  else s)

/-! ### Proposed repair words (R481) -/

/-- OD 0xF020. -/
def State.writeProposal (s : State) (u n : Nat) : State × Nat :=
  if s.start.bringUp ≠ 1 then (s, 2)
  else if s.bringBusy then (s, 8)
  else if !repairOk n then (s, 6)
  else (s.modMu u (fun m => { m with proposed := BitVec.ofNat 32 n }), 0)

/-! ### Margin sweeps (R482) -/

/-- The fields of OD 0xF030.01. -/
structure SweepReq where
  die : Nat
  first : Nat
  last : Nat
  step : Nat
  dwell : Nat
deriving DecidableEq, Repr

def sweepReq (n : Nat) : SweepReq :=
  { die := bits n 63 56, first := bits n 55 40, last := bits n 39 24, step := bits n 23 16, dwell := bits n 15 0 }

/-- Points of a sweep; 32, too many, where the step never reaches the last voltage. -/
def SweepReq.points (r : SweepReq) : Nat :=
  if r.first = r.last then 1 else if r.step = 0 then 32 else (r.last - r.first) / r.step + 1

def SweepReq.ok (r : SweepReq) : Bool :=
  550 ≤ r.first && r.first ≤ r.last && r.last ≤ 850 && r.points ≤ 31 && r.step % 10 = 0 && 10 ≤ r.dwell && r.dwell % 10 = 0

/-- An active port of an I/O die. -/
def State.portsActive (s : State) (d : Nat) : Bool := (List.range 8).any (fun p => portDie p = d && (s.port p).active)

/-- OD 0xF030.01: the sweep starts. -/
def State.writeSweep (s : State) (n : Nat) : State × Nat :=
  let r := sweepReq n
  if s.start.bringUp ≠ 1 then (s, 2)
  else if s.bringBusy then (s, 8)
  else if !r.ok || r.die > 5 || !(s.die r.die).present || (r.die ≥ 4 && s.portsActive r.die) then (s, 6)
  else ({ s with fw := { s.fw with sweepReq := BitVec.ofNat 64 n, sweepState := 1 } }, 0)

/-- The self test a die repeats after a sweep that met faults: its outcome is open (log 8). -/
def freeTest (k : Nat) : DieTest :=
  { ok := Config.freeNat k 2 % 2 = 0, memCtlOk := Config.freeNat (k + 1) 2 % 2 = 0
    trimOk := Config.freeNat (k + 2) 2 % 2 = 0, spindleOk := Config.freeNat (k + 3) 2 % 2 = 0
    badUnits := (List.range 16).filter (fun u => Config.freeNat (k + 4 + u) 2 % 2 = 1) }

/-- The sweep ends: its points, lowest pace and faults at each; `held` when a thermal hold ended it. -/
def State.endSweep (s : State) (points : List (Nat × Nat)) (held : Bool) : State :=
  let r := sweepReq s.fw.sweepReq.toNat
  let ps := (List.range (min r.points points.length)).map (fun i =>
    let p := points.getD i (0, 0)
    (r.first + i * r.step, p.1, min p.2 65535))
  let fails := ps.any (fun p => p.2.2 != 0)
  let s : State := { s with fw := { s.fw with sweepState := if held then 3 else 2, sweepPoints := ps } }
  if fails && r.die < 4 then
    let k := s.fresh
    let s : State := { s with fresh := s.fresh + 20 }
    s.testDie r.die (freeTest k)
  else s

/-! ### Building a bundle (R483) -/

/-- The configuration objects that are present, counted. -/
def State.configCount (s : State) : Nat :=
  sumN ((objects.filter (fun o => o.cls == .config)).map (fun o => (s.subs o).length))

/-- The package: effective values, epoch, proposed words, trims, training results; signed by the module. -/
def State.buildPackage (s : State) : List Byte :=
  let b : Bundle :=
    { epoch := s.dict.epoch, repair := (List.range 64).map (fun u => (s.mu u).proposed)
      trims := (List.range 6).map (fun d => b2n (s.clock.trimmed.get false d)), train := s.fw.trained }
  let body := b.encode (s.canonical s.digestVals) s.configCount
  let head := pkgHeader 2 5 (s.fw.floorCfg + 1) 0 (leNat identityPrefix) body
  head ++ body ++ identitySign head

/-- OD 0xF040.01. -/
def State.writeBuild (s : State) (n : Nat) : State × Nat :=
  if s.start.bringUp ≠ 1 then (s, 2)
  else if s.bringBusy || s.fw.updState = 1 || s.fw.updState = 2 then (s, 8)
  else if n ≠ 1 then (s, 6)
  else ({ s with fw := { s.fw with buildState := 1, buildPkg := s.buildPackage } }, 0)

/-- BUNDLE_BUILT. -/
def execBundleBuilt (flashOk : Bool) (s : State) : Out :=
  let f := s.fw
  .next (if s.runs && f.buildState = 1 then
    if flashOk then
      { s with fw := { f.writeBank f.buildPkg with
        buildState := 2, buildDigest := sha3_256 (pkgOf f.buildPkg).body, buildPkg := [] } }
    else { s with fw := { f.cutWrite with buildState := 3, buildPkg := [] } }
  else s)

end Sys2Proof.Machine
end

