-- ==== Sys2Proof/Machine/Ownership.lean ====
section
/-! DEFINITION. Ownership (17 R417 to R422): claims, leases, the election, the preferred-owner window, and the lockouts of
R415. -/
namespace Sys2Proof.Machine

/-- R422: a change of owner discards the staged copy. -/
def State.setOwner (s : State) (o : Option Nat) (len prio : Nat) : State :=
  let staged : Tab Val := if o == s.own.owner then s.dict.staged else []
  { s with dict := { s.dict with staged }
           own := { s.own with owner := o, leaseAt := s.clock.refc, leaseLen := len, prio } }

/-- A pending claim lapses after twice its lease. -/
def Claim.lapsed (k : Claim) (now : Nat) : Bool := decide (now ≥ k.at'.toNat + secCounts (2 * k.lease))

def State.lapseAt (s : State) (t : Nat) : State :=
  { s with own := { s.own with claims := s.own.claims.filter (fun e => !e.2.lapsed t) } }

def State.lapse (s : State) : State := s.lapseAt s.now

/-- The winner among pending claims: highest priority, then lowest controller. -/
def winner (cs : Tab Claim) : Option (Nat × Claim) :=
  bestBy (fun a b => decide (a.2.prio > b.2.prio) || (a.2.prio == b.2.prio && decide (a.1 < b.1))) cs

/-- R419: the election. -/
def State.elect (s : State) : State :=
  match winner s.own.claims with
  | some (c, k) =>
    let s := s.setOwner (some c) k.lease k.prio
    { s with own := { s.own with claims := s.own.claims.del c } }
  | none => s.setOwner none 0 0

/-- The count at which the lease expires (R418). -/
def State.leaseEnd (s : State) : Nat := s.own.leaseAt.toNat + secCounts s.own.leaseLen

def State.leaseOver (s : State) : Bool := s.own.owner.isSome && decide (s.now ≥ s.leaseEnd)

/-- R419: the election is among the claims pending at expiry. -/
def State.expire (s : State) : State := if s.leaseOver then (s.lapseAt s.leaseEnd).elect else s

/-- R421: the end of the preferred owner's 10 s. -/
def State.windowEnd (s : State) : Nat := s.start.readyAt.toNat + secCounts 10

def State.windowOver (s : State) : Bool := s.start.prefWindow && decide (s.now ≥ s.windowEnd)

def State.closeWindow (s : State) : State :=
  if s.windowOver then
    let s' : State := { s with start := { s.start with prefWindow := false } }
    if s.start.prefClaimed || s.own.owner.isSome then s' else (s'.lapseAt s.windowEnd).elect
  else s

/-- R415: a controller is locked out. -/
def State.lockedOut (s : State) (c : Nat) : Bool :=
  match (s.ctlOf c).lockedUntil with
  | some t => decide (s.now < t.toNat)
  | none => false

/-- What time has brought before a command is handled (R418): expiry, the end of the window, lapses. -/
def State.settleOwner (s : State) : State := s.expire.closeWindow.lapse

/-! ### The commands (Table 17.12). Each answers a state and a result. -/

/-- A claim that the preferred-owner window holds back. -/
def State.heldBack (s : State) (c : Nat) : Bool := s.start.prefWindow && c != s.cfg 0x2020 5

/-- CLAIM (R417, R418). -/
def State.claim (s : State) (c : Nat) (b : List Byte) : State × Nat :=
  let prio := leNat (b.take 1)
  let given := leNat ((b.drop 2).take 2)
  let len := if given = 0 then s.cfg 0x2020 2 else given
  if b.length ≠ 4 then (s, 7)
  else if prio > 15 || leNat ((b.drop 1).take 1) ≠ 0 || len < 5 || len > 600 then (s, 6)
  else
    let s : State := if s.start.prefWindow && c == s.cfg 0x2020 5 then
      { s with start := { s.start with prefClaimed := true } } else s
    if s.own.owner == some c || (s.own.owner.isNone && !s.heldBack c) then
      let s := s.setOwner (some c) len prio
      ({ s with own := { s.own with claims := s.own.claims.del c } }, 0)
    else
      ({ s with own := { s.own with claims := s.own.claims.put c ⟨prio, len, s.clock.refc⟩ } }, 1)

/-- RELEASE-TO (R420). -/
def State.releaseTo (s : State) (c : Nat) (b : List Byte) : State × Nat :=
  let succ := leNat b
  if s.own.owner ≠ some c then (s, 2)
  else if b.length ≠ 1 then (s, 7)
  else if succ = 0xFF then (s.setOwner none 0 0, 0)
  else if succ > 8 || succ = c || (s.ctlOf succ).key.isNone then (s, 6)
  else
    match s.own.claims.find succ with
    | some k =>
      let s := s.setOwner (some succ) k.lease k.prio
      ({ s with own := { s.own with claims := s.own.claims.del succ } }, 0)
    | none => (s.setOwner (some succ) (s.cfg 0x2020 2) 0, 0)

/-- HEARTBEAT (R418). -/
def State.heartbeat (s : State) (c : Nat) (b : List Byte) : State × Nat :=
  if s.own.owner ≠ some c then (s, 2)
  else if b.length ≠ 0 then (s, 7)
  else ({ s with own := { s.own with leaseAt := s.clock.refc } }, 0)

/-- STAGE-CLEAR (R425). -/
def State.stageClear (s : State) (c : Nat) (b : List Byte) : State × Nat :=
  if s.own.owner ≠ some c then (s, 2)
  else if b.length ≠ 0 then (s, 7)
  else ({ s with dict := { s.dict with staged := [] } }, 0)

/-! ### Events -/

/-- LEASE_EXPIRY. -/
def execLeaseExpiry (s : State) : Out := .next (if s.runs then s.expire else s)

/-- CLAIM_LAPSE of one controller's claim. -/
def execClaimLapse (c : Fin 9) (s : State) : Out :=
  .next (match s.own.claims.find c.val with
  | some k => if s.runs && k.lapsed s.now then { s with own := { s.own with claims := s.own.claims.del c.val } } else s
  | none => s)

/-- LOCKOUT_EXPIRY (R415). -/
def execLockoutExpiry (c : Fin 9) (s : State) : Out :=
  .next (if s.runs && (s.ctlOf c.val).lockedUntil.isSome && !s.lockedOut c.val then
    s.modCtl c.val (fun k => { k with lockedUntil := none, bad := 0 })
  else s)

/-- PREFERRED_OWNER_WINDOW_END (R421). -/
def execPreferredOwnerWindowEnd (s : State) : Out := .next (if s.runs then s.closeWindow else s)

end Sys2Proof.Machine
end

