-- ==== Sys2Proof/Machine/ObjWrite.lean ====
section
/-! DEFINITION. Writes of objects (17 R408, R413, 18): who may write, the objects' own rules, staging, and the runtime
objects that act. The rows that write one object with behaviour of its own stand at the end. -/
namespace Sys2Proof.Machine

/-- How a write arrives (17 Table 17.8): WRITE or DICT-WRITE, an authenticated command, or not said. -/
inductive WPath where
  | plain | auth | any
deriving DecidableEq, Repr

/-- Whether an access code admits a path. -/
def Acc.admits : Acc → WPath → Bool
  | .ro, _ => false
  | .rwa, p => p != .plain
  | .rw, p => p != .auth
  | .rwo, p => p != .auth
  | .wo, p => p != .auth

/-- The owner, or any controller for the enrolment object of an unowned module (19 R452). -/
def State.mayWrite (s : State) (c : Nat) (o : Obj) (p : WPath) : Bool :=
  o.acc.admits p && (s.own.owner == some c || (o.idx = 0x1020 && s.own.owner.isNone))

/-! ### Configuration objects: into the staged copy -/

/-- Values as staged, else effective. -/
def State.stagedCfg (s : State) (idx sub : Nat) : Nat := (s.trial s.dict.staged).cfg idx sub

/-- The objects' own rules for a value to stage: 0, or a status. -/
def State.stageStatus (s : State) (idx sub : Nat) (v : Val) : Nat :=
  match v with
  | .arr xs => if xs.length > 64 then 7 else if valOk idx sub v then 0 else 6
  | .num n =>
    if !rangeOk idx sub n then 6
    else if idx = 0x3010 && sub = 4 && n < s.stagedCfg 0x3010 3 then 6
    else if idx = 0x5010 && s.maskReserved (sub - 1) n then 6
    else 0
  | .bytes _ => 0

def State.stageVal (s : State) (idx sub : Nat) (v : Val) : State × Nat :=
  match s.stageStatus idx sub v with
  | 0 => ({ s with dict := { s.dict with staged := s.dict.staged.put (okey idx sub) v } }, 0)
  | e => (s, e)

/-! ### Runtime objects -/

/-- Ladder request (14 Table 14.5): 0 wakes the module; in L4 the exit follows (21 R477). -/
def State.writeLadder (s : State) (n : Nat) : State × Nat :=
  if n ≠ 0 then (s, 6)
  else if s.gov.ladder = 4 then ({ s with gov := { s.gov with l4Wake := true } }, 0)
  else if s.gov.ladder = 0 then (s, 0)
  else (s.wake 0, 0)

/-- OD 0x1031.01 (18 R436). -/
def State.writeReset (s : State) (n : Nat) : State × Nat :=
  if n ≠ 1 then (s, 6)
  else ({ s with start := { s.start with resetAt := some (s.start.resetAt.getD s.clock.refc) } }, 0)

/-- OD 0x8002.01 (18 R439). -/
def State.writeClear (s : State) (n : Nat) : State × Nat :=
  if n ≠ 1 then (s, 6) else ({ s with log := { overwritten := s.log.overwritten } }, 0)

/-- OD 0x1012.01 (19 R454). -/
def State.writeNonce (s : State) (bs : List Byte) : State × Nat :=
  if bs.length ≠ 32 then (s, 7) else ({ s with fw := { s.fw with nonce := bs, report := s.attest bs } }, 0)

/-- OD 0x1030.01 and .02 (18 Table 18.4). -/
def State.writeImageAt (s : State) (sub n : Nat) : State × Nat :=
  if sub = 1 then ({ s with fw := { s.fw with updAddr := n } }, 0)
  else if n > updLimit then (s, 6)
  else ({ s with fw := { s.fw with updLen := n } }, 0)

/-- A write of a runtime object executes. -/
def State.runtimeWrite (s : State) (idx sub : Nat) (v : Val) : State × Nat :=
  match v with
  | .num n =>
    if idx = 0x1030 then (if sub = 3 then s.writeUpdate n else s.writeImageAt sub n)
    else if idx = 0x1031 then s.writeReset n
    else if idx = 0x3020 then s.writeLadder n
    else if idx = 0x8002 then s.writeClear n
    else if idx = 0xF000 then s.writeMode n
    else if idx = 0xF010 then s.writeStack n
    else if idx = 0xF020 then s.writeProposal (sub - 1) n
    else if idx = 0xF030 then s.writeSweep n
    else if idx = 0xF040 then s.writeBuild n
    else (s, 2)
  | .bytes bs => if idx = 0x1012 then s.writeNonce bs else if idx = 0x1020 then s.writeEnrolment bs else (s, 2)
  | .arr _ => (s, 2)

/-- R413 step 5 and Table 17.8: a whole write by a controller. -/
def State.objWrite (s : State) (c idx sub : Nat) (bs : List Byte) (p : WPath) : State × Nat :=
  match s.lookup idx sub with
  | none => (s, 5)
  | some o =>
    if !s.mayWrite c o p then (s, 2)
    else
      match decodeVal o.ty bs with
      | none => (s, 7)
      | some v => if o.cls == .config then s.stageVal idx sub v else s.runtimeWrite idx sub v

/-- One segment of a write (R409): a status, done for one that only adds to a partial value. -/
def State.writeSegment (s : State) (c : Nat) (a : Access) (room : Nat) (p : WPath) : State × Nat :=
  match s.segment c a room with
  | (s, .bad) => (s, 7)
  | (s, .more) => (s, 0)
  | (s, .whole bs) => s.objWrite c a.index a.sub bs p

/-! ### Rows that write one object. Time is settled first (R418), and the status goes to the writer. -/

/-- A direct write and its answer. -/
def State.directWrite (s : State) (c idx sub : Nat) (bs : List Byte) : State :=
  if !s.runs then s
  else
    let r := s.settleOwner.objWrite c idx sub bs .any
    r.1.send (.status c r.2)

/-- A direct write of a number. -/
def State.directNum (s : State) (c idx sub size n : Nat) : State := s.directWrite c idx sub (natLe size n)

/-- DICTIONARY_WRITE. -/
def execDictionaryWrite (c : Fin 9) (a : Access) (s : State) : Out :=
  .next (if !s.runs then s
  else
    let r := s.settleOwner.writeSegment c.val a 65535 .any
    r.1.send (.status c.val r.2))

def execFirmwareUpdateWrite (c : Fin 9) (s : State) : Out := .next (s.directNum c.val 0x1030 3 1 1)
def execFirmwareUpdateVerify (c : Fin 9) (s : State) : Out := .next (s.directNum c.val 0x1030 3 1 2)
def execModuleResetRequest (c : Fin 9) (s : State) : Out := .next (s.directNum c.val 0x1031 1 1 1)
def execLogClear (c : Fin 9) (s : State) : Out := .next (s.directNum c.val 0x8002 1 1 1)
def execLadderRequest (c : Fin 9) (s : State) : Out := .next (s.directNum c.val 0x3020 6 1 0)

/-- The TYPE of a package. -/
def pkgTy (bs : List Byte) : Nat := (pkgOf bs).ty

/-- OWNER_KEY_ENROLMENT: a package of type 3. -/
def execOwnerKeyEnrolment (c : Fin 9) (pkg : List Byte) (s : State) : Out :=
  .next (if pkgTy pkg = 3 then s.directWrite c.val 0x1020 1 pkg else s)

/-- COMMAND_KEY_ENROLMENT: a package of type 4. -/
def execCommandKeyEnrolment (c : Fin 9) (pkg : List Byte) (s : State) : Out :=
  .next (if pkgTy pkg = 4 then s.directWrite c.val 0x1020 1 pkg else s)

def execAttestationNonce (c : Fin 9) (nonce : List Byte) (s : State) : Out := .next (s.directWrite c.val 0x1012 1 nonce)
def execBringUpMode (c : Fin 9) (mode : Nat) (s : State) : Out := .next (s.directNum c.val 0xF000 1 1 (min mode 255))

/-- OD 0xF010.01's word. -/
def stackWord (action stack arg : Nat) : Nat := 2 ^ 56 * (stack % 256) + 2 ^ 48 * action + arg % 2 ^ 48

def execMemorySelfTest (c : Fin 9) (stack : Nat) (arg : Nat) (s : State) : Out :=
  .next (s.directNum c.val 0xF010 1 8 (stackWord 1 stack arg))
def execSoftRepair (c : Fin 9) (stack : Nat) (arg : Nat) (s : State) : Out :=
  .next (s.directNum c.val 0xF010 1 8 (stackWord 2 stack arg))
def execHardRepair (c : Fin 9) (stack : Nat) (arg : Nat) (s : State) : Out :=
  .next (s.directNum c.val 0xF010 1 8 (stackWord 3 stack arg))
def execFullTraining (c : Fin 9) (stack : Nat) (arg : Nat) (s : State) : Out :=
  .next (s.directNum c.val 0xF010 1 8 (stackWord 4 stack arg))

/-- PROPOSED_REPAIR_WRITE. -/
def execProposedRepairWrite (c : Fin 9) (u : Fin 64) (word : W32) (s : State) : Out :=
  .next (s.directNum c.val 0xF020 (u.val + 1) 4 word.toNat)

/-- MARGIN_SWEEP: the write of OD 0xF030.01 and the sweep it starts, or the end of a sweep whose write has executed as an
authenticated command. -/
def execMarginSweep (c : Fin 9) (arg : W64) (points : List (Nat × Nat)) (held : Bool) (s : State) : Out :=
  .next (if !s.runs then s
  else if s.fw.sweepState = 1 && s.fw.sweepReq == arg then s.endSweep points held
  else
    let n := s.directNum c.val 0xF030 1 8 arg.toNat
    if n.fw.sweepState = 1 && s.fw.sweepState ≠ 1 then n.endSweep points held else n)

def execBuildBundle (c : Fin 9) (s : State) : Out := .next (s.directNum c.val 0xF040 1 1 1)

end Sys2Proof.Machine
end

