-- ==== Sys2Proof/Machine/Commands.lean ====
section
/-! DEFINITION. Authenticated commands (17 R411 to R416): their keyed check, counters, lockouts and results, the queue at the
security controller, and the rows that handle the command at its head. Responses of mailboxes and DOE sessions stand first. -/
namespace Sys2Proof.Machine

/-! ### Responses (16 R390, 19 R456) -/

/-- CXL return codes by number. -/
def Ret.num : Ret → Nat
  | .success => 0 | .background => 1 | .invalidInput => 2 | .unsupported => 3 | .busy => 4 | .invalidSecurity => 5

/-- A session's key for requests or for responses. -/
def Session.keyOf (x : Session) (dir : String) : List Byte := hmac x.secret (ascii dir ++ x.t)

/-- R456: the nonce of a sequence number. -/
def gcmNonce (n : W64) : List Byte := natLe 8 n.toNat ++ List.replicate 4 0#8

/-- Bytes sealed into the port's session and sent. -/
def State.seal (s : State) (p : Nat) (bs : List Byte) : State :=
  match (s.port p).session with
  | some x =>
    let r := Config.gcmSeal (x.keyOf "RSP") (gcmNonce x.txSeq) [] bs
    let s := s.modPort p (fun y => { y with session := some { x with txSeq := x.txSeq + 1 } })
    s.send (.doe p (natLe 8 x.txSeq.toNat ++ r.1 ++ r.2))
  | none => s

/-- A mailbox response, through the mailbox or inside the session it was asked in. -/
def State.reply (s : State) (p : Nat) (sess : Bool) (r : Ret) (bs : List Byte) : State :=
  if sess then s.seal p (Config.mailImage r.num bs) else s.send (.mailbox p r bs)

/-- R416: the return code of a result. -/
def retOf (n : Nat) : Ret :=
  if n = 0 || n = 1 then .success
  else if n = 3 || n = 9 then .invalidSecurity
  else if n = 8 then .busy
  else .invalidInput

/-! ### The keyed check (R411, R412) -/

/-- The command's bytes from CTRL up to the byte before CHECK. -/
def authImage (a : AuthCmd) : List Byte :=
  natLe 1 a.ctrl ++ natLe 1 a.kind ++ natLe 2 a.rsv ++ natLe 8 a.counter.toNat ++ a.body

/-- The check a key gives. -/
def checkOf (key : List Byte) (broadcast : Bool) (a : AuthCmd) : List Byte :=
  (hmac key ((if broadcast then List.replicate 8 0#8 else identityPrefix) ++ authImage a)).take 16

/-- R413 step 2. -/
def State.checkOk (s : State) (q : QueuedCmd) : Bool :=
  q.cmd.ctrl = q.path && (match (s.ctlOf q.path).key with
    | some k => q.cmd.check == checkOf k q.broadcast q.cmd
    | none => false)

/-! ### Handling one command (R413 to R416) -/

/-- R415: 0x03 counts towards a lockout, and restarts one that runs. -/
def State.noteCheck (s : State) (c : Nat) (ok : Bool) : State :=
  let until' : W64 := s.clock.refc + BitVec.ofNat 64 (secCounts 1)
  if s.lockedOut c then (if ok then s else s.modCtl c (fun k => { k with lockedUntil := some until' }))
  else
    s.modCtl c (fun k =>
      let k : Ctl := if k.lockedUntil.isSome then { k with lockedUntil := none, bad := 0 } else k
      if ok then { k with bad := 0 }
      else if k.bad + 1 ≥ 16 then { k with bad := 0, lockedUntil := some until' }
      else { k with bad := k.bad + 1 })

/-- R413 step 6 and R414: the command has executed. -/
def Ctl.executed (k : Ctl) (a : AuthCmd) (r : Nat) : Ctl :=
  { k with
    l := a.counter, check := a.check, lastStatus := r
    h := if a.counter ≤ k.h then k.h else BitVec.ofNat 64 (min (a.counter.toNat + 65536) (2 ^ 64 - 1)) }

/-- R416: a result is kept, and one that did not execute counted and recorded; the mailbox answers. -/
def State.result (s : State) (q : QueuedCmd) (r : Nat) : State :=
  let a := q.cmd
  let s := s.modCtl q.path (fun k => { k with
    result := BitVec.ofNat 64 (r * 2 ^ 56 + a.counter.toNat % 2 ^ 56)
    notExec := if r ≤ 1 then k.notExec else satAdd 32 k.notExec 1 })
  let s := if r ≤ 1 then s else
    s.raise { cause := 0x50, detail := BitVec.ofNat 64 (r * 2 ^ 56 + q.path * 2 ^ 48 + a.counter.toNat % 2 ^ 48) }
  if q.path = 0 then s else s.reply (q.path - 1) q.sess (retOf r) (natLe 1 r)

/-- R413 in order; `act` gives the command's effect and its result. -/
def State.handle (s : State) (q : QueuedCmd) (act : State → State × Nat) : State :=
  let c := q.path
  let locked := s.lockedOut c
  let ok := s.checkOk q
  let k := s.ctlOf c
  let s := s.noteCheck c ok
  if locked then s.result q 9
  else if !ok then s.result q 3
  else if q.cmd.counter == k.l && q.cmd.check == k.check then s.result q k.lastStatus
  else if q.cmd.counter ≤ k.l then s.result q 4
  else
    match act s with
    | (t, r) =>
      if r ≤ 1 then (t.modCtl c (fun k => k.executed q.cmd r)).result q r else t.result q r

/-- Kinds of Table 17.12. -/
def kindKnown (k : Nat) : Bool := k = 1 || (0x10 ≤ k && k ≤ 0x14)

/-- Commands of no kind at the head are refused first, in order. -/
def State.refuseUnknown (s : State) : Nat → State
  | 0 => s
  | n + 1 =>
    match s.sec.queue with
    | q :: qs =>
      if kindKnown q.cmd.kind then s
      else
        let s : State := { s with sec := { s.sec with queue := qs } }
        State.refuseUnknown (s.settleOwner.handle q (fun t => (t, 2))) n
    | [] => s

/-- The command at the head of the queue is handled when it is of a kind; time is settled first (R418). A reserved field
that is not zero is refused (00 R11). -/
def State.handleKind (s : State) (kind : Nat) (act : State → Nat → List Byte → State × Nat) : State :=
  let s := if s.runs then s.refuseUnknown s.sec.queue.length else s
  match s.sec.queue with
  | q :: qs =>
    if s.runs && q.cmd.kind = kind then
      let s : State := { s with sec := { s.sec with queue := qs } }
      s.settleOwner.handle q (fun t => if q.cmd.rsv = 0 then act t q.path q.cmd.body else (t, 6))
    else s
  | [] => s

/-! ### The rows -/

/-- An access block from its bytes (Table 17.9). -/
def accessOf (bs : List Byte) : Access :=
  let b3 := leNat ((bs.drop 3).take 1)
  { index := leNat (bs.take 2), sub := leNat ((bs.drop 2).take 1), stg := bit b3 0, rsv := b3 / 2
    off := leNat ((bs.drop 4).take 2), cnt := leNat ((bs.drop 6).take 2), size := leNat ((bs.drop 8).take 4)
    data := (bs.drop 12).take (leNat ((bs.drop 6).take 2)) }

/-- The object write of an authenticated command: 216 bytes of data at most. -/
def State.authObject (s : State) (c : Nat) (b : List Byte) : State × Nat :=
  if b.length < 12 || b.length ≠ 12 + (accessOf b).cnt then (s, 7) else s.writeSegment c (accessOf b) 216 .auth

def execObjectWrite (s : State) : Out := .next (s.handleKind 0x01 State.authObject)
def execClaim (s : State) : Out := .next (s.handleKind 0x10 State.claim)
def execReleaseTo (s : State) : Out := .next (s.handleKind 0x11 State.releaseTo)
def execHeartbeat (s : State) : Out := .next (s.handleKind 0x12 State.heartbeat)
def execActivate (s : State) : Out := .next (s.handleKind 0x13 State.activate)
def execStageClear (s : State) : Out := .next (s.handleKind 0x14 State.stageClear)

/-! ### Into the queue (R416) -/

/-- A command enters the queue of 16, unless it is full. -/
def State.enqueue (s : State) (q : QueuedCmd) : Option State :=
  if s.sec.queue.length ≥ 16 then none else some { s with sec := { s.sec with queue := s.sec.queue ++ [q] } }

end Sys2Proof.Machine
end

