-- ==== Sys2Proof/Machine/MemCtl.lean ====
section
/-! DEFINITION. The memory controllers and scrubbers as they act on their own (12 R294, R296, R307, R308): refresh,
temperature readout, write batches, patrol and SRAM scrub reads. -/
namespace Sys2Proof.Machine

/-- A stack that serves accesses. -/
def State.stackUp (s : State) (n : Nat) : Bool := s.runs && n < s.stackCount && (s.stack n).state == 1

/-! ### Patrol (R307) -/

/-- HBM_PATROL_READ: the next 64-byte burst of a stack's walk. A half known to be uncorrectable reads so. -/
def execHbmPatrolRead (stack : Nat) (sev : Severity) (s : State) : Out :=
  let k := s.stack stack
  let off := 64 * k.walk
  let a := stackRange * stack + off
  let had (i : Nat) := k.bad.contains (off / 32 + i)
  let lo := had 0 || (match sev with | .uncorrectable l _ => l | _ => false)
  let hi := had 1 || (match sev with | .uncorrectable _ h => h | _ => false)
  .next (if !s.stackUp stack || s.cfg 0x5020 1 = 0 || s.gov.ladder > 1 || k.acting then s
  else
    let s := s.modStack stack (fun k => { k with walk := (k.walk + 1) % (stackBytes / 64) })
    if lo || hi then
      let more := (if lo && !had 0 then [off / 32] else []) ++ (if hi && !had 1 then [off / 32 + 1] else [])
      let s := s.modStack stack (fun k => { k with bad := k.bad ++ more, uncorrectable := satAdd 32 k.uncorrectable 1 })
      s.raise (s.hbmRecord 0x24 1 a ((s.partOf a).map (·.1)) none none)
    else if sev == .corrected then
      let s := s.modStack stack (fun k => { k with corrected := satAdd 32 k.corrected 1 })
      -- written back with the corrected data, but where a cache slice holds the line dirty
      if (s.cache (stack / s.spd)).lines.any (fun l => l.line == a / 256 && l.dirty) then s else s.queueWrite a 64
    else s)

/-! ### SRAM scrubbing (R308) -/

/-- First word index of the tag and mark words of the SLM block. -/
def tagBase : Nat := 67108864

/-- The cache line a data or tag word of the SLM block belongs to, when its slice is in cache mode: lines lie in order of
set and way, one tag word for each (log 31). -/
def State.scrubLine (s : State) (d word : Nat) : Option CLine :=
  let n := if word < tagBase then word / 64 else word - tagBase
  let sl := n / 65536
  if sl < 16 && !s.isScratch d sl then
    (s.cache d).lines.find? (fun l => l.slice == sl && l.set == n % 65536 / 16 && l.way == n % 16)
  else none

/-- A multiple-bit error in a word of a cache slice: a clean line is invalidated, a sector of a dirty one poisoned and its
data lost; a line with a bad tag is invalidated. The severity of the record comes with the state. -/
def State.scrubCache (s : State) (d word : Nat) : State × Nat :=
  match s.scrubLine d word with
  | none => (s, 1)
  | some l =>
    let c := s.cache d
    let same (x : CLine) : Bool := x.slice == l.slice && x.set == l.set && x.way == l.way
    let gone : State := { s with caches := s.caches.put d { c with lines := c.lines.filter (fun x => !same x) } }
    -- what the line's data replaced is what its stack holds
    let back (s : State) (off n : Nat) : State :=
      { s with mem := s.mem.paste (256 * l.line + off) n (l.older.cutOut off n) }
    if !l.dirty then (gone, 1)
    else if word < tagBase then
      let i := word % 64 / 8
      let lines := c.lines.map (fun x => if same x then { x with poison := x.poison ||| BitVec.ofNat 8 (2 ^ i) } else x)
      let s := { s with caches := s.caches.put d { c with lines } }
      (back s (32 * i) 32, 2)
    else (back gone 0 256, 2)

/-- The word lies in a slice in cache mode, or among the tags. -/
def State.cacheWord (s : State) (d block word : Nat) : Bool :=
  block = 26 && (tagBase ≤ word || !s.isScratch d (word / 4194304))

/-- A word of a die that stays bad until it is rewritten. -/
def Die.markBad (x : Die) (block word : Nat) (mask : BitVec 39) : Die :=
  if x.badWords.any (fun w => w.1 == block && w.2.1 == word) then x
  else { x with badWords := x.badWords ++ [(block, word, mask)] }

/-- The blocks of a die with SRAM words, in the order of the walk. -/
def sramBlocks (die : Nat) : List Nat :=
  if die < 4 then (List.range 31) else [28, 29, 32, 33, 36, 37, 38, 39] ++ (if die = 4 then [44, 45, 46, 47, 48] else [45])

/-- Words of a block: feed store and instruction store of an MU block, slices and tags of the SLM; what else the manual
gives no size of (log 31). -/
def sramSize (die block : Nat) : Nat :=
  if die < 4 && block < 16 then istoreBase + 32768
  else if die < 4 && block = 26 then tagBase + 16 * 65536
  else Config.sramWords die block + 1

/-- R308: the place after one in a die's walk. -/
def scrubNext (die : Nat) (p : Nat × Nat) : Nat × Nat :=
  if p.2 + 1 < sramSize die p.1 then (p.1, p.2 + 1)
  else (((sramBlocks die).find? (fun b => p.1 < b)).getD ((sramBlocks die).headD 0), 0)

/-- Where a die's walk stands; it starts at the first word of its first block. -/
def State.scrubAt (s : State) (die : Nat) : Nat × Nat :=
  if (sramBlocks die).contains (s.die die).scrub.1 then (s.die die).scrub else ((sramBlocks die).headD 0, 0)

/-- SRAM_SCRUB_READ: of the word at which the die's walk stands. `raced`: another write reached a single-bit word before
its rewrite, which is dropped: that write put good bits there as well. -/
def execSramScrubRead (die block word : Nat) (mask : BitVec 39) (_raced : Bool) (s : State) : Out :=
  let x := s.die die
  let m := match x.badWords.find? (fun w => w.1 == block && w.2.1 == word) with | some w => w.2.2 | none => mask
  .next (if !s.runs || die > 5 || !x.present || s.cfg 0x5020 3 = 0 || s.gov.ladder > 1 || s.scrubAt die ≠ (block, word) then s
  else
    let s := s.modDie die (fun x => { x with scrub := scrubNext die (block, word) })
    match upsetSynd m with
    | .clean => s
    | .check _ | .data _ =>
      (s.correct die 1).sramWrite die block word word
    | .detected y =>
      let s := s.modDie die (fun x => { x with detected := satAdd 32 x.detected 1 })
      if die = 4 && block = 48 then s.moduleStop (sramRecord die block word y none none none 4) false
      else if s.cacheWord die block word then
        let (s, sev) := s.scrubCache die word
        s.raise (sramRecord die block word y none none none sev)
      else (s.modDie die (fun x => x.markBad block word m)).raise (sramRecord die block word y none none none))

/-! ### Refresh, temperature, writes -/

/-- BANK_REFRESH (R294): the next bank of a pseudo-channel. -/
def execBankRefresh (stack pc : Nat) (s : State) : Out :=
  .next (if s.stackUp stack && pc < 32 && s.gov.ladder ≤ 1 then
    s.modStack stack (fun k => { k with bankNext := k.bankNext.put pc ((k.bankNext.get 0 pc + 1) % 32) })
  else s)

/-- STACK_TEMPERATURE_READ (R294): above 85 °C the rate doubles, at or below 82 °C it returns. -/
def execStackTemperatureRead (stack : Nat) (temp : Int) (s : State) : Out :=
  .next (if s.stackUp stack then
    s.modStack stack (fun k => { k with
      temp, doubled := if temp > 680 then true else if temp ≤ 656 then false else k.doubled })
  else s)

/-- WRITE_BATCH (R296): 64 writes of a pseudo-channel, or all that are queued. No read waits between two commands, so the
third case of R296 always holds. -/
def execWriteBatch (stack pc : Nat) (s : State) : Out :=
  .next (if s.stackUp stack && pc < 32 then
    let k := stack * 32 + pc
    let s := if (s.wq.get [] k).isEmpty then s else s.modStack stack (fun x => x.drain stack)
    { s with wq := s.wq.put k ((s.wq.get [] k).drop 64) }
  else s)

end Sys2Proof.Machine
end

