-- ==== Sys2Proof/Machine/Faults.lean ====
section
/-! DEFINITION. Faults of the hardware and their recovery (20): illegal codes and stalls of a block (R463, R464), the end of
a move with what its words met (06 R135, Table 6.18), the sequencer pair's test (R466), the module controller's watchdog
(R468), the rate of corrections (R462), and the environment (22 R484 to R486). -/
namespace Sys2Proof.Machine

/-! ### Class 4 faults of a block -/

/-- The launches that use a block of a compute die. -/
def State.blockUsers (s : State) (d b : Nat) : List Nat :=
  if d ≥ 4 then []
  else if b < 16 then s.usesUnit (16 * d + b)
  else if b < 24 then
    ((s.moves.filter (fun e => unitDie e.2.unit == d && e.2.tmu == b - 16)).map (fun e => e.2.launch) ++
      (s.mus.filter (fun e => unitDie e.1 == d && e.2.closeTmu == some (b - 16))).filterMap (fun e =>
        e.2.closing.map (·.pass.launch))).eraseDups
  else []

/-- The context and queue of the first work that a block carries: a launch, the job of a Spindle engine, a frame of a codec
engine. -/
def State.blockWork (s : State) (d b : Nat) : Option (Nat × Nat) :=
  if d < 4 && b = 24 then (s.spinJob d).map (fun j => (j.2.ctx, j.2.queue))
  else if 4 ≤ d && (b = 32 || b = 33) then (s.frameNow ((d - 4) * 2 + (b - 32))).map (fun f => (f.2.2.1.ctx, f.2.1.queue))
  else ((s.blockUsers d b).head?.bind s.launches.find).map (fun x => (x.ctx, x.queue))

/-- The record of a class 4 fault; it names the first work lost. -/
def State.blockRecord (s : State) (cause d b chan : Nat) : EvRec :=
  let r : EvRec := { cause, cls := 4, sev := 3, die := d, block := b, detail := BitVec.ofNat 64 (chan % 2 ^ 16) }
  match s.blockWork d b with
  | some (c, q) => { r with part := (s.ctxs.find c).map (·.part), ctx := some c, queue := some q }
  | none => r

/-- R464: a tensor move unit leaves its die; the launches with an operation outstanding on it are aborted. -/
def State.removeTmu (s : State) (d k cause : Nat) : State :=
  let ls := s.blockUsers d (16 + k)
  let s := { s with moves := s.moves.filter (fun e => !(unitDie e.2.unit == d && e.2.tmu == k)) }
  let s := (s.mus.filter (fun e => unitDie e.1 == d && e.2.closeTmu == some k)).foldl (fun s e =>
    s.modMu e.1 (fun m =>
      let m := match m.closing with | some t => m.unreserve t.drain.slot | none => m
      { m with closing := none, closeTmu := none, stage := {} })) s
  let s := s.modDie d (fun x => { x with tmuOut := if x.tmuOut.contains k then x.tmuOut else k :: x.tmuOut })
  ls.foldl (fun s l =>
    if ((s.launches.find l).map (·.st)) == some LaunchSt.ending then s.settle l else s.abortFor l cause) s

/-- A Spindle engine leaves: its jobs end with STATUS 3. -/
def State.removeSpindle (s : State) (d cause : Nat) : State :=
  let js := s.spin.get [] d
  let s := { s with spin := s.spin.del d }
  let s := s.modDie d (fun x => { x with spindleOut := true })
  js.foldl (fun s j => s.finishItem j.queue j.item 3 cause 0) s

/-- A codec engine leaves: its frame is abandoned with STATUS 3, items that wait end with STATUS 4. -/
def State.removeEngine (s : State) (e cause : Nat) : State :=
  let s := match (s.engine e).cur with
    | none => s
    | some f =>
      match (s.engine e).streams.find f.stream, s.item f.queue f.item with
      | some x, some it =>
        match s.ctxs.find x.ctx, it.body with
        | some c, .codecFrame w => s.abandon c e f x (frameOf w).rep 3 cause
        | _, _ => s
      | _, _ => s
  let items := (s.engine e).streams.flatMap (fun x => x.2.ready.map (fun r => (r.1, r.2.1)))
  let streams : Tab Stream := (s.engine e).streams.map (fun x => (x.1, { x.2 with ready := [] }))
  let s := s.modEngine e (fun g => { g with removed := true, cur := none, streams })
  items.foldl (fun s i => s.finishItem i.1 i.2 4 0 0) s

/-- Table 20.6, class 4: a block of a die has an illegal code (0x21) or a stall (0x22). -/
def State.blockFault (s : State) (cause d b chan : Nat) : State :=
  let r := s.blockRecord cause d b chan
  let s := s.modDie d (fun x =>
    if cause = 0x21 then { x with illegal := satAdd 32 x.illegal 1 } else { x with stalls := satAdd 32 x.stalls 1 })
  if stopsModule d b then s.moduleStop { r with sev := 4 } false
  else
    let s := s.raise r
    if d < 4 then
      if b < 16 then s.removeUnit (16 * d + b) cause
      else if b < 24 then s.removeTmu d (b - 16) cause
      else if b = 24 then s.removeSpindle d cause
      else s
    else if b = 32 || b = 33 then s.removeEngine ((d - 4) * 2 + (b - 32)) cause
    else if 36 ≤ b && b ≤ 39 then
      let p := (d - 4) * 4 + (b - 36)
      let s := if (s.port p).losable then s.loss p false false else s
      s.modPort p (fun x => { x with failed := true, state := 1 })
    else s

/-- STALL_MONITOR (01 R27): a request that a channel raised at a local count has not been acknowledged for 5,000 counts of its
die's oscillator. The channels' handshakes themselves are the command's to say (log 90). -/
def execStallMonitor (die block : Nat) (chan : Request) (s : State) : Out :=
  let now := s.clock.localc.get 0 die
  .next (if s.runs && s.dualRail die block && chan.raised.toNat + 5000 ≤ now.toNat then s.blockFault 0x22 die block chan.chan else s)

/-! ### Words on their way (01 R18, R26; 12 Table 12.4) -/

/-- A detected error of a word, with its record. -/
def State.badWord (s : State) (d b idx synd : Nat) (part ctx queue : Option Nat) : State :=
  (s.modDie d (fun x => { x with detected := satAdd 32 x.detected 1 })).raise (sramRecord d b idx synd part ctx queue)

/-- So many parity failures running: four retries at most. -/
def State.parityTries (s : State) (a n : Nat) : State :=
  s.modStack (a / stackRange) (fun k => { k with parity := satAdd 32 k.parity (min n 4) })

/-- What the words of an operation of no launch meet between a die and the dies it reaches, or in a block of its own; and
whether the operation still has them. -/
def State.onWay (s : State) (home : Nat) (dies : List Nat) (own : Nat → Nat → Bool) (part ctx queue : Option Nat) :
    Upset → State × Bool
  | .none => (s, true)
  | .word d b i mask =>
    if !(s.die d).present || !(s.variant.crosses home dies d b || own d b) then (s, true)
    else
      match upsetSynd mask with
      | .clean => (s, true)
      | .check _ | .data _ => (s.correct d 1, true)
      | .detected y => (s.badWord d b i y part ctx queue, false)
  | .parity a n =>
    match s.region a with
    | .stack k _ =>
      if !dies.contains (k / s.spd) then (s, true)
      else
        let t := s.parityTries a n
        if n < 5 then (t, true) else (t.raise (s.hbmRecord 0x25 2 a part ctx queue), false)
    | _ => (s, true)
  | .illegal d b chan =>
    if s.dualRail d b then (s.blockFault 0x21 d b chan, !(s.variant.crosses home dies d b || own d b)) else (s, true)

/-- HOST_MEM_READ: a read of one line, with what its words met. -/
def execHostMemRead (port : Fin 8) (hpa : Met Nat) (s : State) : Out :=
  let p := port.val
  let ⟨hpa, up⟩ := hpa
  .next (if !s.runs || !(s.port p).active then s
  else
    match s.hostLine p hpa with
    | none => s.hostRead p hpa
    | some (k, a) =>
      let x := a / stackRange / s.spd
      match s.onWay (portDie p) [x] (fun d b => (d = portDie p && b = 36 + p % 4) || (d = x && b = 27)) (some k) none none up with
      | (s, true) => s.hostRead p hpa
      | (s, false) => if (s.port p).active then s.send (.memResp p deadLine true (s.hostBias a).isNone) else s)

/-- HOST_MEM_WRITE: a write of one line with byte enables, with what its words met. -/
def execHostMemWrite (port : Fin 8) (hpa : Met Nat) (data : List (Option Byte)) (s : State) : Out :=
  let p := port.val
  let ⟨hpa, up⟩ := hpa
  .next (if !s.runs || !(s.port p).active || data.length ≠ 64 then s
  else
    match s.hostLine p hpa with
    | none => s.hostStore p hpa data
    | some (k, a) =>
      let x := a / stackRange / s.spd
      match s.onWay (portDie p) [x] (fun d b => (d = portDie p && b = 36 + p % 4) || (d = x && b = 27)) (some k) none none up with
      | (s, true) => s.hostStore p hpa data
      | (s, false) => if (s.port p).active then s.send (.memDrop p) else s)

/-- SPINDLE_ROW: the row of the job that a die's engine runs, with what its words met; the job ends where they are lost. -/
def execSpindleRow (d : Met (Fin 4)) (s : State) : Out :=
  let ⟨d, up⟩ := d
  .next (if !s.runs || (s.die d.val).spindleOut || (s.die d.val).failed then s
  else
    let s := s.turnSpin d.val
    match s.spinJob d.val with
    | none => s
    | some (_, j) =>
      match s.onWay d.val (s.jobDies j) (fun e b => e = d.val && b = 24) (some j.part) (some j.ctx) (some j.queue) up with
      | (s, true) => s.spindleRow d.val
      | (s, false) => if (s.spinJob d.val).isSome then s.spinFail d.val j else s)

/-- The dies that a frame's words may come from and go to: those of its context's memory. -/
def State.frameDies (s : State) (c : Ctx) : List Nat := (c.allocs.flatMap (fun e => s.allocDies e.2)).eraseDups

/-- FRAME_END: the end of an engine's frame, with what its words met; the frame is abandoned where they are lost. -/
def execFrameEnd (e : Met (Fin 4)) (s : State) : Out :=
  let ⟨e, up⟩ := e
  .next (match (s.engine e.val).cur with
  | none => s
  | some _ =>
    match s.frameNow e.val with
    | none => s.frameEnd e.val
    | some (c, f, x, p) =>
      match s.onWay (codecDie e.val) (s.frameDies c) (fun d b => d = codecDie e.val && b = 32 + e.val % 2) (some c.part)
          (some x.ctx) (some f.queue) up with
      | (s, true) => s.frameEnd e.val
      | (s, false) => if (s.frameNow e.val).isSome then s.abandon c e.val f x p.rep 3 0x1C else s)

/-! ### MOVE_COMPLETE -/

/-- A move that stopped: the slots it was filling hold undefined bytes, and its completion value has CODE 3. -/
def State.stopMove (s : State) (n : Nat) (m : Move) : State :=
  let s := match m.kind with
    | .box .memSlot src _ _ _ ex slot _ =>
      let c := (s.launches.find m.launch).bind (fun x => s.ctxs.find x.ctx)
      match c.bind (fun c => c.descs.find src) with
      | some d =>
        s.spoilSlots m.unit slot (boxBytes (descOf d.image) ex)
      | none => s
    | _ => s
  s.closeMove n m 3 0

/-- A move's words met an illegal code in a block: the block is lost with the move. -/
def State.moveIllegal (s : State) (n : Nat) (m : Move) (d b chan : Nat) : State :=
  let s := s.blockFault 0x21 d b chan
  match s.moves.find n with
  | none => s
  | some _ =>
    let s := s.stopMove n m
    if ((s.launches.find m.launch).map (·.st)) == some LaunchSt.ending then s.settle m.launch else s.abortFor m.launch 0x21

/-- Table 20.6, class 1: a detected error in a word of a slice in cache mode. A clean line is fetched again; sectors of a
dirty one are poisoned. It is the scrubber's response as well (12 R308). -/
def State.cacheBad (s : State) (d b idx synd : Nat) (part ctx queue : Option Nat) : State × Bool :=
  let clean := match s.scrubLine d idx with | some l => !l.dirty | none => true
  let (s, sev) := s.scrubCache d idx
  ((s.modDie d (fun x => { x with detected := satAdd 32 x.detected 1 })).raise (sramRecord d b idx synd part ctx queue sev), clean)

/-- A fabric or SRAM word of a move: corrected, or detected (01 R18, Table 20.6). -/
def State.moveWord (s : State) (n : Nat) (m : Move) (d b idx : Nat) (mask : BitVec 39) : State :=
  match upsetSynd mask with
  | .clean => s.completeMove n m
  | .check _ | .data _ => (s.correct d 1).completeMove n m
  | .detected y =>
    let x := s.launches.find m.launch
    let c := x.map (·.ctx)
    let part := (c.bind s.ctxs.find).map (·.part)
    if s.cacheWord d b idx then
      match s.cacheBad d b idx y part c (x.map (·.queue)) with
      | (s, true) => s.completeMove n m
      | (s, false) => (s.stopMove n m).abortWith m.launch 0x20 m.iaddr m.ino
    else
      let s := s.modDie d (fun x => if b < 16 || b = 26 then x.markBad b idx mask else x)
      let s := (s.stopMove n m).badWord d b idx y part c (x.map (·.queue))
      s.abortWith m.launch 0x20 m.iaddr m.ino

/-- Bus parity failed five times running: CODE 3 and cause 0x1C (12 Table 12.4). -/
def State.moveParity (s : State) (n : Nat) (m : Move) (a : Nat) : State :=
  let x := s.launches.find m.launch
  let c := x.map (·.ctx)
  let s := s.stopMove n m
  (s.raise (s.hbmRecord 0x25 2 a ((c.bind s.ctxs.find).map (·.part)) c (x.map (·.queue)))).abortWith m.launch 0x1C m.iaddr m.ino

/-- The dies that a move reaches from its unit's. -/
def State.moveDies (s : State) (m : Move) : List Nat :=
  match (s.launches.find m.launch).bind (fun x => s.ctxs.find x.ctx) with
  | none => []
  | some c =>
    let hs := match m.kind with
      | .box dir src dst _ _ _ _ _ => match dir with | .memMem => [src, dst] | .memSlot => [src] | .slotMem => [dst]
      | .gather src dst idx _ => [src, dst, idx]
      | .scatter src dst idx _ _ => [src, dst, idx]
    (hs.flatMap (fun h =>
      match c.descs.find h with
      | some d => let f := descOf d.image; s.spanDies c f.span.1.toNat f.span.2.toNat
      | none => [])).eraseDups

/-- Blocks that the words of a move pass: links on the fixed routes of its traffic, its unit, its tensor move unit, and the
slices and memory controllers of the dies it reaches. -/
def State.movePasses (s : State) (m : Move) (d b : Nat) : Bool :=
  let dies := s.moveDies m
  s.variant.crosses (unitDie m.unit) dies d b || (d == unitDie m.unit && (b == m.unit % 16 || b == 16 + m.tmu)) ||
    (dies.contains d && (b == 26 || b == 27))

/-- MOVE_COMPLETE (06 R135): a move ends, with what its words met on their way. An illegal code is reported here whichever
receiver observed it, and takes the move with it where the move's words pass the block (01 R26; log 90). -/
def execMoveComplete (m : Nat) (up : Upset) (s : State) : Out :=
  .next (match s.moves.find m, up with
  | some v, .none => s.completeMove m v
  | some v, .word d b i mask => if (s.die d).present && s.movePasses v d b then s.moveWord m v d b i mask else s
  | some v, .parity a n =>
    match s.region a with
    | .stack k _ =>
      if !(s.moveDies v).contains (k / s.spd) then s
      else if n < 5 then (s.parityTries a n).completeMove m v
      else (s.parityTries a n).moveParity m v a
    | _ => s
  | v, .illegal d b chan =>
    if !s.runs || !s.dualRail d b then s
    else
      match v with
      | some v => if s.movePasses v d b then s.moveIllegal m v d b chan else s.blockFault 0x21 d b chan
      | none => s.blockFault 0x21 d b chan
  | none, _ => s)

/-! ### The sequencer pair's test (R466) -/

/-- SEQUENCER_SELF_TEST: a pass returns the pair to service, a failure removes its unit. -/
def execSequencerSelfTest (u : Fin 64) (passed : Bool) (s : State) : Out :=
  let p := s.pair u.val
  .next (if s.runs && p.stopped && p.seqFaults ≥ 1 && (s.mu u.val).state == 0 then
    if passed then s.modPair u.val (fun p => { p with stopped := false }) else s.withdrawUnit u.val 0x1A 5
  else s)

/-! ### The module controller (R468) -/

/-- WATCHDOG_EXPIRY: the bypass closes and the controller restarts; a third expiry within one hour stops the module. -/
def execWatchdogExpiry (s : State) : Out :=
  let w := s.start
  let times := s.recentExpiries ++ [s.clock.refc]
  .next (if !s.runs || w.wdRestarting then s
  else
    let s := { s with
      start := { w with wdExpiries := satAdd 32 w.wdExpiries 1, wdTimes := times, wdRestarting := true }
      ring := { s.ring with inserted := false } }
    if times.length ≥ 3 then
      s.moduleStop { cause := 0x32, sev := 4, die := 6, detail := BitVec.ofNat 64 s.start.wdExpiries } true
    else s)

/-- WATCHDOG_RESTART: the ring is reinserted and record 0x32 queued. -/
def execWatchdogRestart (s : State) : Out :=
  .next (if s.runs && s.start.wdRestarting then
    let s := { s with start := { s.start with wdRestarting := false }
                      ring := { s.ring with inserted := true, cycleAt := s.clock.refc } }
    s.raise s.expiryRecord
  else s)

/-! ### Corrections in a second (R462) and the busy objects (18 R440) -/

/-- CORRECTION_RATE_SECOND: a whole second of the reference counter has ended; each that had more than 1,000 corrections is
reported. The busy times are refreshed with it; they follow timing, which the model leaves open (log 8). -/
def execCorrectionRateSecond (die : Nat) (s : State) : Out :=
  let x := (s.die die).intoSecond (s.now / secCounts 1)
  let sec := s.now / secCounts 1
  .next (if s.runs && die ≤ 5 && x.present && x.corrSec < sec then
    let (k, s) := s.draw
    let busy (i : Nat) : Nat := Config.freeNat (k + i) 1001 % 1001
    let s := s.modDie die (fun _ => { x with
      corrSec := sec, corrDue := [], busyMu := busy 0, busyVec := busy 1, busySpin := busy 2 })
    let s := ((List.range 4).filter (fun e => codecDie e == die)).foldl (fun s e =>
      s.modEngine e (fun g => { g with busy := busy (3 + e) })) s
    x.corrDue.foldl (fun s n => s.raise { cause := 0x28, sev := 1, die, detail := BitVec.ofNat 64 (n % 2 ^ 32) }) s
  else s)

/-! ### The environment (22 R484 to R486) -/

end Sys2Proof.Machine

namespace Sys2Proof

/-- A reading beyond the absolute maximum ratings. -/
def EnvReading.beyond (r : EnvReading) : Bool := r.mv10 > 6000 || r.inlet > 360

/-- A reading outside Table 22.1. -/
def EnvReading.outside (r : EnvReading) : Bool :=
  r.mv10 < 5000 || r.mv10 > 5800 || r.inlet < 160 || r.inlet > 320 || r.flow < 400 || r.flow > 1200 ||
    r.junction < 0 || r.junction > 800

end Sys2Proof

namespace Sys2Proof.Machine

/-- ENVIRONMENTAL_READING: the 10 ms refresh; the manual says nothing of what happens beyond the absolute maxima. -/
def execEnvironmentalReading (r : EnvReading) (s : State) : Out :=
  if s.start.power == .off then .next s
  else if r.beyond then .fault .beyondAbsoluteMaximum
  else
    let env : Env := { s.env.note s.clock.refc r.outside with
      mv10 := r.mv10, ma10 := r.ma10, inlet := r.inlet, outlet := r.outlet, flow := r.flow }
    .next ({ s with env }.promiseRecord s)

end Sys2Proof.Machine
end

