-- ==== Sys2Proof/Machine/Mailbox.lean ====
section
/-! DEFINITION. A port as a controller (16 R390, R391, 18 R429 to R431): dictionary access through the vendor mailbox, and the
Euxisia DOE protocol with its secured session (19 R455, R456; formats left open in log 24). -/
namespace Sys2Proof.Machine

/-! ### Dictionary access -/

/-- Table 17.9: the block a read answers with. -/
def accessHead (a : Access) (cnt size : Nat) : List Byte :=
  natLe 2 a.index ++ natLe 1 a.sub ++ natLe 1 (b2n a.stg) ++ natLe 2 a.off ++ natLe 2 cnt ++ natLe 4 size

/-- A read's status, or its whole answer; `room` is the most data the answer carries. -/
def State.readBlock (s : State) (c : Nat) (a : Access) (room : Nat) : Except Nat (List Byte) :=
  if a.rsv ≠ 0 then .error 7
  else
    match s.objRead c a.index a.sub a.stg with
    | .error e => .error e
    | .ok bs =>
      let d := (bs.drop a.off).take (min a.cnt room)
      .ok (accessHead a d.length bs.length ++ d)

def State.mailRead (s : State) (p : Nat) (a : Access) : State :=
  match s.settleOwner.readBlock (p + 1) a 65535 with
  | .error e => s.send (.mailbox p (retOf e) [])
  | .ok bs => s.send (.mailbox p .success bs)

/-- DICT_READ. -/
def execDictRead (port : Fin 8) (a : Access) (s : State) : Out :=
  .next (if s.mailboxOk port.val then s.mailRead port.val a else s)

def State.mailWrite (s : State) (p : Nat) (a : Access) : State :=
  let r := s.settleOwner.writeSegment (p + 1) a 65535 .plain
  r.1.send (.mailbox p (retOf r.2) (natLe 1 r.2))

/-- DICT_WRITE. -/
def execDictWrite (port : Fin 8) (a : Access) (s : State) : Out :=
  .next (if s.mailboxOk port.val then s.mailWrite port.val a else s)

/-- An authenticated command through a mailbox: queued, or answered Busy. -/
def State.mailAuth (s : State) (p : Nat) (sess : Bool) (a : AuthCmd) : State :=
  match s.enqueue { path := p + 1, broadcast := false, sess, cmd := a } with
  | some t => t
  | none => s.reply p sess .busy (natLe 1 8)

/-- DICT_WRITE_AUTH carries KIND 0x01 only (R411). -/
def execDictWriteAuth (port : Fin 8) (a : AuthCmd) (s : State) : Out :=
  let p := port.val
  .next (if !s.mailboxOk p then s
  else if a.kind = 1 then s.mailAuth p false a
  else s.send (.mailbox p .invalidInput []))

/-- CONTROL carries any other KIND (R411). -/
def execControl (port : Fin 8) (a : AuthCmd) (s : State) : Out :=
  let p := port.val
  .next (if !s.mailboxOk p then s
  else if a.kind = 1 then s.send (.mailbox p .invalidInput [])
  else s.mailAuth p false a)

/-! ### DOE -/

/-- A port serves DOE: also while it waits for its IDE streams (16 R392). -/
def State.doeOk (s : State) (p : Nat) : Bool := s.runs && ((s.port p).active || (s.port p).state = 7)

/-- One memory range of the CDAT. -/
structure CdatRange where
  base : Nat
  size : Nat
  latencyNs : Nat
  gigabytesPerS : Nat
deriving DecidableEq, Repr

/-- R391: the CDAT of a port, a range per committed decoder. CDAT Table Access carries it out; no row of the table asks. -/
def Port.cdat (x : Port) : List CdatRange :=
  ([x.hdm0, x.hdm1].filter (·.committed)).map (fun h => ⟨h.base, h.size, 400, 52⟩)

/-- GET_IDENTITY. -/
def execGetIdentity (port : Fin 8) (s : State) : Out :=
  .next (if s.doeOk port.val then
    s.send (.doe port.val (identityPublic ++ exchangePublic ++ Config.endorsement))
  else s)

/-- ATTEST. -/
def execAttest (port : Fin 8) (nonce : List Byte) (s : State) : Out :=
  .next (if s.doeOk port.val && nonce.length = 32 then s.send (.doe port.val (s.attest nonce)) else s)

/-- The bytes of a SESSION-OPEN request. -/
def openImage (ctrl : Nat) (ct nonce : List Byte) : List Byte := natLe 1 ctrl ++ ct ++ nonce

/-- A session opens: its nonce, and the signature over T. -/
def State.sessionOpen (s : State) (p ctrl : Nat) (ct nonce : List Byte) : State :=
  let (k, s) := s.draw
  let mine := fit 32 (Config.freeBytes k 32)
  let t := sha3_256 (openImage ctrl ct nonce ++ mine)
  let x : Session := { ctrl, secret := fit 32 (Config.mlkemDecap exchangeSeed ct), t }
  (s.modPort p (fun y => { y with session := some x })).send (.doe p (mine ++ identitySign t))

/-- SESSION_OPEN: for the port's own controller. -/
def execSessionOpen (port : Fin 8) (ctrl : Nat) (ct : List Byte) (nonce : List Byte) (s : State) : Out :=
  let p := port.val
  .next (if !s.doeOk p then s
  else if ctrl = p + 1 && ct.length = 1088 && nonce.length = 32 then s.sessionOpen p ctrl ct nonce
  else s.send (.doe p [0x06#8]))

/-- SESSION_FINISH. -/
def execSessionFinish (port : Fin 8) (mac : List Byte) (s : State) : Out :=
  let p := port.val
  .next (if !s.doeOk p then s
  else
    match (s.port p).session with
    | some x =>
      match (s.ctlOf x.ctrl).key with
      | some k =>
        if mac == hmac k x.t then
          (s.modPort p (fun y => { y with session := some { x with finished := true } })).send (.doe p [0#8])
        else s.send (.doe p [0x03#8])
      | none => s.send (.doe p [0x03#8])
    | none => s.send (.doe p [0x06#8]))

/-- SESSION_CLOSE. -/
def execSessionClose (port : Fin 8) (s : State) : Out :=
  .next (if s.doeOk port.val then
    (s.modPort port.val (fun y => { y with session := none })).send (.doe port.val [0#8])
  else s)

/-! ### SECURED -/

/-- What an outcome's state is. -/
def after (s : State) : Out → State
  | .next t => t
  | _ => s

/-- A mailbox command inside the session: its response is sealed. -/
def State.inside (s : State) (p : Nat) (f : State → Out) : State :=
  let t := after s (f s)
  let n := s.out.length
  let resp := (t.out.drop n).findSome? (fun m => match m with | .mailbox q r bs => if q = p then some (r, bs) else none | _ => none)
  let t : State := { t with out := t.out.take n ++ (t.out.drop n).filter (fun m =>
    match m with | .mailbox q _ _ => q != p | _ => true) }
  match resp with
  | some (r, bs) => t.reply p true r bs
  | none => t

/-- R392: the keys of the port's streams; with both active a port that waited serves. -/
def State.setIde (s : State) (p : Nat) (io mem : Bool) : State :=
  s.modPort p (fun x =>
    let x : Port := { x with ideIo := io, ideMem := mem }
    if x.state = 7 && io && mem then { x with state := 3, lossSince3 := false } else x)

/-- The message inside. -/
def State.secured (s : State) (port : Fin 8) (m : Config.SecuredMsg) : State :=
  let p := port.val
  match m with
  | .ide io mem => (s.setIde p io mem).seal p (Config.ideImage io mem)
  | .dictRead a => s.inside p (execDictRead port a)
  | .dictWrite a => s.inside p (execDictWrite port a)
  | .dictWriteAuth a =>
    if !s.mailboxOk p then s else if a.kind = 1 then s.mailAuth p true a else s.reply p true .invalidInput []
  | .control a =>
    if !s.mailboxOk p then s else if a.kind = 1 then s.reply p true .invalidInput [] else s.mailAuth p true a
  | .adminSetup t => s.inside p (execAdminSetup port t)
  | .eventSetup b n w v => s.inside p (execEventSetup port b n w v)
  | .biasSet f n h => s.inside p (execBiasSet port f n h)
  | .portQuiesce => s.inside p (execPortQuiesce port)
  | .other => s

/-- SECURED: the next sequence number under a good tag, else the session ends. -/
def execSecured (port : Fin 8) (seq : W64) (ct tag : List Byte) (s : State) : Out :=
  let p := port.val
  .next (if !s.doeOk p then s
  else
    match (s.port p).session with
    | some x =>
      let text := if seq = x.rxSeq then Config.gcmOpen (x.keyOf "REQ") (gcmNonce seq) [] ct tag else none
      match text with
      | some bs =>
        if x.finished then
          (s.modPort p (fun y => { y with session := some { x with rxSeq := x.rxSeq + 1 } })).secured port
            (Config.securedMsg bs)
        else s
      | none => s.modPort p (fun y => { y with session := none })
    | none => s)

end Sys2Proof.Machine
end

