-- ==== Sys2Proof/Machine/RingFrames.lean ====
section
/-! DEFINITION. The Myfen ring (17 R400 to R410, R426): frames in passing. A node acts only while it is inserted; a frame with
a bad CRC is forwarded with its CRC complemented (R402). -/
namespace Sys2Proof

/-- Table 17.3: header and payload. -/
def Frame.body (f : Frame) (ty : Byte) : List Byte :=
  [ty, f.dst, f.hops, f.status] ++ natLe 2 f.seq.toNat ++ natLe 2 f.payload.length ++ f.payload

/-- R402: the CRC is right and the frame is not too long. -/
def Frame.good (f : Frame) (ty : Byte) : Bool := f.payload.length ≤ 256 && f.crc == crc32 (f.body ty)

/-- What the addressed node writes: STATUS and payload. -/
def Frame.reply (f : Frame) (status : Nat) (payload : List Byte) : Frame :=
  { f with status := BitVec.ofNat 8 status, payload }

end Sys2Proof

namespace Sys2Proof.Machine

/-! ### Bytes of a payload -/

/-- Bytes put at an offset. -/
def putAt (bs : List Byte) (off : Nat) (x : List Byte) : List Byte :=
  bs.take off ++ x ++ bs.drop (off + x.length)

def byteAt (bs : List Byte) (i : Nat) : Nat := (bs.getD i 0).toNat

/-- Bit `a` of a bitmap at an offset: byte a >> 3, bit a & 7. -/
def mapBit (bs : List Byte) (off a : Nat) : Bool := bit (byteAt bs (off + a / 8)) (a % 8)

def setMapBit (bs : List Byte) (off a : Nat) : List Byte :=
  let i := off + a / 8
  putAt bs i [BitVec.ofNat 8 (byteAt bs i ||| 2 ^ (a % 8))]

/-! ### Passing a frame on -/

/-- HOPS rises, the CRC is computed anew. -/
def State.forward (s : State) (ty : Byte) (f : Frame) : State :=
  let f : Frame := { f with hops := BitVec.ofNat 8 (satAdd 8 f.hops.toNat 1) }
  s.send (.ringFrame (f.body ty ++ natLe 4 (crc32 (f.body ty)).toNat))

/-- A frame arrives: `act` answers the state and the frame as the node leaves it. -/
def State.pass (s : State) (ty : Byte) (f : Frame) (act : State → State × Frame) : State :=
  if !s.ring.inserted then s
  else if f.good ty then
    let r := act s
    r.1.forward ty r.2
  else
    let s : State := { s with ring := { s.ring with crcErr := satAdd 32 s.ring.crcErr 1 } }
    s.send (.ringFrame (f.body ty ++ natLe 4 (~~~f.crc).toNat))

/-- A frame every addressed node acts on. -/
def State.toAll (s : State) (f : Frame) : Bool := s.ring.addr ≠ 0 && f.dst = 255

/-- A unicast frame for this node. -/
def State.toMe (s : State) (f : Frame) : Bool := s.ring.addr ≠ 0 && f.dst.toNat = s.ring.addr

/-! ### ENUM (R404, R405) -/

/-- Phase 0. -/
def State.enum0 (s : State) (p : List Byte) : State × List Byte :=
  let sticky := s.cfg 0x2010 2
  let addr := if sticky ≠ 0 then sticky else if bit (byteAt p 1) 0 then 0 else s.ring.addr
  if addr = 0 then ({ s with ring := { s.ring with addr := 0 } }, p)
  else if mapBit p 0x04 addr then ({ s with ring := { s.ring with addr := 0, dup := true } }, setMapBit p 0x24 addr)
  else ({ s with ring := { s.ring with addr, dup := false } }, setMapBit p 0x04 addr)

/-- Phase 1. -/
def State.enum1 (s : State) (p : List Byte) : State × List Byte :=
  if s.ring.addr ≠ 0 then (s, p)
  else
    match (List.range 251).find? (fun a => a ≠ 0 && byteAt p 2 ≤ a && !mapBit p 0x04 a) with
    | some a =>
      ({ s with ring := { s.ring with addr := a, dup := false } }, putAt (setMapBit p 0x04 a) 2 [BitVec.ofNat 8 (a + 1)])
    | none => (s, putAt p 3 [BitVec.ofNat 8 (satAdd 8 (byteAt p 3) 1)])

def execEnum (f : Frame) (s : State) : Out :=
  .next (s.pass 1 f (fun s =>
    if f.dst = 255 && f.payload.length = 68 then
      match (if byteAt f.payload 0 = 0 then s.enum0 f.payload
        else if byteAt f.payload 0 = 1 then s.enum1 f.payload else (s, f.payload)) with
      | (s, p) => (s, { f with payload := p })
    else (s, f)))

/-! ### CYCLE (R406) -/

def State.cycle (s : State) (f : Frame) : State × Frame :=
  let s : State := { s with ring := { s.ring with cycleAt := s.clock.refc, noCycle := false } }
  if s.toAll f then
    let p := if s.ring.queue.isEmpty then f.payload else setMapBit f.payload 0x10 s.ring.addr
    ({ s with ring := { s.ring with cycle := BitVec.ofNat 64 (leNat (f.payload.take 8)) } }, { f with payload := p })
  else (s, f)

def execCycle (f : Frame) (s : State) : Out :=
  .next (s.pass 2 f (fun s => if f.dst = 255 && f.payload.length = 48 then s.cycle f else (s, f)))

/-- CYCLE_TIMEOUT: 300 ms without a valid CYCLE. -/
def execCycleTimeout (s : State) : Out :=
  .next (if s.ring.inserted && decide (s.now ≥ s.ring.cycleAt.toNat + usCounts 300000) then
    { s with ring := { s.ring with noCycle := true } }
  else s)

/-! ### READ and WRITE (R408 to R410) -/

/-- READ fills in the bytes the frame has room for. -/
def State.frameRead (s : State) (f : Frame) : Frame :=
  if f.payload.length < 12 then f.reply 7 f.payload
  else
    match s.settleOwner.readBlock 0 (accessOf f.payload) (f.payload.length - 12) with
    | .error e => f.reply e f.payload
    | .ok bs => f.reply 0 (putAt f.payload 0 bs)

def execRead (f : Frame) (s : State) : Out :=
  .next (s.pass 3 f (fun s => if s.toMe f then (s, s.frameRead f) else (s, f)))

/-- A repeated WRITE returns its stored status (R410). -/
def State.repeated (s : State) (f : Frame) : Option Nat :=
  match s.ring.lastWrite with
  | some (q, p, r) => if q = f.seq && p == f.payload then some r else none
  | none => none

/-- A write executes, and wakes the module from L1 to L3 (14 Table 14.4). -/
def State.frameWrite (s : State) (f : Frame) : State × Frame :=
  match s.repeated f with
  | some r => (s, f.reply r f.payload)
  | none =>
    let a := accessOf f.payload
    let r := if f.payload.length < 12 || f.payload.length ≠ 12 + a.cnt then (s, 7)
      else s.settleOwner.writeSegment 0 a 244 .plain
    match r with
    | (t, e) => (({ t with ring := { t.ring with lastWrite := some (f.seq, f.payload, e) } }).rouse, f.reply e f.payload)

def execWrite (f : Frame) (s : State) : Out :=
  .next (s.pass 4 f (fun s => if s.toMe f then s.frameWrite f else (s, f)))

/-! ### WRITE-AUTH (R411, R412, R416) -/

/-- Table 17.11 from its bytes. -/
def authOf (bs : List Byte) : AuthCmd :=
  let n := bs.length - 28
  { ctrl := byteAt bs 0, kind := byteAt bs 1, rsv := leNat ((bs.drop 2).take 2)
    counter := BitVec.ofNat 64 (leNat ((bs.drop 4).take 8)), body := (bs.drop 12).take n, check := bs.drop (12 + n) }

/-- Unicast: STATUS 0xFE, or 0x08 when the queue is full. -/
def State.authOne (s : State) (f : Frame) : State × Frame :=
  if f.payload.length < 28 then (s, f.reply 7 f.payload)
  else
    match s.enqueue { path := 0, broadcast := false, cmd := authOf f.payload } with
    | some t => (t.rouse, f.reply 0xFE f.payload)
    | none => (s, f.reply 8 f.payload)

/-- Broadcast: only ACTIVATE; the node sets its ACCEPT bit. It wakes the module as every ring write does (14 Table 14.4). -/
def State.authAll (s : State) (f : Frame) : State × Frame :=
  let a := authOf (f.payload.drop 32)
  if f.payload.length < 60 || a.kind ≠ 0x13 then (s, f)
  else
    match s.enqueue { path := 0, broadcast := true, cmd := a } with
    | some t => (t.rouse, { f with payload := setMapBit f.payload 0 s.ring.addr })
    | none => (s, f)

def execWriteAuth (f : Frame) (s : State) : Out :=
  .next (s.pass 5 f (fun s =>
    if s.toMe f then s.authOne f else if s.toAll f then s.authAll f else (s, f)))

/-! ### SWEEP (R426) -/

/-- The node's digest prefix in a mode. -/
def State.sweepPrefix (s : State) (mode : Nat) : List Byte := (if mode = 0 then s.digest else s.stagedDigest).take 8

/-- AGREE, or DIFFER with a record while there is room; and PEND. -/
def State.sweepMark (s : State) (p : List Byte) : List Byte :=
  let a := s.ring.addr
  let pre := s.sweepPrefix (byteAt p 0)
  let ep := natLe 8 s.dict.epoch.toNat
  let p := if !s.dict.staged.isEmpty || s.dict.act.isSome then setMapBit p 0x58 a else p
  if pre == (p.drop 8).take 8 && ep == (p.drop 16).take 8 then setMapBit p 0x18 a
  else
    let p := putAt (setMapBit p 0x38 a) 1 [BitVec.ofNat 8 (satAdd 8 (byteAt p 1) 1)]
    let n := byteAt p 2
    if n < 8 then putAt (putAt p (0x78 + 17 * n) ([BitVec.ofNat 8 a] ++ pre ++ ep)) 2 [BitVec.ofNat 8 (n + 1)] else p

def execSweep (f : Frame) (s : State) : Out :=
  .next (s.pass 6 f (fun s =>
    if s.toAll f && f.payload.length = 256 && byteAt f.payload 0 ≤ 1 then (s, { f with payload := s.sweepMark f.payload })
    else (s, f)))

/-! ### EVENT (R407) -/

/-- The acknowledged batch leaves the queue, and the next records form a batch. -/
def RingSt.handOver (r : RingSt) (ack : Nat) : RingSt :=
  let r : RingSt := if r.inBatch > 0 && ack = r.batch then { r with queue := r.queue.drop r.inBatch, inBatch := 0 } else r
  if r.inBatch = 0 && !r.queue.isEmpty then
    { r with batch := (r.batch + 1) % 65535, inBatch := min 7 r.queue.length }
  else r

def State.eventFrame (s : State) (f : Frame) : State × Frame :=
  let r := s.ring.handOver (leNat (f.payload.take 2))
  let recs := (r.queue.take r.inBatch).flatMap EvRec.bytes
  let p := putAt (putAt (putAt f.payload 2 (natLe 2 r.batch)) 4 (natLe 1 r.inBatch)) 8 recs
  ({ s with ring := r }, f.reply 0 p)

def execEvent (f : Frame) (s : State) : Out :=
  .next (s.pass 7 f (fun s =>
    if s.toMe f then (if f.payload.length = 232 then s.eventFrame f else (s, f.reply 7 f.payload)) else (s, f)))

/-- OTHER_TYPE_FRAME: ignored and forwarded. -/
def execOtherTypeFrame (type : Byte) (f : Frame) (s : State) : Out :=
  .next (if 1 ≤ type.toNat && type.toNat ≤ 7 then s else s.pass type f (fun s => (s, f)))

end Sys2Proof.Machine
end

