-- ==== Sys2Proof/Machine/Scalar.lean ====
section
/-! DEFINITION. Scalar instructions (06 R156 to R158): IALU, FALU, the S-I opcodes, MOVZ and MOVK. -/
namespace Sys2Proof.Machine

/-- 06 R157, Table 6.4. -/
def execIalu (i : Issue) (rd : Fin 32) (ra rb : Src) (fn : IaluFn) (s : State) : Out :=
  let z := Instr.ialu noIssue rd ra rb fn
  .next (s.issue i z (fun a => s.retireS a i z rd.val (rIalu a.src3 a.p.bank rd ra rb fn)))

/-- 06 R158, Table 6.5. -/
def execFalu (i : Issue) (rd : Fin 32) (ra rb : Src) (fn : FaluFn) (s : State) : Out :=
  let z := Instr.falu noIssue rd ra rb fn
  .next (s.issue i z (fun a => s.retireS a i z rd.val (rFalu a.src3 a.p.bank rd ra rb fn)))

/-- An S-I instruction: an IALU function with an immediate in place of RB. -/
def State.runImm (s : State) (i : Issue) (z : Instr) (fn : IaluFn) (rd : Fin 32) (ra : Src) (imm : W64) : State :=
  s.issue i z (fun a => s.retireS a i z rd.val (rImm a.src3 a.p.bank fn rd ra imm))

/-- 06 R157: ADDI. -/
def execAddi (i : Issue) (rd : Fin 32) (ra : Src) (imm : BitVec 12) (s : State) : Out :=
  .next (s.runImm i (.addi noIssue rd ra imm) .add rd ra (simm imm))

/-- 06 R157: ANDI. -/
def execAndi (i : Issue) (rd : Fin 32) (ra : Src) (imm : BitVec 12) (s : State) : Out :=
  .next (s.runImm i (.andi noIssue rd ra imm) .and rd ra (simm imm))

/-- 06 R157: ORI. -/
def execOri (i : Issue) (rd : Fin 32) (ra : Src) (imm : BitVec 12) (s : State) : Out :=
  .next (s.runImm i (.ori noIssue rd ra imm) .or rd ra (simm imm))

/-- 06 R157: XORI. -/
def execXori (i : Issue) (rd : Fin 32) (ra : Src) (imm : BitVec 12) (s : State) : Out :=
  .next (s.runImm i (.xori noIssue rd ra imm) .xor rd ra (simm imm))

/-- 06 R157: SHLI. -/
def execShli (i : Issue) (rd : Fin 32) (ra : Src) (sh : BitVec 6) (s : State) : Out :=
  .next (s.runImm i (.shli noIssue rd ra sh) .shl rd ra (sh.zeroExtend 64))

/-- 06 R157: SHRI. -/
def execShri (i : Issue) (rd : Fin 32) (ra : Src) (sh : BitVec 6) (s : State) : Out :=
  .next (s.runImm i (.shri noIssue rd ra sh) .shr rd ra (sh.zeroExtend 64))

/-- 06 R157: SRAI. -/
def execSrai (i : Issue) (rd : Fin 32) (ra : Src) (sh : BitVec 6) (s : State) : Out :=
  .next (s.runImm i (.srai noIssue rd ra sh) .sra rd ra (sh.zeroExtend 64))

/-- 06 R157: SLTI. -/
def execSlti (i : Issue) (rd : Fin 32) (ra : Src) (imm : BitVec 12) (s : State) : Out :=
  .next (s.runImm i (.slti noIssue rd ra imm) .slts rd ra (simm imm))

/-- 06 R156: MOVZ. -/
def execMovz (i : Issue) (rd : Fin 32) (hw : Fin 4) (imm : W16) (s : State) : Out :=
  let z := Instr.movz noIssue rd hw imm
  .next (s.issue i z (fun a => s.retireS a i z rd.val (rMovz a.p.bank rd hw imm)))

/-- 06 R156: MOVK. -/
def execMovk (i : Issue) (rd : Fin 32) (hw : Fin 4) (imm : W16) (s : State) : Out :=
  let z := Instr.movk noIssue rd hw imm
  .next (s.issue i z (fun a => s.retireS a i z rd.val (rMovk a.p.bank rd hw imm)))

end Sys2Proof.Machine
end

