-- ==== Sys2Proof/Machine/VectorOps.lean ====
section
/-! DEFINITION. Vector and predicate instructions (06 R162 to R166, Table 6.10; 11 R282). -/
namespace Sys2Proof.Machine

/-- 06 R162, Table 6.9. -/
def execVfalu (i : Issue) (vd va vb : Fin 32) (pred : Option (Fin 8)) (fn : VfaluFn) (s : State) : Out :=
  let z := Instr.vfalu noIssue vd va vb pred fn
  .next (s.issue i z (fun a => s.retireV a i z vd.val (rVfalu a.p.bank vd va vb pred fn)))

/-- 06 R162, Table 6.9. -/
def execVialu (i : Issue) (vd va vb : Fin 32) (pred : Option (Fin 8)) (fn : VialuFn) (s : State) : Out :=
  let z := Instr.vialu noIssue vd va vb pred fn
  .next (s.issue i z (fun a => s.retireV a i z vd.val (rVialu a.p.bank vd va vb pred fn)))

/-- 06 R162, Table 6.9: VCMP. -/
def execVcmp (i : Issue) (qd : Fin 8) (va vb : Fin 32) (pred : Option (Fin 8)) (fn : VcmpFn) (s : State) : Out :=
  let z := Instr.vcmp noIssue qd va vb pred fn
  .next (s.issue i z (fun a => s.retireQ a i z qd.val (rVcmp a.p.bank qd va vb pred fn)))

/-- 06 R162: VSEL. -/
def execVsel (i : Issue) (vd va vb : Fin 32) (q : Fin 8) (s : State) : Out :=
  let z := Instr.vsel noIssue vd va vb q
  .next (s.issue i z (fun a => s.retireV a i z vd.val (rVsel a.p.bank vd va vb q)))

/-- 06 Table 6.10: VBCAST. -/
def execVbcast (i : Issue) (vd : Fin 32) (ra : Src) (s : State) : Out :=
  let z := Instr.vbcast noIssue vd ra
  .next (s.issue i z (fun a => s.retireV a i z vd.val (rVbcast a.src3 a.p.bank vd ra)))

/-- 06 Table 6.10: VEXTR. -/
def execVextr (i : Issue) (sd va : Fin 32) (lane : Fin 512) (s : State) : Out :=
  let z := Instr.vextr noIssue sd va lane
  .next (s.issue i z (fun a => s.retireS a i z sd.val (rVextr a.p.bank sd va lane)))

/-- 06 Table 6.10: VIDX. -/
def execVidx (i : Issue) (vd : Fin 32) (s : State) : Out :=
  let z := Instr.vidx noIssue vd
  .next (s.issue i z (fun a => s.retireV a i z vd.val (rVidx a.p.bank vd)))

/-- 06 R163. -/
def execVred (i : Issue) (sd va : Fin 32) (pred : Option (Fin 8)) (fn : VredFn) (s : State) : Out :=
  let z := Instr.vred noIssue sd va pred fn
  .next (s.issue i z (fun a => s.retireS a i z sd.val (rVred a.p.bank sd va pred fn)))

/-- 06 R164: waits for the slot's token; RL drops it. -/
def execVld (i : Issue) (vd sa : Fin 32) (et : BitVec 4) (rl : Bool) (s : State) : Out :=
  let z := Instr.vld noIssue vd sa et rl
  .next (s.issue i z (fun a =>
    let n := bytesOf et.toNat laneCount
    match a.feedAddr (a.p.bank.sget sa.val) n with
    | none => s.faultAt a 0x17
    | some (at', slot) =>
      if !(s.mu a.u).tok slot then s
      else
        match s.feedRead a.u at' n with
        | (s, .ok, bs) =>
          let b := a.p.bank.vset vd.val ((elemsOf et.toNat laneCount bs).map (loadLane et.toNat))
          s.retire a i (tokenOf a.word 3 vd.val false (crc32c (lanesLe (b.vget vd.val)))) (a.after z) (fun s =>
            let s := s.modPair a.u (fun p => { p with bank := b })
            if rl then s.modMu a.u (fun m => m.setToks slot 1 false) else s)
        | (s, .sram d k idx sy, _) => s.sramAbort a.l d k idx sy
        | (s, _, _) => s))

/-- 06 R165: waits for the slot's token to be absent; MK sets it. -/
def execVst (i : Issue) (va sa vb : Fin 32) (et : BitVec 4) (rm : BitVec 2) (ovf mk : Bool) (s : State) : Out :=
  let z := Instr.vst noIssue va sa vb et rm ovf mk
  .next (s.issue i z (fun a =>
    let n := bytesOf et.toNat laneCount
    match a.feedAddr (a.p.bank.sget sa.val) n with
    | none => s.faultAt a 0x17
    | some (at', slot) =>
      if (s.mu a.u).tok slot then s
      else
        let xs := List.zipWith (fun x r => storeLane et.toNat rm.toNat ovf x r) (a.p.bank.vget va.val) (a.p.bank.vget vb.val)
        match s.feedPut a.u at' (packElems et.toNat xs) with
        | (_, .ok) =>
          s.retire a i (tokenOf a.word 5 slot false (Config.resolvedCrc (((zencode z).getD []).map (·.toNat) ++ [at'])))
            (a.after z) (fun s =>
              let s := (s.feedPut a.u at' (packElems et.toNat xs)).1
              if mk then s.modMu a.u (fun m => m.setToks slot 1 true) else s)
        | (s, .sram d k idx sy) => s.sramAbort a.l d k idx sy
        | (s, _) => s))

/-- 06 R166: one Chatter word per lane; reserved bits set are an operand fault. -/
def execVrand (i : Issue) (vd va sk sn : Fin 32) (w : Fin 4) (s : State) : Out :=
  let z := Instr.vrand noIssue vd va sk sn w
  .next (s.issue i z (fun a =>
    if !vrandOk (a.p.bank.sget sk.val) (a.p.bank.sget sn.val) then s.faultAt a 0x16
    else s.retireV a i z vd.val (rVrand a.src3 a.p.bank vd va sk sn w)))

/-- 11 R282: the next 32 bits of every lane's jump-mode state. -/
def execVrandj (i : Issue) (vd : Fin 32) (s : State) : Out :=
  let z := Instr.vrandj noIssue vd
  .next (s.issue i z (fun a =>
    let r := (a.c.jumpOf a.u).map Jump.draw
    let b := a.p.bank.vset vd.val (r.map (·.2))
    s.retire a i (tokenOf a.word 3 vd.val false (crc32c (lanesLe (b.vget vd.val)))) (a.after z) (fun s =>
      (s.modPair a.u (fun p => { p with bank := b })).modCtx a.x.ctx
        (fun c => { c with jump := c.jump.put a.u (r.map (·.1)) }))))

/-- 06 Table 6.10: QOP. -/
def execQop (i : Issue) (qd qa qb : Fin 8) (fn : QopFn) (s : State) : Out :=
  let z := Instr.qop noIssue qd qa qb fn
  .next (s.issue i z (fun a => s.retireQ a i z qd.val (rQop a.p.bank qd qa qb fn)))

end Sys2Proof.Machine
end

