-- ==== Sys2Proof/Machine/Dispatch.lean ====
section
/-! DEFINITION. What each command does: one arm per row of spec/opcode_table.json. -/
namespace Sys2Proof.Machine

open Sys2Proof

/-- The effect of a command on everything but the queue of waiting commands. -/
def exec (i : Instr) (s : State) : Host.Outcome State Fault Refusal :=
  match i with
  | .ialu iss rd ra rb fn => Sys2Proof.Machine.execIalu iss rd ra rb fn s
  | .falu iss rd ra rb fn => Sys2Proof.Machine.execFalu iss rd ra rb fn s
  | .addi iss rd ra imm => Sys2Proof.Machine.execAddi iss rd ra imm s
  | .andi iss rd ra imm => Sys2Proof.Machine.execAndi iss rd ra imm s
  | .ori iss rd ra imm => Sys2Proof.Machine.execOri iss rd ra imm s
  | .xori iss rd ra imm => Sys2Proof.Machine.execXori iss rd ra imm s
  | .shli iss rd ra sh => Sys2Proof.Machine.execShli iss rd ra sh s
  | .shri iss rd ra sh => Sys2Proof.Machine.execShri iss rd ra sh s
  | .srai iss rd ra sh => Sys2Proof.Machine.execSrai iss rd ra sh s
  | .slti iss rd ra imm => Sys2Proof.Machine.execSlti iss rd ra imm s
  | .movz iss rd hw imm => Sys2Proof.Machine.execMovz iss rd hw imm s
  | .movk iss rd hw imm => Sys2Proof.Machine.execMovk iss rd hw imm s
  | .br iss cond ra tgt => Sys2Proof.Machine.execBr iss cond ra tgt s
  | .loop iss sc bound off => Sys2Proof.Machine.execLoop iss sc bound off s
  | .endL iss => Sys2Proof.Machine.execEnd iss s
  | .part iss => Sys2Proof.Machine.execPart iss s
  | .signal iss kind so sv sc => Sys2Proof.Machine.execSignal iss kind so sv sc s
  | .waitfor iss kind so sv => Sys2Proof.Machine.execWaitfor iss kind so sv s
  | .ltld iss ln src => Sys2Proof.Machine.execLtld iss ln src s
  | .tstat iss sd sh clr => Sys2Proof.Machine.execTstat iss sd sh clr s
  | .vfalu iss vd va vb pred fn => Sys2Proof.Machine.execVfalu iss vd va vb pred fn s
  | .vialu iss vd va vb pred fn => Sys2Proof.Machine.execVialu iss vd va vb pred fn s
  | .vcmp iss qd va vb pred fn => Sys2Proof.Machine.execVcmp iss qd va vb pred fn s
  | .vsel iss vd va vb q => Sys2Proof.Machine.execVsel iss vd va vb q s
  | .vbcast iss vd ra => Sys2Proof.Machine.execVbcast iss vd ra s
  | .vextr iss sd va lane => Sys2Proof.Machine.execVextr iss sd va lane s
  | .vidx iss vd => Sys2Proof.Machine.execVidx iss vd s
  | .vred iss sd va pred fn => Sys2Proof.Machine.execVred iss sd va pred fn s
  | .vld iss vd sa et rl => Sys2Proof.Machine.execVld iss vd sa et rl s
  | .vst iss va sa vb et rm ovf mk => Sys2Proof.Machine.execVst iss va sa vb et rm ovf mk s
  | .vrand iss vd va sk sn w => Sys2Proof.Machine.execVrand iss vd va sk sn w s
  | .vrandj iss vd => Sys2Proof.Machine.execVrandj iss vd s
  | .qop iss qd qa qb fn => Sys2Proof.Machine.execQop iss qd qa qb fn s
  | .mpass iss f => Sys2Proof.Machine.execMpass iss f s
  | .mpreload iss ax slot rel => Sys2Proof.Machine.execMpreload iss ax slot rel s
  | .mdrain iss ax slot fent sd => Sys2Proof.Machine.execMdrain iss ax slot fent sd s
  | .tmove iss f => Sys2Proof.Machine.execTmove iss f s
  | .tgather iss hd hs hi axis sc => Sys2Proof.Machine.execTgather iss hd hs hi axis sc s
  | .tscatter iss hd hs hi axis sc sop => Sys2Proof.Machine.execTscatter iss hd hs hi axis sc sop s
  | .moveComplete m up => Sys2Proof.Machine.execMoveComplete m up s
  | .passIssue u => Sys2Proof.Machine.execPassIssue u s
  | .passBoundary u ups => Sys2Proof.Machine.execPassBoundary u ups s
  | .preloadFill u => Sys2Proof.Machine.execPreloadFill u s
  | .tileCheck u => Sys2Proof.Machine.execTileCheck u s
  | .finishingRun u upset => Sys2Proof.Machine.execFinishingRun u upset s
  | .roughingRun u upset => Sys2Proof.Machine.execRoughingRun u upset s
  | .closingPass u upset => Sys2Proof.Machine.execClosingPass u upset s
  | .sequencerSelfTest u passed => Sys2Proof.Machine.execSequencerSelfTest u passed s
  | .stallMonitor die block chan => Sys2Proof.Machine.execStallMonitor die block chan s
  | .dispatch d temps => Sys2Proof.Machine.execDispatch d temps s
  | .urgentPromotion l => Sys2Proof.Machine.execUrgentPromotion l s
  | .batchMemberArrival q member rows => Sys2Proof.Machine.execBatchMemberArrival q member rows s
  | .gatePulse rest reports => Sys2Proof.Machine.execGatePulse rest reports s
  | .ladderDescend => Sys2Proof.Machine.execLadderDescend s
  | .ladderWake why => Sys2Proof.Machine.execLadderWake why s
  | .scrubBurstWake => Sys2Proof.Machine.execScrubBurstWake s
  | .l4Exit stages => Sys2Proof.Machine.execL4Exit stages s
  | .itemStart q raw => Sys2Proof.Machine.execItemStart q raw s
  | .deadlineMiss q item => Sys2Proof.Machine.execDeadlineMiss q item s
  | .launch q h p => Sys2Proof.Machine.execLaunch q h p s
  | .replay q h list patch => Sys2Proof.Machine.execReplay q h list patch s
  | .listBegin q h => Sys2Proof.Machine.execListBegin q h s
  | .listEnd q h => Sys2Proof.Machine.execListEnd q h s
  | .spindleRun q h rec => Sys2Proof.Machine.execSpindleRun q h rec s
  | .spindleRow d => Sys2Proof.Machine.execSpindleRow d s
  | .nop q h => Sys2Proof.Machine.execNop q h s
  | .descCreate q h image => Sys2Proof.Machine.execDescCreate q h image s
  | .descDestroy q h d => Sys2Proof.Machine.execDescDestroy q h d s
  | .descStatus q h d clear => Sys2Proof.Machine.execDescStatus q h d clear s
  | .load q h im => Sys2Proof.Machine.execLoad q h im s
  | .unload q h p => Sys2Proof.Machine.execUnload q h p s
  | .kvOpen q h p => Sys2Proof.Machine.execKvOpen q h p s
  | .kvExtend q h r oldlen newlen entries repl => Sys2Proof.Machine.execKvExtend q h r oldlen newlen entries repl s
  | .kvMatch q h r tokens count => Sys2Proof.Machine.execKvMatch q h r tokens count s
  | .kvPublish q h r tokens => Sys2Proof.Machine.execKvPublish q h r tokens s
  | .kvClose q h r => Sys2Proof.Machine.execKvClose q h r s
  | .kvRelease r => Sys2Proof.Machine.execKvRelease r s
  | .skimBegin q h base adj => Sys2Proof.Machine.execSkimBegin q h base adj s
  | .skimRec q h image => Sys2Proof.Machine.execSkimRec q h image s
  | .skimStep q h slot => Sys2Proof.Machine.execSkimStep q h slot s
  | .skimQuery q h r => Sys2Proof.Machine.execSkimQuery q h r s
  | .skimEnd q h slot => Sys2Proof.Machine.execSkimEnd q h slot s
  | .rngSeed q h slot value rsv => Sys2Proof.Machine.execRngSeed q h slot value rsv s
  | .rngJump q h slot stream mask rsv => Sys2Proof.Machine.execRngJump q h slot stream mask rsv s
  | .ctxCreate q h fsr slices => Sys2Proof.Machine.execCtxCreate q h fsr slices s
  | .ctxDestroy q h c => Sys2Proof.Machine.execCtxDestroy q h c s
  | .ctxSave q h c alloc => Sys2Proof.Machine.execCtxSave q h c alloc s
  | .ctxRestore q h alloc allocCtx => Sys2Proof.Machine.execCtxRestore q h alloc allocCtx s
  | .ctxDisable q h c fence value => Sys2Proof.Machine.execCtxDisable q h c fence value s
  | .qCreate q h c a t => Sys2Proof.Machine.execQCreate q h c a t s
  | .qSet q h target a clearHalt => Sys2Proof.Machine.execQSet q h target a clearHalt s
  | .qDisable q h target fence value => Sys2Proof.Machine.execQDisable q h target fence value s
  | .qDestroy q h target => Sys2Proof.Machine.execQDestroy q h target s
  | .memAlloc q h c va size page kind wr => Sys2Proof.Machine.execMemAlloc q h c va size page kind wr s
  | .memFree q h c alloc => Sys2Proof.Machine.execMemFree q h c alloc s
  | .semCreate q h v => Sys2Proof.Machine.execSemCreate q h v s
  | .semDestroy q h k => Sys2Proof.Machine.execSemDestroy q h k s
  | .disableComplete n => Sys2Proof.Machine.execDisableComplete n s
  | .disableTimeout n => Sys2Proof.Machine.execDisableTimeout n s
  | .codecOpen q h rec pool => Sys2Proof.Machine.execCodecOpen q h rec pool s
  | .codecFrame q h p => Sys2Proof.Machine.execCodecFrame q h p s
  | .codecRelease q h sid mask => Sys2Proof.Machine.execCodecRelease q h sid mask s
  | .codecClose q h sid => Sys2Proof.Machine.execCodecClose q h sid s
  | .frameSchedule e => Sys2Proof.Machine.execFrameSchedule e s
  | .frameEnd e => Sys2Proof.Machine.execFrameEnd e s
  | .decodeTimeBound e rows => Sys2Proof.Machine.execDecodeTimeBound e rows s
  | .doorbell port off len val => Sys2Proof.Machine.execDoorbell port off len val s
  | .interruptDelay q => Sys2Proof.Machine.execInterruptDelay q s
  | .hostMemRead port hpa => Sys2Proof.Machine.execHostMemRead port hpa s
  | .hostMemWrite port hpa data => Sys2Proof.Machine.execHostMemWrite port hpa data s
  | .snoop port addr => Sys2Proof.Machine.execSnoop port addr s
  | .hdmDecoderCommit port n base size skip ways => Sys2Proof.Machine.execHdmDecoderCommit port n base size skip ways s
  | .dictRead port a => Sys2Proof.Machine.execDictRead port a s
  | .dictWrite port a => Sys2Proof.Machine.execDictWrite port a s
  | .dictWriteAuth port a => Sys2Proof.Machine.execDictWriteAuth port a s
  | .control port a => Sys2Proof.Machine.execControl port a s
  | .adminSetup port t => Sys2Proof.Machine.execAdminSetup port t s
  | .eventSetup port base log2n ptr vec => Sys2Proof.Machine.execEventSetup port base log2n ptr vec s
  | .biasSet port first count toHost => Sys2Proof.Machine.execBiasSet port first count toHost s
  | .portQuiesce port => Sys2Proof.Machine.execPortQuiesce port s
  | .surpriseLoss port why => Sys2Proof.Machine.execSurpriseLoss port why s
  | .recoveryTimeout port => Sys2Proof.Machine.execRecoveryTimeout port s
  | .hotReset port => Sys2Proof.Machine.execHotReset port s
  | .functionLevelReset port => Sys2Proof.Machine.execFunctionLevelReset port s
  | .getIdentity port => Sys2Proof.Machine.execGetIdentity port s
  | .attest port nonce => Sys2Proof.Machine.execAttest port nonce s
  | .sessionOpen port ctrl ct nonce => Sys2Proof.Machine.execSessionOpen port ctrl ct nonce s
  | .sessionFinish port mac => Sys2Proof.Machine.execSessionFinish port mac s
  | .secured port seq ct tag => Sys2Proof.Machine.execSecured port seq ct tag s
  | .sessionClose port => Sys2Proof.Machine.execSessionClose port s
  | .enum f => Sys2Proof.Machine.execEnum f s
  | .cycle f => Sys2Proof.Machine.execCycle f s
  | .cycleTimeout => Sys2Proof.Machine.execCycleTimeout s
  | .read f => Sys2Proof.Machine.execRead f s
  | .write f => Sys2Proof.Machine.execWrite f s
  | .writeAuth f => Sys2Proof.Machine.execWriteAuth f s
  | .sweep f => Sys2Proof.Machine.execSweep f s
  | .event f => Sys2Proof.Machine.execEvent f s
  | .objectWrite => Sys2Proof.Machine.execObjectWrite s
  | .claim => Sys2Proof.Machine.execClaim s
  | .releaseTo => Sys2Proof.Machine.execReleaseTo s
  | .heartbeat => Sys2Proof.Machine.execHeartbeat s
  | .activate => Sys2Proof.Machine.execActivate s
  | .stageClear => Sys2Proof.Machine.execStageClear s
  | .activationDone => Sys2Proof.Machine.execActivationDone s
  | .sliceMaskChange d => Sys2Proof.Machine.execSliceMaskChange d s
  | .leaseExpiry => Sys2Proof.Machine.execLeaseExpiry s
  | .claimLapse c => Sys2Proof.Machine.execClaimLapse c s
  | .lockoutExpiry c => Sys2Proof.Machine.execLockoutExpiry c s
  | .preferredOwnerWindowEnd => Sys2Proof.Machine.execPreferredOwnerWindowEnd s
  | .dictionaryWrite c a => Sys2Proof.Machine.execDictionaryWrite c a s
  | .firmwareUpdateWrite c => Sys2Proof.Machine.execFirmwareUpdateWrite c s
  | .firmwareUpdateVerify c => Sys2Proof.Machine.execFirmwareUpdateVerify c s
  | .updateComplete flashOk => Sys2Proof.Machine.execUpdateComplete flashOk s
  | .moduleResetRequest c => Sys2Proof.Machine.execModuleResetRequest c s
  | .moduleReset => Sys2Proof.Machine.execModuleReset s
  | .logClear c => Sys2Proof.Machine.execLogClear c s
  | .ladderRequest c => Sys2Proof.Machine.execLadderRequest c s
  | .ownerKeyEnrolment c pkg => Sys2Proof.Machine.execOwnerKeyEnrolment c pkg s
  | .commandKeyEnrolment c pkg => Sys2Proof.Machine.execCommandKeyEnrolment c pkg s
  | .attestationNonce c nonce => Sys2Proof.Machine.execAttestationNonce c nonce s
  | .bringUpMode c mode => Sys2Proof.Machine.execBringUpMode c mode s
  | .memorySelfTest c stack arg => Sys2Proof.Machine.execMemorySelfTest c stack arg s
  | .softRepair c stack arg => Sys2Proof.Machine.execSoftRepair c stack arg s
  | .hardRepair c stack arg => Sys2Proof.Machine.execHardRepair c stack arg s
  | .fullTraining c stack arg => Sys2Proof.Machine.execFullTraining c stack arg s
  | .stackActionDone outcome count entries => Sys2Proof.Machine.execStackActionDone outcome count entries s
  | .proposedRepairWrite c u word => Sys2Proof.Machine.execProposedRepairWrite c u word s
  | .marginSweep c arg points held => Sys2Proof.Machine.execMarginSweep c arg points held s
  | .buildBundle c => Sys2Proof.Machine.execBuildBundle c s
  | .coldStart r => Sys2Proof.Machine.execColdStart r s
  | .trialBankTimeout => Sys2Proof.Machine.execTrialBankTimeout s
  | .inputLoss => Sys2Proof.Machine.execInputLoss s
  | .watchdogExpiry => Sys2Proof.Machine.execWatchdogExpiry s
  | .watchdogRestart => Sys2Proof.Machine.execWatchdogRestart s
  | .moduleStop die block cause => Sys2Proof.Machine.execModuleStop die block cause s
  | .hbmPatrolRead stack sev => Sys2Proof.Machine.execHbmPatrolRead stack sev s
  | .sramScrubRead die block word mask raced => Sys2Proof.Machine.execSramScrubRead die block word mask raced s
  | .bankRefresh stack pc => Sys2Proof.Machine.execBankRefresh stack pc s
  | .stackTemperatureRead stack temp => Sys2Proof.Machine.execStackTemperatureRead stack temp s
  | .writeBatch stack pc => Sys2Proof.Machine.execWriteBatch stack pc s
  | .correctionRateSecond die => Sys2Proof.Machine.execCorrectionRateSecond die s
  | .linkUp port width rate cxl => Sys2Proof.Machine.execLinkUp port width rate cxl s
  | .plannedLinkDown port => Sys2Proof.Machine.execPlannedLinkDown port s
  | .environmentalReading r => Sys2Proof.Machine.execEnvironmentalReading r s
  | .bundleBuilt flashOk => Sys2Proof.Machine.execBundleBuilt flashOk s
  | .otherTypeFrame type f => Sys2Proof.Machine.execOtherTypeFrame type f s

end Sys2Proof.Machine
end

