-- ==== Sys2Proof/Safety.lean ====
section
/-! DEFINITION. What counts as a safe run, in the terms the statements use: an outcome that goes on, memories in canonical
form, and the bounds the manual gives queues, addresses and numbers. -/
namespace Sys2Proof.Machine

/-- The step went on. -/
def goesOn (o : Out) : Prop := ∃ t, o = .next t

/-- Device memory and every feed store are in canonical form (log 7). -/
def State.memOk (s : State) : Bool := s.mem.wf && s.mus.all (fun e => e.2.feed.wf)

/-- 17 R404, Table 17.3: a node's address. -/
def State.addrOk (s : State) : Bool := s.ring.addr ≤ 250

/-- 17 R397: the owner is one of the nine controllers. -/
def State.ownerOk (s : State) : Bool :=
  match s.own.owner with
  | some c => c ≤ 8
  | none => true

/-- 17 R416 and R407, 18 Table 18.6: queues within their sizes. -/
def State.queuesOk (s : State) : Bool :=
  s.sec.queue.length ≤ 16 && s.ring.queue.length ≤ 512 && s.log.entries.length ≤ 1024

/-- 20 R439: the log holds its newest entries under rising numbers. -/
def FLog.ordered : List EvRec → Nat → Bool
  | [], _ => true
  | e :: es, n => n ≤ e.seq && FLog.ordered es (e.seq + 1)

/-! ### What a shared operation may change: all other fields are equal -/

/-- What an access leaves behind that stores nothing: tags, marks and queues of memory, SRAM counters, free values. -/
def Touches (s t : State) : Prop :=
  ∃ hbm wq caches dies fresh,
    t = { s with hbm := hbm, wq := wq, caches := caches, dies := dies, fresh := fresh }

/-- An access through the module: what one that stores nothing leaves behind, memory, and messages sent. -/
def Reaches (s t : State) : Prop :=
  ∃ mem hbm wq caches dies fresh ms,
    t = { s with mem := mem, hbm := hbm, wq := wq, caches := caches, dies := dies, fresh := fresh, out := s.out ++ ms }

/-- The end of an item of queue q: what an access may change, that queue, the synchronisation objects, the governor's
history and idle time, and which list replays. -/
def Ends (q : Nat) (s t : State) : Prop :=
  ∃ mem hbm wq caches dies fresh ms queues sems hist idle lists,
    (∀ p, p ≠ q → queues.find p = s.queues.find p) ∧
    t = { s with mem := mem, hbm := hbm, wq := wq, caches := caches, dies := dies, fresh := fresh, out := s.out ++ ms,
                 queues := queues, sems := sems, gov := { s.gov with hist := hist, idleSince := idle }, lists := lists }

/-- An event record: the log, the ring's event queue, the ports' event rings, messages sent. -/
def Records (s t : State) : Prop :=
  ∃ log ring ports ms, t = { s with log := log, ring := ring, ports := ports, out := s.out ++ ms }

/-! ### An instruction of a pair -/

/-- 05 R132: an instruction issues at a site: its pair stands at it, no register it names is pending, and its word of the
instruction store holds no detected error. -/
def State.issues (s : State) (i : Issue) (z : Instr) (a : Site) : Prop :=
  s.site i z = some a ∧ (sUses z).any a.p.pend.contains = false ∧
    (s.sramRead a.die (a.u % 16) (istoreBase + a.word) (istoreBase + a.word)).2 = none

/-- What t holds of the pair and the launch after an instruction of s at a that left the pair in p: one more instruction of
the launch; every other pair and launch as it was. -/
def State.leavesPair (s t : State) (a : Site) (p : Pair) : Prop :=
  t.pairs.find a.u = some p ∧
  t.launches.find a.l = some { a.x with icount := a.x.icount + 1 } ∧
  (∀ u, u ≠ a.u → t.pairs.find u = s.pairs.find u) ∧
  (∀ l, l ≠ a.l → t.launches.find l = s.launches.find l)

/-- 05 R128: the instruction has retired: its token, the word the pair stands at, the registers. -/
def State.retired (s t : State) (a : Site) (tok : W64) (next : Nat) (b : Bank) : Prop :=
  s.leavesPair t a { a.p with pc := next, token := tok, parted := false, wait := none, bank := b }

/-- Nothing but pairs and launches differs. -/
def State.pairsOnly (s t : State) : Prop := t = { s with pairs := t.pairs, launches := t.launches }

/-- What a one-word instruction that writes the s register n leaves. -/
def State.leavesS (s t : State) (a : Site) (n : Nat) (v : W64) : Prop :=
  s.pairsOnly t ∧
  s.retired t a (tokenOf a.word 1 n false (crc32c (natLe 8 v.toNat))) (a.p.pc + 1) (a.p.bank.sset n v)

/-- What a one-word instruction that writes the v register n leaves. -/
def State.leavesV (s t : State) (a : Site) (n : Nat) (v : Lanes) : Prop :=
  s.pairsOnly t ∧
  s.retired t a (tokenOf a.word 3 n false (crc32c (lanesLe v))) (a.p.pc + 1) (a.p.bank.vset n v)

/-- What a one-word instruction that writes the q register n leaves. -/
def State.leavesQ (s t : State) (a : Site) (n : Nat) (v : List Bool) : Prop :=
  s.pairsOnly t ∧
  s.retired t a (tokenOf a.word 2 n false (crc32c (boolsLe v))) (a.p.pc + 1) (a.p.bank.qset n v)

/-- 06 R157 and Table 6.4 as numbers: the value of RD. -/
def ialuRule (fn : IaluFn) (a b : W64) : W64 :=
  let no (p : Prop) [Decidable p] : W64 := if p then 1 else 0
  let sh := b.toNat % 64
  match fn with
  | .add => BitVec.ofInt 64 (a.toInt + b.toInt)
  | .sub => BitVec.ofInt 64 (a.toInt - b.toInt)
  | .mul => BitVec.ofInt 64 (a.toInt * b.toInt)
  | .mulhs => BitVec.ofInt 64 ((a.toInt * b.toInt).fdiv (2 ^ 64))
  | .mulhu => BitVec.ofNat 64 (a.toNat * b.toNat / 2 ^ 64)
  | .divs => if b = 0 then 0 else BitVec.ofInt 64 (a.toInt.tdiv b.toInt)
  | .divu => if b = 0 then 0 else BitVec.ofNat 64 (a.toNat / b.toNat)
  | .rems => if b = 0 then a else BitVec.ofInt 64 (a.toInt.tmod b.toInt)
  | .remu => if b = 0 then a else BitVec.ofNat 64 (a.toNat % b.toNat)
  | .and => a &&& b
  | .or => a ||| b
  | .xor => a ^^^ b
  | .shl => BitVec.ofNat 64 (a.toNat * 2 ^ sh)
  | .shr => BitVec.ofNat 64 (a.toNat / 2 ^ sh)
  | .sra => BitVec.ofInt 64 (a.toInt.fdiv (2 ^ sh))
  | .mins => if a.toInt ≤ b.toInt then a else b
  | .maxs => if a.toInt ≤ b.toInt then b else a
  | .minu => if a.toNat ≤ b.toNat then a else b
  | .maxu => if a.toNat ≤ b.toNat then b else a
  | .seq => no (a.toNat = b.toNat)
  | .sne => no (a.toNat ≠ b.toNat)
  | .slts => no (a.toInt < b.toInt)
  | .sltu => no (a.toNat < b.toNat)
  | .sles => no (a.toInt ≤ b.toInt)
  | .sleu => no (a.toNat ≤ b.toNat)

/-! ### FP32 as numbers (02 R43, R59, R65) -/

/-- The exponent field and the fraction field. -/
def exp32 (w : W32) : Nat := w.toNat / 2 ^ 23 % 256
def frac32 (w : W32) : Nat := w.toNat % 2 ^ 23

def neg32 (w : W32) : Prop := 2 ^ 31 ≤ w.toNat
def nan32 (w : W32) : Prop := exp32 w = 255 ∧ frac32 w ≠ 0
def inf32 (w : W32) : Prop := exp32 w = 255 ∧ frac32 w = 0
def fin32 (w : W32) : Prop := exp32 w ≠ 255

/-- The value of a finite FP32 in units of 2^-149. -/
def num32 (w : W32) : Int :=
  let u : Nat := if exp32 w = 0 then frac32 w else (2 ^ 23 + frac32 w) * 2 ^ (exp32 w - 1)
  if 2 ^ 31 ≤ w.toNat then -(u : Int) else u

/-- A number's place in the order, the infinities beyond all others. -/
def ord32 (w : W32) : Int :=
  if exp32 w = 255 then (if 2 ^ 31 ≤ w.toNat then -(2 ^ 300) else 2 ^ 300) else num32 w

/-- R59: r is n / d units of 2^-149, rounded to nearest, ties to even: a finite r lies no farther from it than any other finite
FP32, and is even where another lies as near; r is infinite from half a unit beyond the largest finite FP32 on; it has the sign
of n. -/
def nearest32 (n : Int) (d : Nat) (r : W32) : Prop :=
  ¬ nan32 r ∧ (fin32 r ↔ n.natAbs < (2 ^ 25 - 1) * 2 ^ 252 * d) ∧ (n ≠ 0 → (neg32 r ↔ n < 0)) ∧
  (fin32 r → ∀ w, fin32 w →
    (num32 r * d - n).natAbs ≤ (num32 w * d - n).natAbs ∧
    ((num32 r * d - n).natAbs = (num32 w * d - n).natAbs → num32 w ≠ num32 r → r.toNat % 2 = 0))

/-! ### An item alone in its queue -/

/-- 13 R320, R324, R501, 16 R386: queue q is ready to take and start at once an item of this header and body: it is enabled,
holds no other item, waits for no record, records no list (but for a LIST-END); the ring holds the item; the header is accepted, its wait (if any)
is met without failure and its deadline (if any) has not passed. -/
def State.lone (s : State) (q : Nat) (h : Header) (b : ItemBody) (qu : Queue) : Prop :=
  s.queues.find q = some qu ∧ s.runs = true ∧ qu.holdsItem h = true ∧ qu.items = [] ∧ qu.halted = false ∧
  qu.disabled = false ∧ qu.waitRecs = [] ∧ (qu.recording = none ∨ b = .listEnd) ∧ s.headerCode qu h b = 0 ∧
  (h.wv = true → ∀ m, s.sems.find h.wsem = some m → h.wval ≤ m.value ∧ (h.wf = true → m.failed < h.wval)) ∧
  (h.dline = 0 ∨ s.clock.refc < h.dline)

/-- The item of a lone start. -/
def State.loneItem (s : State) (h : Header) (b : ItemBody) (qu : Queue) : QItem :=
  { id := s.nextItem, hdr := h, body := b, st := .started, startedAt := s.clock.refc, attrs := some qu.attrs }

/-- The state in which the effect of a lone item begins: it is the queue's one item and has started; its number is taken;
the ring's head has moved past it; the module is not idle. -/
def State.begun (s : State) (q : Nat) (h : Header) (b : ItemBody) (qu : Queue) : State :=
  { s with
    nextItem := s.nextItem + 1
    gov := { s.gov with idleSince := none }
    queues := s.queues.put q { qu with
      items := [s.loneItem h b qu], head := (qu.head + headerUnits h) % 2 ^ (qu.tr.sqlog - 6) } }

/-- The device bytes that a write of n bytes at a virtual address of a context stores to. -/
def Ctx.stores (c : Ctx) (va n a : Nat) : Prop :=
  ∃ p ∈ spans va n, ∃ b w, c.walk p.1 = some (.dev b, w) ∧ b ≤ a ∧ a < b + p.2

/-- 16 Table 16.5: the device bytes that a completion record of a queue and its pointer word go to: none for an admin queue,
whose rings are in host memory. -/
def State.recordStores (s : State) (qu : Queue) (a : Nat) : Prop :=
  ∃ c cx, qu.ctx = some c ∧ s.ctxs.find c = some cx ∧
    (cx.stores (qu.tr.cqbase + 16 * (qu.written % 2 ^ qu.tr.cqlog)) 16 a ∨ cx.stores qu.tr.ptrs 8 a)

/-- 13 R321 to R323, 16 R387: the lone item of queue q has ended with a status, a code and a value, and t differs from u, the
state with the item's own effect, in what its end does: the queue is empty of items (and halted by FPOL 1 where the item
failed), its record is the next message where the ring has room, its signal is raised, and no byte of memory differs but the
record's and the pointer word's. -/
def State.itemEnded (u t : State) (q : Nat) (h : Header) (qu : Queue) (st code : Nat) (v : W64) : Prop :=
  Ends q u t ∧
  (∃ x, t.queues.find q = some x ∧ x.items = [] ∧ x.attrs = qu.attrs ∧
    x.halted = ((st == 2 || st == 3 || st == 6 || st == 8) && qu.attrs.fpol == 1)) ∧
  (qu.roomy = true → ∃ ms, t.out = u.out ++ .completion q h.tag st code v :: ms) ∧
  (∀ k, (h.sv = true → k ≠ h.ssem) → t.sems.find k = u.sems.find k) ∧
  (h.sv = true → t.sems.find h.ssem = (u.sems.find h.ssem).map (fun k =>
    if k.part = qu.part then k.raise h.sval (!completed st) else k)) ∧
  (∀ a, ¬ u.recordStores qu a → t.mem.get a = u.mem.get a)

/-- The state with the number of one more item taken. -/
def State.took (s : State) : State := { s with nextItem := s.nextItem + 1 }

/-! ### Matrix and move operations -/

/-- 06 R135, R168: the pair after an instruction of `len` words that leaves its completion register pending. -/
def Site.pends (a : Site) (len : Nat) (sc : Nat) : Pair :=
  { a.p with pc := a.p.pc + len, parted := false, wait := none, pend := sc :: a.p.pend }

/-- 04 R126, R502, 06 R135: a move operation has been issued to a tensor move unit in service, with the scales its
destination holds now and the difference of its two tokens. -/
def State.startsMove (s t : State) (a : Site) (i : Issue) (len sc : Nat) (k : MoveKind) (seed : BitVec 96) : Prop :=
  ∃ tok tmu, tmu < 8 ∧ (s.die a.die).tmuOut.contains tmu = false ∧ s.leavesPair t a (a.pends len sc) ∧
    t = { s with
      pairs := t.pairs, launches := t.launches, nextMove := s.nextMove + 1
      moves := s.moves.put s.nextMove
        { unit := a.u, tmu, launch := a.l, ino := a.x.icount, iaddr := a.iaddr, sc, kind := k, seed, tok, upset := i.upset
          scales := s.scalesNow a.c k } }

/-- A tensor move unit of the die is in service, and the unit has fewer than eight moves outstanding (04 R126). -/
def State.moveRoom (s : State) (a : Site) : Prop :=
  s.outstanding a.u < 8 ∧ ∃ k, k < 8 ∧ (s.die a.die).tmuOut.contains k = false

/-- 07 R180: the registers a stage latches are present, and its handles and origins pass their checks. -/
def Site.stageReady (a : Site) (e : StageE) : Prop :=
  (∀ r ∈ e.sRegs, a.p.pend.contains r = false) ∧ (a.latch e).orgm.toNat < 2 ^ 31 ∧ (a.latch e).orgn.toNat < 2 ^ 31 ∧
    (e.push = true → (a.latch e).dst < 2 ^ 16) ∧ (a.latch e).recH < 2 ^ 16 ∧
    a.c.stageHandlesOk e (a.latch e).dst (a.latch e).recH = true

/-- Only the matrix unit u differs among the units. -/
def State.onlyUnit (s t : State) (u : Nat) : Prop := ∀ v, v ≠ u → t.mus.find v = s.mus.find v

/-- The launch runs on its pair: it is neither ending nor done, and completions reach the pair. -/
def State.runsOn (s : State) (l u : Nat) : Prop :=
  (s.pair u).launch = some l ∧ ∀ x, s.launches.find l = some x → x.st = .running u

/-- 06 R135, Table 6.18: the completion register sd of unit u has become present with a value. -/
def State.completed (s t : State) (u sd code count : Nat) : Prop :=
  t.pair u = { s.pair u with
    bank := (s.pair u).bank.sset sd (BitVec.ofNat 64 (code * 2 ^ 60 + count % 2 ^ 48))
    pend := (s.pair u).pend.filter (· != sd) } ∧
  ∀ v, v ≠ u → t.pair v = s.pair v

/-! ### Stage runs -/

/-- The descriptor a stage pushes to, if it pushes. -/
def Tile.pushTo (tl : Tile) (c : Ctx) (e : StageE) : Option DescF :=
  if e.push then (c.descs.find tl.drain.latch.dst).map (fun d => descOf d.image) else none

/-- 07 Table 7.3: the head of a unit's finishing queue, whose stage e keeps no row record, goes on from where its run stands;
`q` is how its strips end and s3 the state they leave. -/
def State.stageRan (s : State) (u : Nat) (tl : Tile) (x : Launch) (c : Ctx) (g : Program) (e : StageE) (q : StripR) (s3 : State) :
    Prop :=
  (s.mu u).fin.head? = some tl ∧ (s.mu u).closing = none ∧ s.tileSite tl = some (x, c, g) ∧
  imgStage g.image tl.drain.fent = some e ∧ e.stat = 0 ∧
  s.finStrips u x.ctx c (tl.env u c g) (tl.finTile e) (tl.pushTo c e) ((e.body ((zprog g.image.code).getD [])).getD [])
    ((s.mu u).stage.begin tl.drain.latch) = (s3, q)

/-! ### Events of the governor -/

/-- 14 Table 14.2: the thermal factor and the hold after a report, from the factor before it. -/
def thermalRule (th hot : Int) (f : Nat) : Nat × Bool :=
  if 800 < hot then (16, true)
  else if hot ≤ th - 16 then (min (f + 1) 64, false)
  else if hot ≤ th then (f, false)
  else (max (f - 4) 16, false)

/-! ### What an item leaves -/

/-- A lone item of a queue of context n. -/
def State.loneIn (s : State) (q : Nat) (h : Header) (b : ItemBody) (qu : Queue) (n : Nat) (c : Ctx) : Prop :=
  s.lone q h b qu ∧ qu.ctx = some n ∧ s.ctxs.find n = some c

/-- A lone item of an admin queue. -/
def State.loneAdmin (s : State) (q : Nat) (h : Header) (b : ItemBody) (qu : Queue) : Prop := s.lone q h b qu ∧ qu.ctx = none

/-- The item's command answers a next state in which the item has ended, and which differs from u, the state with the item's own
effect, only in what that end does. -/
def State.itemRuns (s : State) (i : Instr) (u : State) (q : Nat) (h : Header) (qu : Queue) (st code : Nat) (v : W64) : Prop :=
  ∃ t, exec i s = .next t ∧ u.itemEnded t q h qu st code v

/-- The item's command starts it, and it waits: it is the queue's one item, and nothing else has changed. -/
def State.itemWaits (s : State) (i : Instr) (q : Nat) (h : Header) (b : ItemBody) (qu : Queue) : Prop :=
  exec i s = .next (s.begun q h b qu)

/-- A context's descriptors without the destroyed ones that nothing references any longer (04 R114). -/
def State.keptDescs (s : State) (n : Nat) (c : Ctx) : Tab Desc := c.descs.filter (fun e => !e.2.dead || s.descHeld n e.1)

/-- A context's skim records without the dead ones that no pass names. -/
def State.keptSkims (s : State) (n : Nat) (c : Ctx) : Tab SkimRec := c.skims.filter (fun e => !e.2.dead || s.skimHeld n e.1)


/-! ### Ownership and authenticated commands -/

/-- 17 R418, R421: nothing of ownership is due: no claim lapses, no lease has run out, no window ends. -/
def State.settled (s : State) : Prop :=
  (∀ e ∈ s.own.claims, e.2.lapsed s.now = false) ∧ s.leaseOver = false ∧ s.windowOver = false

/-- 17 R413, R416: the command at the head of the queue is q, of a kind, and time is settled. -/
def State.heads (s : State) (kind : Nat) (q : QueuedCmd) (qs : List QueuedCmd) : Prop :=
  s.runs = true ∧ s.sec.queue = q :: qs ∧ q.cmd.kind = kind ∧ s.settled

/-- 17 R413: the command at the head is to execute: its controller is not locked out, its check is right, its counter is above L,
and no reserved field of it is set. -/
def State.executes (s : State) (kind : Nat) (q : QueuedCmd) (qs : List QueuedCmd) : Prop :=
  s.heads kind q qs ∧ s.lockedOut q.path = false ∧ s.checkOk q = true ∧ (s.ctlOf q.path).l < q.cmd.counter ∧ q.cmd.rsv = 0

/-- The state without the command at the head. -/
def State.dequeued (s : State) (qs : List QueuedCmd) : State := { s with sec := { s.sec with queue := qs } }

/-- 17 R413 step 6, R414, R416: command q has been handled with result r: t differs from u, the state with its effect, in the
controller's record, in an event record where r is above 1, and in the answer. -/
def State.answered (u t : State) (q : QueuedCmd) (r : Nat) : Prop :=
  let k := t.ctlOf q.path
  Records { u with sec := { u.sec with ctl := t.sec.ctl } } t ∧
  (∀ c, c ≠ q.path → t.ctlOf c = u.ctlOf c) ∧
  k.key = (u.ctlOf q.path).key ∧ k.result = BitVec.ofNat 64 (r * 2 ^ 56 + q.cmd.counter.toNat % 2 ^ 56) ∧
  (r ≤ 1 → t.log = u.log ∧ k.l = q.cmd.counter ∧ k.check = q.cmd.check ∧ k.lastStatus = r ∧ k.notExec = (u.ctlOf q.path).notExec ∧
    k.h.toNat = if q.cmd.counter ≤ (u.ctlOf q.path).h then (u.ctlOf q.path).h.toNat
      else min (q.cmd.counter.toNat + 65536) (2 ^ 64 - 1)) ∧
  (1 < r → k.l = (u.ctlOf q.path).l ∧ k.h = (u.ctlOf q.path).h ∧ k.notExec = min ((u.ctlOf q.path).notExec + 1) (2 ^ 32 - 1) ∧
    ∃ x, t.log = u.log.enter x ∧ x.cause = 0x50 ∧
      x.detail = BitVec.ofNat 64 (r * 2 ^ 56 + q.path * 2 ^ 48 + q.cmd.counter.toNat % 2 ^ 48)) ∧
  (0 < q.path → q.sess = false → ∃ ms, t.out = u.out ++ ms ++ [.mailbox (q.path - 1) (retOf r) (natLe 1 r)])

/-- The command i answers a next state in which q has been handled with result r, and which differs from u in that only. -/
def State.authRuns (s : State) (i : Instr) (u : State) (q : QueuedCmd) (r : Nat) : Prop :=
  ∃ t, exec i s = .next t ∧ u.answered t q r

/-- Objects whose change does more than take a value (Table 17.13 order 4): port and IDE policy, die, engine, slice mask. -/
def actingKey (k : Nat) : Bool := [0x4035, 0x4036, 0x5010, 0x6020, 0x7010].contains (keyIdx k)

/-! ### Object writes of one controller -/

/-- 17 Table 17.8: the owner of a running module writes, and time is settled. -/
def State.ownerWrites (s : State) (c : Nat) : Prop := s.runs = true ∧ s.settled ∧ s.own.owner = some c

/-- 18 R441: bring-up mode is set and no action, sweep or build runs. -/
def State.bringUpFree (s : State) : Prop := s.start.bringUp = 1 ∧ s.bringBusy = false

/-! ### Links -/

/-- 16 Table 16.7 orders 1 and 2: port p has lost its link; `stays` where a reset keeps it trained. -/
def State.unlinked (s : State) (p : Nat) (stays : Bool) : State :=
  let x := s.port p
  { s with
    gov := if x.state = 4 ∧ 1 < s.gov.ladder then { s.gov with ladder := 1, idleSince := none, scrubFrom := none } else s.gov
    ports := s.ports.put p { x with
      state := if stays then x.state else 1, losses := min (x.losses + 1) (2 ^ 32 - 1), quiescing := false, session := none
      biasJob := none, recovering := none, lossSince3 := !stays, ideIo := x.ideIo && stays, ideMem := x.ideMem && stays } }

/-- 16 Table 16.7: t is the state after the loss of port p's link: the work it held is disabled (order 3), and the last record
names the port; one with cause 0x41 stands before it where the port's IDE failed. -/
def State.linkLost (s t : State) (p : Nat) (stays ide : Bool) : Prop :=
  let w := (s.unlinked p stays).lossWork p (s.otherPort p)
  Records w t ∧ ∃ g r, t.log = FLog.enter g r ∧ (if ide then ∃ y, g = w.log.enter y ∧ y.cause = 0x41 else g = w.log) ∧
    r.cause = 0x40 ∧ r.die = portDie p ∧ r.block = 36 + p % 4 ∧ r.detail = BitVec.ofNat 64 p

/-! ### Resets -/

/-- 18 R436, 20 R465: t is in reset: contexts, queues, launches, the dictionary's values, the log, ownership and the session of
every port are gone; keys stay, and every controller's L is its H. -/
def State.inReset (s t : State) (p : Power) : Prop :=
  t.start.power = p ∧ t.ctxs = [] ∧ t.queues = [] ∧ t.launches = [] ∧ t.lists = [] ∧ t.sems = [] ∧ t.kv = {} ∧ t.saved = [] ∧
  t.dict = {} ∧ t.log = {} ∧ t.own = {} ∧ t.ports = [] ∧ t.ring = {} ∧ t.gov = {} ∧ t.sec.queue = [] ∧
  (∀ c, (t.ctlOf c).key = (s.ctlOf c).key ∧ (t.ctlOf c).l = (s.ctlOf c).h ∧ (t.ctlOf c).h = (s.ctlOf c).h) ∧
  t.fw.ownerKeys = s.fw.ownerKeys ∧ t.fw.floorFw = s.fw.floorFw ∧ t.fw.floorCfg = s.fw.floorCfg ∧
  t.fw.floorOwner = s.fw.floorOwner ∧ t.fw.floorCmd = s.fw.floorCmd ∧ t.variant = s.variant ∧ t.pending = s.pending

end Sys2Proof.Machine
end

