-- ==== Sys2Proof/Certificates/Slice0/Obligations.lean ====
section
/-! DEFINITION. The statements for the provers: what a step, an instruction, an item and an event of the block do. -/

open Sys2Proof Sys2Proof.Machine

/-! ### The block -/

/-- A step runs the command at the front of the queue, with the queue's rest. -/
def Obligations.StepRunsTheFront : Prop :=
  ∀ (c : Instr) (rest : List Instr) (s : State), s.pending = c :: rest → step s = exec c { s with pending := rest }

/-- Log 2 (a choice of the model): with no command waiting a powered block counts its reference counter once (01 R33, 64 bits), each
running die's local counter and the module controller's clock follow or not, each rail that is on comes 10 uV nearer its target or
is there (01 R31, R32), and nothing else changes, where no BIAS-SET is under way. -/
def Obligations.IdleStepCounts : Prop :=
  ∀ s : State, s.pending = [] → s.start.power ≠ .off → (∀ p, (s.port p).biasJob = none) →
    (∀ d, s.clock.frac.get 0 d < 1000000) →
    ∃ t, step s = .next t ∧ t.clock.refc.toNat = (s.clock.refc.toNat + 1) % 2 ^ 64 ∧
      t = { s with clock := t.clock, dies := t.dies } ∧ (∀ d, t.clock.frac.get 0 d < 1000000) ∧
      t.clock = { s.clock with
        refc := t.clock.refc, localc := t.clock.localc, frac := t.clock.frac, ctlc := t.clock.ctlc } ∧
      (∀ d, t.clock.localc.get 0 d = s.clock.localc.get 0 d ∨ t.clock.localc.get 0 d = s.clock.localc.get 0 d + 1) ∧
      (t.clock.ctlc = s.clock.ctlc ∨ t.clock.ctlc = s.clock.ctlc + 1) ∧
      ∀ d, ∃ x, t.dies.get {} d = x ∧
        x = { s.dies.get {} d with rail := x.rail, railSum := x.railSum, railN := x.railN } ∧
        (x.rail = (s.dies.get {} d).rail ∨
          x.rail = (s.dies.get {} d).rail + 1 ∧ x.rail ≤ 100 * x.vtarget ∨
          x.rail + 1 = (s.dies.get {} d).rail ∧ 100 * x.vtarget ≤ x.rail)

/-! ### The Zuhan encodings -/

/-- 06 R152, R154, R155: decoding the words of any well-formed Zuhan instruction, whatever words follow them, gives the instruction
back, with every operand at every value its field admits, and the number of its words. -/
def Obligations.ZuhanDecodesItsEncoding : Prop :=
  ∀ (i z : Instr) (iss : Issue) (ws rest : List W32), i.issue? = some (iss, z) → i.wf = true → zencode i = some ws →
    zdecode (ws ++ rest) = some (z, ws.length)

/-- 06 R152, R154, R155, 05 R151 check 0x03: the Zuhan decoder takes nothing but encodings, and every well-formed instruction has
one. -/
def Obligations.ZuhanDecodesOnlyEncodings : Prop :=
  -- 06 R152, 05 R151 check 0x03: the decoder takes nothing but encodings: what it reads from words is well formed, and the words
  -- it takes are that instruction's encoding bit by bit.
  (∀ (ws : List W32) (z : Instr) (n : Nat), zdecode ws = some (z, n) →
     z.wf = true ∧ zencode z = some (ws.take n) ∧ (n = 1 ∨ n = 2) ∧ n ≤ ws.length ∧ zlen z = n) ∧
  -- Every well-formed Zuhan instruction has an encoding: one word, or two where its opcode is 0x40 to 0x7F (06 R152).
  (∀ (i z : Instr) (iss : Issue), i.issue? = some (iss, z) →
     ∃ ws, zencode i = some ws ∧ ws.length = (if isLong (ws.headD 0) then 2 else 1))

/-- 06 Tables 6.1 to 6.17: words written out from the tables, and what they decode to. -/
def Obligations.ZuhanSampleWords : Prop :=
  -- ADD s3, s1, p5: 0x01, RD 3, RA s1, RB p5, FN 0
  zdecode [0b00000001_00011_0000001_1000101_00000#32] = some (.ialu noIssue 3 (.s 1) (.p 5) .add, 1) ∧
  -- MOVZ s4, 0xBEEF at bits 47 to 32
  zdecode [0b00001011_00100_10_0_1011111011101111#32] = some (.movz noIssue 4 2 0xBEEF#16, 1) ∧
  -- BR s7 < 0 to word 0x123
  zdecode [0b00010000_011_00111_0_000000100100011#32] = some (.br noIssue .lt0 7 0x123#15, 1) ∧
  -- LOOP s2 below 10, back 5 words
  zdecode [0b00010001_00010_0_0001001_00000000101#32] = some (.loop noIssue 2 (.imm 9) 5#11, 1) ∧
  -- VFALU FMA v1 += v2 * v3 where q4
  zdecode [0b00100000_00001_00010_00011_1_100_00011#32] = some (.vfalu noIssue 1 2 3 (some 4) .fma, 1) ∧
  -- MPRELOAD, axis 1, slot 7, release: two words
  zdecode [0b01000001_1_000000111_1_0000000000000#32, 0#32] = some (.mpreload noIssue true 7#9 true, 2) ∧
  -- 0x00 and 0x80 are undefined opcodes; a reserved bit set is refused
  zdecode [0x00000000#32] = none ∧ zdecode [0x80000000#32] = none ∧
  zdecode [0b00010000_011_00111_1_000000100100011#32] = none

/-! ### Scalar instructions -/

/-- 06 R157, 05 R128: an IALU that issues undisturbed writes the value Table 6.4 gives, taken as numbers, to RD, moves the pair one
word on and counts one instruction; nothing but its pair and its launch differs. -/
def Obligations.IaluWritesItsValue : Prop :=
  ∀ (i : Issue) (rd : Fin 32) (ra rb : Src) (fn : IaluFn) (s : State) (a : Site),
    s.issues i (.ialu noIssue rd ra rb fn) a → i.upset = 0 →
    ∃ t, exec (.ialu i rd ra rb fn) s = .next t ∧ s.pairsOnly t ∧
      let v := ialuRule fn (srcVal a.x.params a.p.bank ra) (srcVal a.x.params a.p.bank rb)
      s.retired t a (tokenOf a.word 1 rd.val false (crc32c (natLe 8 v.toNat))) (a.p.pc + 1) (a.p.bank.sset rd.val v)

/-- 06 R156, R157, Table 6.2: the scalar instructions with an immediate write the value of their function to RD. -/
def Obligations.ScalarImmediates : Prop :=
  -- 06 Tables 6.2 and 6.4: ADDI, ANDI, ORI, XORI and SLTI apply ADD, AND, OR, XOR and SLTS with the 12-bit immediate,
  -- sign-extended, in place of RB.
  (∀ (i : Issue) (rd : Fin 32) (ra : Src) (imm : BitVec 12) (s : State) (a : Site), i.upset = 0 →
     let x := srcVal a.x.params a.p.bank ra
     let y := BitVec.ofInt 64 imm.toInt
     (s.issues i (.addi noIssue rd ra imm) a →
       ∃ t, exec (.addi i rd ra imm) s = .next t ∧ s.leavesS t a rd.val (ialuRule .add x y)) ∧
     (s.issues i (.andi noIssue rd ra imm) a →
       ∃ t, exec (.andi i rd ra imm) s = .next t ∧ s.leavesS t a rd.val (ialuRule .and x y)) ∧
     (s.issues i (.ori noIssue rd ra imm) a →
       ∃ t, exec (.ori i rd ra imm) s = .next t ∧ s.leavesS t a rd.val (ialuRule .or x y)) ∧
     (s.issues i (.xori noIssue rd ra imm) a →
       ∃ t, exec (.xori i rd ra imm) s = .next t ∧ s.leavesS t a rd.val (ialuRule .xor x y)) ∧
     (s.issues i (.slti noIssue rd ra imm) a →
       ∃ t, exec (.slti i rd ra imm) s = .next t ∧ s.leavesS t a rd.val (ialuRule .slts x y))) ∧
  -- 06 R157 and Table 6.2: SHLI, SHRI and SRAI multiply, divide toward zero and divide toward minus infinity by the power of two
  -- their 6-bit immediate gives.
  (∀ (i : Issue) (rd : Fin 32) (ra : Src) (sh : BitVec 6) (s : State) (a : Site), i.upset = 0 →
     let x := srcVal a.x.params a.p.bank ra
     (s.issues i (.shli noIssue rd ra sh) a →
       ∃ t, exec (.shli i rd ra sh) s = .next t ∧ s.leavesS t a rd.val (BitVec.ofNat 64 (x.toNat * 2 ^ sh.toNat))) ∧
     (s.issues i (.shri noIssue rd ra sh) a →
       ∃ t, exec (.shri i rd ra sh) s = .next t ∧ s.leavesS t a rd.val (BitVec.ofNat 64 (x.toNat / 2 ^ sh.toNat))) ∧
     (s.issues i (.srai noIssue rd ra sh) a →
       ∃ t, exec (.srai i rd ra sh) s = .next t ∧ s.leavesS t a rd.val (BitVec.ofInt 64 (x.toInt.fdiv (2 ^ sh.toNat))))) ∧
  -- 06 R156: MOVZ leaves IMM at bits 16 HW + 15 to 16 HW and zero elsewhere; MOVK leaves IMM there and RD's old bits elsewhere.
  (∀ (i : Issue) (rd : Fin 32) (hw : Fin 4) (imm : W16) (s : State) (a : Site), i.upset = 0 →
     (s.issues i (.movz noIssue rd hw imm) a →
       ∃ t v, exec (.movz i rd hw imm) s = .next t ∧ s.leavesS t a rd.val v ∧
         ∀ k, k < 64 → v.getLsbD k = (if k / 16 = hw.val then imm.getLsbD (k % 16) else false)) ∧
     (s.issues i (.movk noIssue rd hw imm) a →
       ∃ t v, exec (.movk i rd hw imm) s = .next t ∧ s.leavesS t a rd.val v ∧
         ∀ k, k < 64 → v.getLsbD k = (if k / 16 = hw.val then imm.getLsbD (k % 16) else (a.p.bank.sget rd.val).getLsbD k)))

/-- 06 R158 and Table 6.5: every FALU that issues undisturbed completes. It reads bits 31 to 0 of its operands (CVTIF all 64) and
writes v to RD: an FP32 result r with bits 63 to 32 zero, a comparison's 1 or 0, or CVTFI's INT64. Here are the comparisons, the
conversions, the minimum and maximum, and the results that are no rounded number (02 R43, R65). -/
def Obligations.FaluCompletes : Prop :=
  ∀ (i : Issue) (rd : Fin 32) (ra rb : Src) (fn : FaluFn) (s : State) (a : Site),
    s.issues i (.falu noIssue rd ra rb fn) a → i.upset = 0 →
    let w := srcVal a.x.params a.p.bank ra
    let x : W32 := w.setWidth 32
    let y : W32 := (srcVal a.x.params a.p.bank rb).setWidth 32
    let c : W32 := (a.p.bank.sget rd.val).setWidth 32
    ∃ (t : State) (v : W64) (r : W32), exec (.falu i rd ra rb fn) s = .next t ∧ s.leavesS t a rd.val v ∧
      (fn ≠ .cvtfi → v.toNat = r.toNat) ∧
      match fn with
      | .feq => (r.toNat = 1 ↔ ¬ nan32 x ∧ ¬ nan32 y ∧ ord32 x = ord32 y) ∧ r.toNat ≤ 1
      | .flt => (r.toNat = 1 ↔ ¬ nan32 x ∧ ¬ nan32 y ∧ ord32 x < ord32 y) ∧ r.toNat ≤ 1
      | .fle => (r.toNat = 1 ↔ ¬ nan32 x ∧ ¬ nan32 y ∧ ord32 x ≤ ord32 y) ∧ r.toNat ≤ 1
      | .cvtfi => (nan32 x → v = 0) ∧
          (¬ nan32 x → v.toInt = max (-(2 ^ 63)) (min (2 ^ 63 - 1) ((ord32 x).tdiv (2 ^ 149))))
      | .cvtif => nearest32 (w.toInt * 2 ^ 149) 1 r ∧ (w = 0 → r = 0)
      | .fmin => (nan32 x → nan32 y → r = 0x7FC00000#32) ∧ (nan32 x → ¬ nan32 y → r = y) ∧ (¬ nan32 x → nan32 y → r = x) ∧
          (¬ nan32 x → ¬ nan32 y → r = if ord32 x < ord32 y ∨ ord32 x = ord32 y ∧ 2 ^ 31 ≤ x.toNat then x else y)
      | .fmax => (nan32 x → nan32 y → r = 0x7FC00000#32) ∧ (nan32 x → ¬ nan32 y → r = y) ∧ (¬ nan32 x → nan32 y → r = x) ∧
          (¬ nan32 x → ¬ nan32 y → r = if ord32 y < ord32 x ∨ ord32 x = ord32 y ∧ x.toNat < 2 ^ 31 then x else y)
      | .fadd => (nan32 x ∨ nan32 y ∨ inf32 x ∧ inf32 y ∧ x ≠ y → r = 0x7FC00000#32) ∧
          (inf32 x → fin32 y ∨ x = y → r = x) ∧ (fin32 x → inf32 y → r = y)
      | .fsub => (nan32 x ∨ nan32 y ∨ inf32 x ∧ x = y → r = 0x7FC00000#32) ∧
          (inf32 x → fin32 y ∨ inf32 y ∧ x ≠ y → r = x) ∧ (fin32 x → inf32 y → r = y ^^^ 0x80000000#32)
      | .fmul => (nan32 x ∨ nan32 y ∨ inf32 x ∧ ord32 y = 0 ∨ ord32 x = 0 ∧ inf32 y → r = 0x7FC00000#32) ∧
          (inf32 x ∨ inf32 y → ¬ nan32 x → ¬ nan32 y → ord32 x ≠ 0 → ord32 y ≠ 0 → inf32 r ∧ (neg32 r ↔ (neg32 x ↔ ¬ neg32 y)))
      | .fmac => (nan32 x ∨ nan32 y ∨ nan32 c ∨ inf32 x ∧ ord32 y = 0 ∨ ord32 x = 0 ∧ inf32 y → r = 0x7FC00000#32) ∧
          (fin32 x → fin32 y → inf32 c → r = c)
      | .fdiv => (nan32 x ∨ nan32 y ∨ inf32 x ∧ inf32 y ∨ ord32 x = 0 ∧ ord32 y = 0 → r = 0x7FC00000#32) ∧
          (fin32 x → ord32 x ≠ 0 → ord32 y = 0 → inf32 r ∧ (neg32 r ↔ (neg32 x ↔ ¬ neg32 y))) ∧
          (fin32 x → inf32 y → ord32 r = 0 ∧ fin32 r ∧ (neg32 r ↔ (neg32 x ↔ ¬ neg32 y)))
      | .fsqrt => (nan32 x ∨ ord32 x < 0 → r = 0x7FC00000#32) ∧ (ord32 x = 0 → r = x) ∧ (inf32 x → ¬ neg32 x → r = x)
      | .fexp2 => (nan32 x → r = 0x7FC00000#32) ∧ (inf32 x → r = if x.toNat < 2 ^ 31 then x else 0) ∧
          (fin32 x → ∀ k : Nat, k ≤ 276 → num32 x = ((k : Int) - 149) * 2 ^ 149 → fin32 r ∧ num32 r = 2 ^ k) ∧
          (fin32 x → 128 * 2 ^ 149 ≤ num32 x → r = 0x7F800000#32)
      | .flog2 => (nan32 x ∨ ord32 x < 0 → r = 0x7FC00000#32) ∧ (ord32 x = 0 → r = 0xFF800000#32) ∧
          (inf32 x → ¬ neg32 x → r = x) ∧
          (∀ k : Nat, k ≤ 276 → num32 x = 2 ^ k → fin32 x → fin32 r ∧ num32 r = ((k : Int) - 149) * 2 ^ 149)

/-- 06 R158, 02 R59, R65, R66: the FP32 sums, products, quotients and roots of finite operands that a FALU writes are the exact
results rounded to nearest, ties to even, FMAC with one rounding; an exact zero sum of opposite-signed terms is +0. -/
def Obligations.FaluRounds : Prop :=
  ∀ (i : Issue) (rd : Fin 32) (ra rb : Src) (fn : FaluFn) (s : State) (a : Site),
    s.issues i (.falu noIssue rd ra rb fn) a → i.upset = 0 →
    let x : W32 := (srcVal a.x.params a.p.bank ra).setWidth 32
    let y : W32 := (srcVal a.x.params a.p.bank rb).setWidth 32
    let c : W32 := (a.p.bank.sget rd.val).setWidth 32
    ∃ (t : State) (r : W32), exec (.falu i rd ra rb fn) s = .next t ∧
      (fn ≠ .cvtfi → s.leavesS t a rd.val (r.zeroExtend 64)) ∧
      (fn = .fadd → fin32 x → fin32 y → nearest32 (num32 x + num32 y) 1 r ∧
        (num32 x + num32 y = 0 → r = if x = 0x80000000#32 ∧ y = 0x80000000#32 then 0x80000000#32 else 0)) ∧
      (fn = .fsub → fin32 x → fin32 y → nearest32 (num32 x - num32 y) 1 r ∧
        (num32 x - num32 y = 0 → r = if x = 0x80000000#32 ∧ y = 0 then 0x80000000#32 else 0)) ∧
      (fn = .fmul → fin32 x → fin32 y → nearest32 (num32 x * num32 y) (2 ^ 149) r ∧ (neg32 r ↔ (neg32 x ↔ ¬ neg32 y))) ∧
      (fn = .fmac → fin32 x → fin32 y → fin32 c → nearest32 (num32 x * num32 y + num32 c * 2 ^ 149) (2 ^ 149) r) ∧
      (fn = .fdiv → fin32 x → fin32 y → num32 y ≠ 0 →
        nearest32 (num32 x * 2 ^ 149 * (num32 y).sign) (num32 y).natAbs r ∧ (neg32 r ↔ (neg32 x ↔ ¬ neg32 y))) ∧
      (fn = .fsqrt → fin32 x → 0 < num32 x → fin32 r ∧ ¬ neg32 r ∧ ∀ w, fin32 w → ¬ neg32 w →
        (num32 w < num32 r → (num32 w + num32 r) ^ 2 ≤ 4 * (num32 x * 2 ^ 149)) ∧
        (num32 r < num32 w → 4 * (num32 x * 2 ^ 149) ≤ (num32 w + num32 r) ^ 2))

/-! ### Control, synchronisation and table instructions -/

/-- 06 R153, Tables 6.6, 6.7: where BR and LOOP go. -/
def Obligations.BranchesAndLoops : Prop :=
  -- 06 Table 6.6, R153: BR goes to its target word where its condition holds of s[RA] as a signed number, else to the next word;
  -- it writes no register.
  (∀ (i : Issue) (c : BrCond) (ra : Fin 32) (tgt : BitVec 15) (s : State) (a : Site),
     s.issues i (.br noIssue c ra tgt) a → i.upset = 0 →
     let x := (a.p.bank.sget ra.val).toInt
     ∃ (t : State) (taken : Bool), exec (.br i c ra tgt) s = .next t ∧ s.pairsOnly t ∧
       (taken = true ↔ match c with
         | .always => True | .eq0 => x = 0 | .ne0 => x ≠ 0 | .lt0 => x < 0 | .ge0 => 0 ≤ x | .gt0 => 0 < x | .le0 => x ≤ 0) ∧
       s.retired t a (tokenOf a.word 0 0 taken 0) (if taken then tgt.toNat else a.p.pc + 1) a.p.bank) ∧
  -- 06 R159: LOOP writes c = s[SC] + 1 modulo 2^64 to s[SC] and goes back OFF words where c, as a number of 65 bits, is below the
  -- bound: the immediate plus one, or a parameter.
  (∀ (i : Issue) (sc : Fin 32) (b : LoopBound) (off : BitVec 11) (s : State) (a : Site),
     s.issues i (.loop noIssue sc b off) a → i.upset = 0 →
     let c := (a.p.bank.sget sc.val).toNat + 1
     let bound := match b with | .imm n => n.val + 1 | .param n => (a.x.params.get 0 n.val).toNat
     ∃ (t : State) (v : W64), exec (.loop i sc b off) s = .next t ∧ s.pairsOnly t ∧ v.toNat = c % 2 ^ 64 ∧
       s.retired t a (tokenOf a.word 1 sc.val (decide (c < bound)) (crc32c (natLe 8 v.toNat)))
         (if c < bound then a.p.pc - off.toNat else a.p.pc + 1) (a.p.bank.sset sc.val v))

/-- 06 R161, 05 R142: the end of a launch and its parting points. -/
def Obligations.EndAndPart : Prop :=
  -- 06 R161: END completes its launch once nothing of it is under way and no completion register is pending: the pair is free, its
  -- registers as they were, and the launch has ended; until then nothing happens. Other pairs are as they were.
  (∀ (i : Issue) (s : State) (a : Site), s.issues i (.endL noIssue) a → i.upset = 0 →
     (s.quiet a.u a.l = true →
       ∃ t, exec (.endL i) s = .next t ∧ (t.pair a.u).launch = none ∧ (t.pair a.u).pend = [] ∧ (t.pair a.u).bank = a.p.bank ∧
         (∀ x, t.launches.find a.l = some x → x.st = .done) ∧ ∀ u, u ≠ a.u → t.pair u = s.pair u) ∧
     (s.quiet a.u a.l = false → exec (.endL i) s = .next s)) ∧
  -- 05 R142: with no request pending PART retires at once, releasing the launch's lead debit (14 R341); with one it waits until
  -- nothing of the launch is under way, and then hands it over, its s and L registers and its position behind the PART kept.
  (∀ (i : Issue) (s : State) (a : Site), s.issues i (.part noIssue) a → i.upset = 0 →
     (a.x.why = [] →
       ∃ t, exec (.part i) s = .next t ∧
         s.leavesPair t a { a.p with pc := a.p.pc + 1, token := tokenOf a.word 0 0 false 0, parted := true, wait := none } ∧
         t.dies.find a.die = some ((s.die a.die).dropLead a.l) ∧ (∀ d, d ≠ a.die → t.dies.find d = s.dies.find d) ∧
         t = { s with pairs := t.pairs, launches := t.launches, dies := t.dies }) ∧
     (a.x.why ≠ [] → s.quiet a.u a.l = false → exec (.part i) s = .next s) ∧
     (a.x.why ≠ [] → s.quiet a.u a.l = true → ¬ .disable ∈ a.x.why → ¬ .drop ∈ a.x.why →
       ∃ t x, exec (.part i) s = .next t ∧ (t.pair a.u).launch = none ∧ t.launches.find a.l = some x ∧
         x.st = .parked a.die a.p.bank.s a.p.l a.p.lRun (a.p.pc + 1) ∧ x.why = [] ∧ x.icount = a.x.icount + 1))

/-- 06 R172: SIGNAL, WAITFOR and their faults. -/
def Obligations.Synchronisation : Prop :=
  -- 06 R172: SIGNAL adds s[SV] to the die fence s[SO] of the launch's context on this die, saturating at 2^64 - 1, or sets the
  -- synchronisation object s[SO] to the larger of its value and s[SV]; no register is written.
  (∀ (i : Issue) (so sv : Fin 32) (sc : Option (Fin 32)) (s : State) (a : Site), i.upset = 0 →
     let n := a.p.bank.sget so.val
     let v := a.p.bank.sget sv.val
     (s.issues i (.signal noIssue .fence so sv sc) a → n.toNat ≤ 63 →
       ∃ t tok c, exec (.signal i .fence so sv sc) s = .next t ∧ s.retired t a tok (a.p.pc + 1) a.p.bank ∧
         t = { s with pairs := t.pairs, launches := t.launches, ctxs := s.ctxs.put a.x.ctx c } ∧
         c = { a.c with fences := c.fences } ∧
         (c.fences.get 0 (fenceKey a.die n.toNat)).toNat =
           min ((a.c.fences.get 0 (fenceKey a.die n.toNat)).toNat + v.toNat) (2 ^ 64 - 1) ∧
         ∀ k, k ≠ fenceKey a.die n.toNat → c.fences.find k = a.c.fences.find k) ∧
     (∀ m, s.issues i (.signal noIssue .sem so sv sc) a → s.sems.find n.toNat = some m → m.part = a.c.part →
       ∃ t tok k, exec (.signal i .sem so sv sc) s = .next t ∧ s.retired t a tok (a.p.pc + 1) a.p.bank ∧
         t = { s with pairs := t.pairs, launches := t.launches, sems := s.sems.put n.toNat k } ∧
         k.value.toNat = max m.value.toNat v.toNat ∧ k.failed = m.failed ∧ k.part = m.part)) ∧
  -- 06 R172: WAITFOR retires where the fence or object, compared unsigned, is at least s[SV]; while it is not and no request is
  -- pending, it waits, the pair noting the object and the value; a value reached before the object went satisfies it.
  (∀ (i : Issue) (kind : SyncKind) (so sv : Fin 32) (s : State) (a : Site), s.issues i (.waitfor noIssue kind so sv) a →
     i.upset = 0 →
     let n := (a.p.bank.sget so.val).toNat
     let v := a.p.bank.sget sv.val
     ∀ now : W64, (match kind with
         | .fence => n ≤ 63 ∧ now = a.c.fences.get 0 (fenceKey a.die n)
         | .sem => ∃ m, s.sems.find n = some m ∧ m.part = a.c.part ∧ now = m.value) →
       (v.toNat ≤ now.toNat →
         ∃ t tok, exec (.waitfor i kind so sv) s = .next t ∧ s.pairsOnly t ∧ s.retired t a tok (a.p.pc + 1) a.p.bank) ∧
       (now.toNat < v.toNat → a.x.why = [] → exec (.waitfor i kind so sv) s = .next (match kind with
         | .fence => s
         | .sem => s.modPair a.u (fun p => { p with wait := some (n, v, false) }))) ∧
       (∀ s0 : State, ∀ p, kind = .sem → s0 = { s with sems := s.sems.del n, pairs := s.pairs.put a.u p } →
         p = { a.p with wait := some (n, v, true) } →
         ∃ t tok, exec (.waitfor i kind so sv) s0 = .next t ∧ s0.pairsOnly t ∧
           s0.retired t { a with p } tok (a.p.pc + 1) a.p.bank)) ∧
  -- 06 R172: a fence number above 63 is operand fault 0x16, an object that the context's partition does not hold is handle fault
  -- 0x18: the instruction has no effect of its own, and the launch is aborted with that cause.
  (∀ (i : Issue) (kind : SyncKind) (so sv : Fin 32) (sc : Option (Fin 32)) (s : State) (a : Site) (cause : Nat),
     (match kind with
       | .fence => 63 < (a.p.bank.sget so.val).toNat ∧ cause = 0x16
       | .sem => (∀ m, s.sems.find (a.p.bank.sget so.val).toNat = some m → m.part ≠ a.c.part) ∧ cause = 0x18) →
     (s.issues i (.signal noIssue kind so sv sc) a →
       exec (.signal i kind so sv sc) s = .next (s.abortLaunch a.l { cause, iaddr := a.iaddr, ino := a.x.icount })) ∧
     (s.issues i (.waitfor noIssue kind so sv) a → a.p.wait = none →
       exec (.waitfor i kind so sv) s = .next (s.abortLaunch a.l { cause, iaddr := a.iaddr, ino := a.x.icount })))

/-- 06 Table 6.16, R171: LTLD puts a loop table of the image, or 128 feed-store bytes of a present slot that pass the L checks, into
the L register; TSTAT puts the status word of a descriptor into SD and clears it where CLR is 1 (04 R110). -/
def Obligations.TableInstructions : Prop :=
  ∀ (i : Issue) (s : State) (a : Site), i.upset = 0 →
    (∀ ln idx, s.issues i (.ltld noIssue ln (.image idx)) a →
      ∃ t tok, exec (.ltld i ln (.image idx)) s = .next t ∧ s.pairsOnly t ∧
        s.leavesPair t a { a.p with
          pc := a.p.pc + 1, token := tok, parted := false, wait := none
          l := a.p.l.put ln.val (a.prog.image.ltabs.getD idx.toNat 0)
          lRun := a.p.lRun.filter (· != ln.val) }) ∧
    (∀ ln sa at' slot s' bs, s.issues i (.ltld noIssue ln (.feed sa)) a →
      a.feedAddr (a.p.bank.sget sa.val) 128 = some (at', slot) → (s.mu a.u).tok slot = true →
      s.feedRead a.u at' 128 = (s', .ok, bs) →
      let tab := BitVec.ofNat 1024 (leNat bs)
      (ltabOf tab).ok = true → (ltabOf tab).slots.all (· < a.prog.image.slots) = true →
      ∃ t tok, exec (.ltld i ln (.feed sa)) s = .next t ∧ s'.pairsOnly t ∧
        s.leavesPair t a { a.p with
          pc := a.p.pc + 1, token := tok, parted := false, wait := none, l := a.p.l.put ln.val tab
          lRun := ln.val :: a.p.lRun.filter (· != ln.val) }) ∧
    (∀ sd sh clr d, s.issues i (.tstat noIssue sd sh clr) a →
      a.c.desc (a.p.bank.sget sh.val).toNat = some d →
      ∃ t, exec (.tstat i sd sh clr) s = .next t ∧
        s.retired t a (tokenOf a.word 1 sd.val false (crc32c (natLe 8 d.status.toNat))) (a.p.pc + 1)
          (a.p.bank.sset sd.val d.status) ∧
        t = { s with pairs := t.pairs, launches := t.launches, ctxs := t.ctxs } ∧
        t.ctxs.find a.x.ctx = some (if clr then
          { a.c with descs := a.c.descs.put (a.p.bank.sget sh.val).toNat { d with status := 0 } } else a.c) ∧
        ∀ c, c ≠ a.x.ctx → t.ctxs.find c = s.ctxs.find c)

/-! ### Vector and predicate instructions -/

/-- 06 R162, Tables 6.9, 6.10: vector and predicate instructions, lane by lane. -/
def Obligations.VectorAndPredicateLanes : Prop :=
  -- 06 R162, Table 6.9: VFALU and VIALU write, lane by lane, their function of VA and VB (and of VD's old lane) where the predicate
  -- is 1 or there is none, and keep VD's old lane elsewhere; VSEL takes VA's lane where the predicate is 1 and VB's elsewhere.
  (∀ (i : Issue) (vd va vb : Fin 32) (s : State) (a : Site), i.upset = 0 →
     let x := a.p.bank.vget va.val
     let y := a.p.bank.vget vb.val
     let o := a.p.bank.vget vd.val
     x.length = 512 → y.length = 512 → o.length = 512 →
     (∀ q, (a.p.bank.qget q).length = 512) →
     let on (p : Option (Fin 8)) (k : Nat) : Bool := match p with | none => true | some q => (a.p.bank.qget q.val).getD k false
     (∀ p fn, s.issues i (.vfalu noIssue vd va vb p fn) a →
       ∃ t v, exec (.vfalu i vd va vb p fn) s = .next t ∧ s.leavesV t a vd.val v ∧ v.length = 512 ∧
         ∀ k, k < 512 → v.getD k 0 = if on p k then vfaluFn fn (o.getD k 0) (x.getD k 0) (y.getD k 0) else o.getD k 0) ∧
     (∀ p fn, s.issues i (.vialu noIssue vd va vb p fn) a →
       ∃ t v, exec (.vialu i vd va vb p fn) s = .next t ∧ s.leavesV t a vd.val v ∧ v.length = 512 ∧
         ∀ k, k < 512 → v.getD k 0 = if on p k then vialuFn fn (x.getD k 0) (y.getD k 0) else o.getD k 0) ∧
     (∀ q, s.issues i (.vsel noIssue vd va vb q) a →
       ∃ t v, exec (.vsel i vd va vb q) s = .next t ∧ s.leavesV t a vd.val v ∧ v.length = 512 ∧
         ∀ k, k < 512 → v.getD k 0 = if on (some q) k then x.getD k 0 else y.getD k 0)) ∧
  -- 06 Tables 6.9 and 6.10: VCMP writes 1 where the comparison holds and the predicate is 1 or there is none, 0 elsewhere; QOP
  -- combines predicate registers lane by lane.
  (∀ (i : Issue) (qd : Fin 8) (s : State) (a : Site), i.upset = 0 →
     (∀ n, (a.p.bank.vget n).length = 512) → (∀ q, (a.p.bank.qget q).length = 512) →
     (∀ va vb p fn, s.issues i (.vcmp noIssue qd va vb p fn) a →
       ∃ t v, exec (.vcmp i qd va vb p fn) s = .next t ∧ s.leavesQ t a qd.val v ∧ v.length = 512 ∧
         ∀ k, k < 512 → v.getD k false =
           ((match p with | none => true | some q => (a.p.bank.qget q.val).getD k false) &&
             vcmpFn fn ((a.p.bank.vget va.val).getD k 0) ((a.p.bank.vget vb.val).getD k 0))) ∧
     (∀ qa qb fn, s.issues i (.qop noIssue qd qa qb fn) a →
       ∃ t v, exec (.qop i qd qa qb fn) s = .next t ∧ s.leavesQ t a qd.val v ∧ v.length = 512 ∧
         ∀ k, k < 512 →
           let x := (a.p.bank.qget qa.val).getD k false
           let y := (a.p.bank.qget qb.val).getD k false
           v.getD k false = match fn with
             | .and => x && y | .or => x || y | .xor => x != y | .andn => x && !y | .not => !x | .ones => true
             | .zeros => false)) ∧
  -- 06 Table 6.10: VBCAST gives every lane bits 31 to 0 of RA; VEXTR gives SD a lane, zero-extended; VIDX gives lane k the number
  -- k.
  (∀ (i : Issue) (s : State) (a : Site), i.upset = 0 →
     (∀ vd ra, s.issues i (.vbcast noIssue vd ra) a →
       ∃ t v, exec (.vbcast i vd ra) s = .next t ∧ s.leavesV t a vd.val v ∧ v.length = 512 ∧
         ∀ k, k < 512 → (v.getD k 0).toNat = (srcVal a.x.params a.p.bank ra).toNat % 2 ^ 32) ∧
     (∀ sd va lane, s.issues i (.vextr noIssue sd va lane) a →
       ∃ t v, exec (.vextr i sd va lane) s = .next t ∧ s.leavesS t a sd.val v ∧
         v.toNat = ((a.p.bank.vget va.val).getD lane.val 0).toNat) ∧
     (∀ vd, s.issues i (.vidx noIssue vd) a →
       ∃ t v, exec (.vidx i vd) s = .next t ∧ s.leavesV t a vd.val v ∧ v.length = 512 ∧
         ∀ k, k < 512 → (v.getD k 0).toNat = k))

/-- 06 R163: VRED combines its 512 lanes, with the identity in the lanes whose predicate is 0, in nine levels, results 2m and 2m + 1
of each level giving result m of the next. -/
def Obligations.VredReducesAsATree : Prop :=
  (∀ (i : Issue) (sd va : Fin 32) (p : Option (Fin 8)) (fn : VredFn) (s : State) (a : Site),
    s.issues i (.vred noIssue sd va p fn) a → i.upset = 0 → (a.p.bank.vget va.val).length = 512 →
    (∀ q, (a.p.bank.qget q).length = 512) →
    ∃ (t : State) (v : W64) (lvl : Nat → Nat → W32), exec (.vred i sd va p fn) s = .next t ∧ s.leavesS t a sd.val v ∧
      (∀ k, k < 512 → lvl 0 k =
        if (match p with | none => true | some q => (a.p.bank.qget q.val).getD k false) then (a.p.bank.vget va.val).getD k 0
        else match fn with
          | .fsum => 0x80000000#32 | .fmax => 0xFF800000#32 | .fmin => 0x7F800000#32
          | .isum => 0 | .imax => 0x80000000#32 | .imin => 0x7FFFFFFF#32) ∧
      (∀ n k, n < 9 → k < 2 ^ (8 - n) → lvl (n + 1) k = vredOp fn (lvl n (2 * k)) (lvl n (2 * k + 1))) ∧
      v = (match fn with
        | .fsum | .fmax | .fmin => (lvl 9 0).zeroExtend 64
        | .isum | .imax | .imin => (lvl 9 0).signExtend 64)) ∧
  -- The operations: FP32 sum, maximum and minimum as R65 has them, INT32 sum modulo 2^32, signed maximum and minimum, coded 0 to 5;
  -- FN 6 to 31 are no instruction.
  (∀ x y : W32, vredOp .fsum x y = ((of32 x).add (of32 y)).to32 ∧ vredOp .fmax x y = ((of32 x).max (of32 y)).to32 ∧
    vredOp .fmin x y = ((of32 x).min (of32 y)).to32 ∧ (vredOp .isum x y).toNat = (x.toNat + y.toNat) % 2 ^ 32 ∧
    (vredOp .imax x y).toInt = max x.toInt y.toInt ∧ (vredOp .imin x y).toInt = min x.toInt y.toInt) ∧
  (∀ (w : W32) (rest : List W32), w.toNat / 2 ^ 24 = 0x27 → match zdecode (w :: rest) with
    | some (.vred _ _ _ _ fn, _) => w.toNat % 32 = match fn with
        | .fsum => 0 | .fmax => 1 | .fmin => 2 | .isum => 3 | .imax => 4 | .imin => 5
    | some _ => False
    | none => True) ∧
  (∀ (w : W32) (rest : List W32), w.toNat / 2 ^ 24 = 0x27 → 6 ≤ w.toNat % 32 → zdecode (w :: rest) = none)

/-- 06 R164, R165: where the register gives an aligned address inside one slot of the image, VLD waits for the slot's token, loads
512 elements of the type and, with RL, drops the token; VST waits for the token's absence, stores 512 elements and, with MK, sets
the token. Neither changes another pair, nor any byte of device memory. -/
def Obligations.VldAndVstMoveLanes : Prop :=
  ∀ (i : Issue) (sa : Fin 32) (et : BitVec 4) (s : State) (a : Site) (at' slot : Nat), i.upset = 0 →
    a.feedAddr (a.p.bank.sget sa.val) (bytesOf et.toNat 512) = some (at', slot) →
    (∀ vd rl, s.issues i (.vld noIssue vd sa et rl) a → (s.mu a.u).tok slot = false →
      exec (.vld i vd sa et rl) s = .next s) ∧
    (∀ vd rl s' bs, s.issues i (.vld noIssue vd sa et rl) a → (s.mu a.u).tok slot = true →
      s.feedRead a.u at' (bytesOf et.toNat 512) = (s', .ok, bs) →
      ∃ t, exec (.vld i vd sa et rl) s = .next t ∧
        let v := (List.range 512).map (fun k => loadLane et.toNat (elemAt et.toNat bs k))
        s.retired t a (tokenOf a.word 3 vd.val false (crc32c (lanesLe v))) (a.p.pc + 1) (a.p.bank.vset vd.val v) ∧
        t = { s' with pairs := t.pairs, launches := t.launches, mus := t.mus } ∧
        (t.mu a.u).feed = (s.mu a.u).feed ∧ (t.mu a.u).tok slot = !rl ∧
        ∀ k, k ≠ slot → (t.mu a.u).tok k = (s.mu a.u).tok k) ∧
    (∀ va vb rm ovf mk, s.issues i (.vst noIssue va sa vb et rm ovf mk) a → (s.mu a.u).tok slot = true →
      exec (.vst i va sa vb et rm ovf mk) s = .next s) ∧
    (∀ va vb rm ovf mk, s.issues i (.vst noIssue va sa vb et rm ovf mk) a → (s.mu a.u).tok slot = false →
      ∃ t tok, exec (.vst i va sa vb et rm ovf mk) s = .next t ∧ s.retired t a tok (a.p.pc + 1) a.p.bank ∧
        t = { s with pairs := t.pairs, launches := t.launches, mus := t.mus, dies := t.dies } ∧
        (t.mu a.u).feed = (s.mu a.u).feed.write at' (packElems et.toNat
          (List.zipWith (fun x r => storeLane et.toNat rm.toNat ovf x r) (a.p.bank.vget va.val) (a.p.bank.vget vb.val))) ∧
        (t.mu a.u).tok slot = mk ∧ ∀ k, k ≠ slot → (t.mu a.u).tok k = (s.mu a.u).tok k)

/-- 06 R166, 11 R278: VRAND gives each lane its word of the Chatter block keyed and counted as stated; 11 R282: VRANDJ gives each
lane the low half of its jump-mode word, or the half kept from the one before. -/
def Obligations.RandomLanes : Prop :=
  ∀ (i : Issue) (vd : Fin 32) (s : State) (a : Site), i.upset = 0 →
    (∀ va sk sn w, s.issues i (.vrand noIssue vd va sk sn w) a →
      let k := (a.p.bank.sget sk.val).toNat
      let n := (a.p.bank.sget sn.val).toNat
      k < 2 ^ 36 → n / 2 ^ 16 % 2 ^ 16 = 0 →
      ∃ t, exec (.vrand i vd va sk sn w) s = .next t ∧
        s.leavesV t a vd.val ((a.p.bank.vget va.val).map (fun x =>
          BitVec.ofNat 32 (chatterWord (a.c.seed (k / 2 ^ 32)) (k % 2 ^ 32) (n / 2 ^ 32) (n % 2 ^ 16 * 2 ^ 32 + x.toNat) /
            2 ^ (32 * w.val))))) ∧
    (s.issues i (.vrandj noIssue vd) a →
      ∃ t, exec (.vrandj i vd) s = .next t ∧
        let r := (a.c.jumpOf a.u).map Jump.draw
        let v := r.map (·.2)
        s.retired t a (tokenOf a.word 3 vd.val false (crc32c (lanesLe v))) (a.p.pc + 1) (a.p.bank.vset vd.val v) ∧
        t = { s with pairs := t.pairs, launches := t.launches,
                     ctxs := s.ctxs.put a.x.ctx { a.c with jump := a.c.jump.put a.u (r.map (·.1)) } })

/-! ### Matrix instructions and the array -/

/-- 06 R168, Table 6.11: MPRELOAD takes an entry of the preload queue, MDRAIN one of the drain queue, reserving its sixteen landing
slots and leaving SD pending; a full queue (two entries) or a landing slot in use holds the pair; slots outside the image's range
are slot fault 0x17. No feed-store byte changes. -/
def Obligations.DrainsAndPreloadsQueue : Prop :=
  ∀ (i : Issue) (ax : Bool) (slot : BitVec 9) (s : State) (a : Site),
    let m := s.mu a.u
    let sl := a.prog.base + slot.toNat
    (∀ rel, s.issues i (.mpreload noIssue ax slot rel) a → i.upset = 0 →
      (slot.toNat + 16 ≤ a.prog.image.slots → m.preQ.length < 2 →
        ∃ t tok, exec (.mpreload i ax slot rel) s = .next t ∧
          s.leavesPair t a { a.p with pc := a.p.pc + 2, token := tok, parted := false, wait := none } ∧
          t = { s with pairs := t.pairs, launches := t.launches, mus := t.mus } ∧ s.onlyUnit t a.u ∧
          t.mu a.u = { m with preQ := m.preQ ++ [{ launch := a.l, ax, slot := sl, rel }] }) ∧
      (slot.toNat + 16 ≤ a.prog.image.slots → 2 ≤ m.preQ.length → exec (.mpreload i ax slot rel) s = .next s) ∧
      (a.prog.image.slots < slot.toNat + 16 →
        exec (.mpreload i ax slot rel) s = .next (s.abortLaunch a.l { cause := 0x17, iaddr := a.iaddr, ino := a.x.icount }))) ∧
    (∀ fent sd, s.issues i (.mdrain noIssue ax slot fent sd) a →
      (∀ e, imgStage a.prog.image fent.toNat = some e → a.stageReady e) → slot.toNat + 16 ≤ a.prog.image.slots →
      (m.drainQ.length < 2 → (∀ k, k < 16 → m.tok (sl + k) = false ∧ m.resv.contains (sl + k) = false) →
        ∃ t d, exec (.mdrain i ax slot fent sd) s = .next t ∧ s.leavesPair t a (a.pends 2 sd.val) ∧ d.upset = i.upset ∧
          t = { s with pairs := t.pairs, launches := t.launches, mus := t.mus } ∧ s.onlyUnit t a.u ∧
          t.mu a.u = { m with drainQ := m.drainQ ++ [d], resv := (List.range 16).map (sl + ·) ++ m.resv } ∧
          d.launch = a.l ∧ d.slot = sl ∧ d.ax = ax ∧ d.fent = fent.toNat ∧ d.sd = sd.val ∧ d.claimed = false ∧
          ∀ e, imgStage a.prog.image fent.toNat = some e → d.latch = a.latch e) ∧
      ((2 ≤ m.drainQ.length ∨ ∃ k, k < 16 ∧ (m.tok (sl + k) = true ∨ m.resv.contains (sl + k) = true)) →
        exec (.mdrain i ax slot fent sd) s = .next s))

/-- 06 R167, R175, 14 R341: an MPASS that passes its checks takes an entry of the pass queue with the loop table of its L register,
and its estimate is debited to the die; a full queue holds the pair, a format fault is 0x11, an extent fault 0x12, neither with an
effect of its own. -/
def Obligations.PassesQueue : Prop :=
  ∀ (i : Issue) (f : MpassF) (s : State) (a : Site), s.issues i (.mpass noIssue f) a →
    (∀ e, imgStage a.prog.image f.rent.toNat = some e → ∀ r ∈ e.sRegs, a.p.pend.contains r = false) →
    ∀ sk : Option (SkimLatch × Int),
      (f.skm = false ∧ sk = none ∨ f.skm = true ∧ ∃ k r, a.c.skimOperand a.x.ctx (a.p.bank.sget f.sk.val) = some k ∧
        a.c.skims.find k.recH = some r ∧ sk = some (k, r.roff)) →
      let m := s.mu a.u
      let tab := a.p.l.get 0 f.ln.val
      let okFormat := a.passFormatOk s f (ltabOf tab) sk
      let okExtent := (ltabOf tab).extentsOk a.x.params
      (okFormat = true → okExtent = true → m.passQ.length < 2 →
        ∃ t e b, exec (.mpass i f) s = .next t ∧
          s.leavesPair t a { a.p with pc := a.p.pc + 2, parted := false, wait := none } ∧ e.upset = i.upset ∧
          t = { s with pairs := t.pairs, launches := t.launches, mus := t.mus, dies := t.dies } ∧ s.onlyUnit t a.u ∧
          (t.mu a.u).passQ = m.passQ ++ [e] ∧ (t.mu a.u).feed = m.feed ∧ (t.mu a.u).toks = m.toks ∧
          (t.mu a.u).arr = m.arr ∧ (f.cont = true → (t.mu a.u).drainQ = m.drainQ) ∧
          (f.cont = false → (t.mu a.u).openRun = none) ∧
          e.launch = a.l ∧ e.tab = tab ∧ e.cls = f.cls.toNat ∧ e.cont = f.cont ∧ e.pre = f.pre ∧ e.first = m.openRun.isNone ∧
          e.relA = f.relA ∧ e.relB = f.relB ∧ e.relSA = f.relSA ∧ e.relSB = f.relSB ∧ e.rent = f.rent.toNat ∧
          e.params = a.x.params ∧ e.slotBase = a.prog.base ∧ e.skim = sk.map (·.1) ∧
          (t.die a.die) = { s.die a.die with debits := (s.die a.die).debits ++ [b] } ∧ b.owner = a.l ∧ b.cls = f.cls.toNat ∧
          ∀ d, d ≠ a.die → t.dies.find d = s.dies.find d) ∧
      (okFormat = true → okExtent = true → 2 ≤ m.passQ.length → exec (.mpass i f) s = .next s) ∧
      (okFormat = false →
        exec (.mpass i f) s = .next (s.abortLaunch a.l { cause := 0x11, iaddr := a.iaddr, ino := a.x.icount })) ∧
      (okFormat = true → okExtent = false →
        exec (.mpass i f) s = .next (s.abortLaunch a.l { cause := 0x12, iaddr := a.iaddr, ino := a.x.icount }))

/-- 06 R169, R170, Tables 6.14, 6.15, 04 R122 to R126: the move instructions issue their operations. -/
def Obligations.MovesIssue : Prop :=
  -- 06 R169, R170, Table 6.14, 04 R126: a TMOVE whose handles, ranks, pairing and slots pass their checks is issued: between tensors
  -- of one rank that do not overlap; from a tensor into slots without a token; from slots that all hold one. SC is left pending.
  (∀ (i : Issue) (f : TmoveF) (s : State) (a : Site), s.issues i (.tmove noIssue f) a → s.moveRoom a →
     let b := a.p.bank
     let sl (d : DescF) (ex : List Nat) := (boxSlots d f.slot.toNat ex).map (a.prog.base + ·)
     (∀ hd hs d e os od ex, f.dir = .memMem → handleOf (b.sget f.hd.val) = some hd → handleOf (b.sget f.hs.val) = some hs →
       a.c.descUse hd 1 = some d → a.c.descUse hs 0 = some e → d.rank = e.rank → pairOk d e = true → overlaps d e = false →
       a.blockPends [f.os, f.od, f.ex] d.rank = false → regBlock b f.os d.rank = some os → regBlock b f.od d.rank = some od →
       regBlock b f.ex d.rank = some ex →
       ∃ t, exec (.tmove i f) s = .next t ∧
         s.startsMove t a i 2 f.sc.val (.box .memMem hs hd os od ex 0 false) (a.c.seed d.seedSlot)) ∧
     (∀ h d o ex, f.dir = .memSlot → handleOf (b.sget f.hs.val) = some h → a.c.descUse h 0 = some d →
       a.blockPends [f.os, f.ex] d.rank = false → regBlock b f.os d.rank = some o → regBlock b f.ex d.rank = some ex →
       boxPackedOk d ex = true → f.slot.toNat + (sl d ex).length ≤ a.prog.image.slots →
       ((∀ k ∈ sl d ex, (s.mu a.u).tok k = false) →
         ∃ t, exec (.tmove i f) s = .next t ∧
           s.startsMove t a i 2 f.sc.val (.box .memSlot h 0 o [] ex (a.prog.base + f.slot.toNat) f.rel) (a.c.seed d.seedSlot)) ∧
       ((∃ k ∈ sl d ex, (s.mu a.u).tok k = true) → exec (.tmove i f) s = .next s)) ∧
     (∀ h d o ex, f.dir = .slotMem → handleOf (b.sget f.hd.val) = some h → a.c.descUse h 1 = some d →
       a.blockPends [f.od, f.ex] d.rank = false → regBlock b f.od d.rank = some o → regBlock b f.ex d.rank = some ex →
       boxPackedOk d ex = true → f.slot.toNat + (sl d ex).length ≤ a.prog.image.slots →
       ((∀ k ∈ sl d ex, (s.mu a.u).tok k = true) →
         ∃ t, exec (.tmove i f) s = .next t ∧
           s.startsMove t a i 2 f.sc.val (.box .slotMem 0 h [] o ex (a.prog.base + f.slot.toNat) f.rel) (a.c.seed d.seedSlot)) ∧
       ((∃ k ∈ sl d ex, (s.mu a.u).tok k = false) → exec (.tmove i f) s = .next s))) ∧
  -- 04 R122 to R124, 06 Table 6.15: TGATHER and TSCATTER with a rank-1 INT32 index tensor, shapes that agree, and tensors that do not
  -- overlap, are issued; SC is left pending. A shape that disagrees is shape fault 0x13, overlap is 0x14.
  (∀ (i : Issue) (hd hs hi : Fin 32) (axis : Fin 8) (sc : Fin 32) (op : ScatterOp) (s : State) (a : Site) (d e x : Nat)
     (fd fe fx : DescF), s.moveRoom a →
     handleOf (a.p.bank.sget hd.val) = some d → handleOf (a.p.bank.sget hs.val) = some e →
     handleOf (a.p.bank.sget hi.val) = some x → a.c.descUse d 1 = some fd → a.c.descUse e 0 = some fe →
     a.c.indexDesc x = some fx → pairOk fd fe = true →
     let n := fx.sizes.getD 0 0
     (s.issues i (.tgather noIssue hd hs hi axis sc) a →
       (axis.val < fe.rank → fd.sizes = fe.sizes.set axis.val n → overlaps fd fe = false →
         ∃ t, exec (.tgather i hd hs hi axis sc) s = .next t ∧
           s.startsMove t a i 2 sc.val (.gather e d x axis.val) (a.c.seed fd.seedSlot)) ∧
       ((fe.rank ≤ axis.val ∨ fd.sizes ≠ fe.sizes.set axis.val n) →
         exec (.tgather i hd hs hi axis sc) s =
           .next (s.abortLaunch a.l { cause := 0x13, iaddr := a.iaddr, ino := a.x.icount })) ∧
       (axis.val < fe.rank → fd.sizes = fe.sizes.set axis.val n → overlaps fd fe = true →
         exec (.tgather i hd hs hi axis sc) s =
           .next (s.abortLaunch a.l { cause := 0x14, iaddr := a.iaddr, ino := a.x.icount }))) ∧
     (s.issues i (.tscatter noIssue hd hs hi axis sc op) a → axis.val < fd.rank → fe.sizes = fd.sizes.set axis.val n →
       overlaps fd fe = false → (op = .store ∨ fd.kind = 0 ∧ (op = .add → fd.etype ∈ [0, 1, 2, 10])) →
       ∃ t, exec (.tscatter i hd hs hi axis sc op) s = .next t ∧
         s.startsMove t a i 2 sc.val (.scatter e d x axis.val op) (a.c.seed fd.seedSlot)))

/-- 06 R135, Table 6.18: an undisturbed move whose accesses all succeed leaves the move table, and its completion register becomes
present with CODE 0, or 1 where an element was clipped, overflowed, was a NaN or had no index, and the elements written; a move into
slots sets their tokens. -/
def Obligations.MovesComplete : Prop :=
  ∀ (n : Nat) (m : Move) (s u : State) (x : Launch) (c : Ctx) (o : MoveOut),
    s.moves.find n = some m → m.upset = 0 → s.launches.find m.launch = some x → s.runsOn m.launch m.unit → s.ctxs.find x.ctx = some c →
    (s.keepToken m.unit m.tok).performMove c m = (u, o) → o.acc = .ok →
    ∃ t, exec (.moveComplete n .none) s = .next t ∧ t.moves = s.moves.del n ∧ t.launches = s.launches ∧
      (s.keepToken m.unit m.tok).completed t m.unit m.sc
        (if o.clip = true ∨ o.cnt.ovf ≠ 0 ∨ o.cnt.nan ≠ 0 ∨ o.oor ≠ 0 then 1 else 0) o.n ∧
      t.mem = u.mem ∧ t.mus = u.mus ∧ s.onlyUnit t m.unit ∧ (∀ k, k ≠ x.ctx → t.ctxs.find k = s.ctxs.find k) ∧
      ∀ src os ex slot rel, m.kind = .box .memSlot src 0 os [] ex slot rel →
        ∀ d, c.descs.find src = some d → ∀ k ∈ boxSlots (descOf d.image) slot ex, (t.mu m.unit).tok k = true

/-- 03 R77, 06 Table 6.11, 14 R341: PASS_ISSUE. -/
def Obligations.PassesIssueInOrder : Prop :=
  -- 03 R77, 06 Table 6.11, 14 R341: the oldest queued pass whose stage has run, whose slots all hold tokens, and for which the drain
  -- and preload it needs are queued, is issued to the array with them, and its debit is released; with any slot it reads lacking a token
  -- nothing happens.
  (∀ (u : Fin 64) (s : State) (e : PassEntry) (rest : List PassEntry), (s.mu u.val).passQ = e :: rest →
     let m := s.mu u.val
     (∀ k ∈ e.reads (s.roffOf e) (if e.pre then m.preQ.head? else none), m.tok k = true) →
     e.upset = 0 → (e.rent = 0 ∨ e.roughed = true) → m.earlierTile e.cls e.prog = false → (e.cont = false → m.drainQ ≠ []) →
     (e.pre = true → m.preQ ≠ []) →
     (e.cont = true ∨ ∀ d, m.drainQ.head? = some d → takeFault (s.imageOf e.launch e.prog) e.t d = none) →
     ∃ t e', exec (.passIssue u) s = .next t ∧
       t = { s with mus := t.mus, dies := t.dies, pairs := (s.keepToken u.val e.tok).pairs } ∧ s.onlyUnit t u.val ∧
       t.mu u.val = { m with
         passQ := rest, arr := m.arr ++ [e'], drainQ := if e.cont then m.drainQ else m.drainQ.drop 1
         preQ := if e.pre then m.preQ.drop 1 else m.preQ } ∧
       e' = { e with drain := e'.drain, preload := e'.preload, skim := e'.skim } ∧
       e'.drain = (if e.cont then none else m.drainQ.head?) ∧ e'.preload = (if e.pre then m.preQ.head? else none) ∧
       (∀ b ∈ (t.die (unitDie u.val)).debits, b ∈ (s.die (unitDie u.val)).debits ∧ ¬ (b.owner = e.launch ∧ b.kind = 1)) ∧
       ∀ d, d ≠ unitDie u.val → t.dies.find d = s.dies.find d) ∧
  -- 03 R77: a pass with a slot it reads that holds no token waits.
  (∀ (u : Fin 64) (s : State) (e : PassEntry) (rest : List PassEntry), (s.mu u.val).passQ = e :: rest →
     (∃ k ∈ e.reads (s.roffOf e) (if e.pre then (s.mu u.val).preQ.head? else none), (s.mu u.val).tok k = false) →
     exec (.passIssue u) s = .next s)

/-- 03 R82, 06 R168: PRELOAD_FILL and PASS_END. -/
def Obligations.PreloadsAndPasses : Prop :=
  -- 03 R82 order 10, 06 R168: with the preload registers free, the next preloaded pass fills them from its sixteen slots as a tile
  -- of INT32 words, in tile order or transposed, and drops the tokens it is to release.
  (∀ (u : Fin 64) (s s' : State) (e : PassEntry) (p : PreEntry) (bs : List Byte),
     (s.mu u.val).preReg = none → nextPreload (s.mu u.val).arr = some (e, p) →
     s.feedRead u.val (p.slot * 2 ^ 14) (2 ^ 18) = (s', .ok, bs) →
     ∃ t v, exec (.preloadFill u) s = .next t ∧ (t.mu u.val).preReg = some v ∧ v.length = 65536 ∧
       (∀ i j, i < e.t.m → j < e.t.n → i * e.t.n + j < 65536 → (v.getD (i * e.t.n + j) 0).toNat =
         leNat ((bs.drop (4 * (if p.ax then j * e.t.m + i else i * e.t.n + j))).take 4)) ∧
       (t.mu u.val).feed = (s.mu u.val).feed ∧ (t.mu u.val).arr = (s.mu u.val).arr ∧ s.onlyUnit t u.val ∧
       (∀ k, (t.mu u.val).tok k = if p.rel = true ∧ p.slot ≤ k ∧ k < p.slot + 16 then false else (s.mu u.val).tok k) ∧
       t = { s with mus := t.mus, dies := t.dies }) ∧
  -- 03 R82: the oldest issued pass ends: it leaves the array, and the tokens it is to release drop (with WRX, its A slots wait for
  -- the reference write); a continuing pass leaves its run open, any other leaves the captured tile in the shadow registers with its
  -- drain. A captured tile still in the shadow registers holds it back.
  (∀ (u : Fin 64) (ups : List CellUpset) (s s' : State) (e : PassEntry) (rest : List PassEntry),
     (s.mu u.val).arr = e :: rest →
     (e.cont = false → (s.mu u.val).shadow.isSome = true → exec (.passBoundary u ups) s = .next s) ∧
     (s.runsOn e.launch u.val → (e.cont = true ↔ e.drain = none) → (e.cont = false → (s.mu u.val).shadow = none) →
       (e.first = true → e.preload.isSome = true → e.truing = false → (s.mu u.val).preReg.isSome = true) →
       s.streamErr u.val e (s.roffOf e) = (s', .ok) →
       ∃ t, exec (.passBoundary u ups) s = .next t ∧ s.onlyUnit t u.val ∧ (t.mu u.val).arr = rest ∧
         (t.mu u.val).feed = (s.mu u.val).feed ∧ (t.mu u.val).passQ = (s.mu u.val).passQ ∧
         ((e.skim.map (·.wrx)).getD false = false → ∀ k ∈ e.releases, e.truing = false → (t.mu u.val).tok k = false) ∧
         (e.drain = none → (t.mu u.val).shadow = (s.mu u.val).shadow ∧ ∃ r, (t.mu u.val).run = some r ∧
           (e.skim = none → e.first = true → e.preload = none →
             r = { (e.stream (s.mu u.val)).addPass .plain (Run.start e.t.fold e.t.intPass none) with
                   held := r.held, xnew := r.xnew, xscale := r.xscale, relLater := r.relLater })) ∧
         (∀ d, e.drain = some d → (t.mu u.val).run = none ∧ ∃ tl, (t.mu u.val).shadow = some tl ∧ tl.pass = e ∧ tl.drain = d) ∧
         t.pairs = s.pairs ∧ t.launches = s.launches ∧ t.mem = s.mem))

/-- 03 R98 to R102, 06 R168: TILE_CHECK. -/
def Obligations.TilesCommitOrAreRefused : Prop :=
  -- 03 R99, 06 R168: a captured tile whose residues are zero, or miss only in a witness, is committed: its landing values go to its
  -- sixteen slots; without a finishing stage its slots take tokens and SD becomes present with CODE 0 and the status word; with one the
  -- tile waits for its run.
  (∀ (u : Fin 64) (s : State) (tl : Tile), (s.mu u.val).shadow = some tl → s.runsOn tl.pass.launch u.val → tl.pass.skim = none →
     tl.drain.upset = 0 →
     let st := tl.run.statusWord (s.mu u.val).repair
     let sl := tl.drain.slot
     wres st ≠ 1 → wres st ≠ 2 →
     ∃ t, exec (.tileCheck u) s = .next t ∧ (t.mu u.val).shadow = none ∧ s.onlyUnit t u.val ∧ t.mem = s.mem ∧
       t.launches = s.launches ∧ (t.mu u.val).feed = (s.mu u.val).feed.write (2 ^ 14 * sl) (tl.landing.flatMap (fun x => natLe 4 x.toNat)) ∧
       (tl.drain.fent = 0 → (s.keepToken u.val tl.drain.tok).completed t u.val tl.drain.sd 0 st.toNat ∧
         (t.mu u.val).resv = (s.mu u.val).resv.filter (fun r => !(sl ≤ r && r < sl + 16)) ∧
         ∀ k, sl ≤ k → k < sl + 16 → (t.mu u.val).tok k = true) ∧
       (tl.drain.fent ≠ 0 → t.pairs = (s.keepToken u.val tl.drain.tok).pairs ∧
         (t.mu u.val).fin = (s.mu u.val).fin ++ [{ tl with status := st }])) ∧
  -- 03 R98 to R102: a captured tile with a located or an unlocated mismatch is refused: no byte of a feed store changes, the die
  -- counts a witness mismatch, and the launch is blamed with cause 0x1B.
  (∀ (u : Fin 64) (s : State) (tl : Tile) (x : Launch), (s.mu u.val).shadow = some tl →
     s.launches.find tl.pass.launch = some x → s.runsOn tl.pass.launch u.val → x.cause = none → tl.drain.upset = 0 →
     (∃ k, s.moves.find k ≠ none ∧ (s.moves.find k).map (·.launch) = some tl.pass.launch) →
     let st := tl.run.statusWord (s.mu u.val).repair
     (wres st = 1 ∨ wres st = 2) →
     ∃ t y, exec (.tileCheck u) s = .next t ∧ (∀ v, (t.mu v).feed = (s.mu v).feed) ∧ (t.mu u.val).shadow = none ∧
       (t.die (unitDie u.val)).witness = min ((s.die (unitDie u.val)).witness + 1) (2 ^ 32 - 1) ∧
       t.launches.find tl.pass.launch = some y ∧ y.st = .ending ∧
       y.cause = some (0x1B, tl.drain.iaddr, tl.drain.ino) ∧ (t.pair u.val).launch = none ∧ t.mem = s.mem)

/-! ### The vector engine between launches -/

/-- 07 R183, Table 7.3: a finishing run whose stage keeps no row record goes on from where it stands. When its last strip is
through, what its strips wrote stands, in the landing slots, which take tokens, or through its push, and the slots are free; the
tile leaves the queue and SD becomes present with CODE 0, or 1 where a lane was dropped or a write overflowed or met a NaN. A run
whose code waits for a slot keeps its place; one that stops loses its tile, and what its strips wrote stands. No lane outside the
real extents is ever written (04 R120). -/
def Obligations.FinishingRunsEnd : Prop :=
  ∀ (u : Fin 64) (s s3 : State) (tl : Tile) (x : Launch) (c : Ctx) (g : Program) (e : StageE) (q : StripR),
    s.stageRan u.val tl x c g e q s3 → s.runsOn tl.pass.launch u.val →
    (∀ r, q = .done r →
      ∃ t, exec (.finishingRun u 0) s = .next t ∧
        s.completed t u.val tl.drain.sd (if r.clip then 1 else 0) tl.status.toNat ∧
        (t.mu u.val).fin = (s.mu u.val).fin.drop 1 ∧ (t.mu u.val).stage = {} ∧ (t.mu u.val).feed = (s3.mu u.val).feed ∧
        (∀ k, tl.drain.slot ≤ k → k < tl.drain.slot + 16 → (t.mu u.val).resv.contains k = false ∧
          (e.push = false → (t.mu u.val).tok k = true)) ∧
        s.onlyUnit t u.val ∧ t.mem = s3.mem ∧ t.launches = s.launches) ∧
    (∀ r, q = .wait r → exec (.finishingRun u 0) s = .next (s3.modMu u.val (fun m => { m with stage := r }))) ∧
    (∀ cause, q = .code (.fault cause) →
      ∃ t, exec (.finishingRun u 0) s = .next t ∧ (t.mu u.val).feed = (s3.mu u.val).feed ∧ (t.mu u.val).stage = {} ∧
        ∀ y ∈ (t.mu u.val).fin, y.drain ≠ tl.drain) ∧
    (e.guide = false → ∀ k b p w, (p, w) ∈ ((tl.finTile e).output none k b).land → (tl.finTile e).inside p = true)

/-- 07 R191: a roughing run begins when its source slots all hold tokens and its output slots hold none; while one does not, nothing
happens. It goes strip by strip: a strip's quantised values are written to the operand region of its pass, each output slot takes
its token with its last byte, and with RREL each source slot loses its token with its last element. When its last strip is through
its pass may issue; a run whose code waits keeps its place. -/
def Obligations.RoughingRunsEnd : Prop :=
  ∀ (u : Fin 64) (s s1 : State) (p : PassEntry) (x : Launch) (c : Ctx) (g : Program) (e : StageE) (q : StripR),
    (s.mu u.val).passQ.find? (fun p => p.rent ≠ 0 && !p.roughed) = some p → s.launches.find p.launch = some x →
    s.ctxs.find x.ctx = some c → c.progs.find p.prog = some g → imgStage g.image p.rent = some e →
    let j := roughJob e p.t g.base
    let v : StageEnv := { u := u.val, base := g.base, slots := g.image.slots, src := { params := p.latch.params, seed := c.seed } }
    let r0 := (s.mu u.val).rough
    (r0.on = false → (∃ k ∈ j.srcSlots, (s.mu u.val).tok k = false) → exec (.roughingRun u 0) s = .next s) ∧
    (r0.on = false → (∃ k ∈ j.outSlots, (s.mu u.val).tok k = true) → exec (.roughingRun u 0) s = .next s) ∧
    ((r0.on = true ∨ (∀ k ∈ j.srcSlots, (s.mu u.val).tok k = true) ∧ ∀ k ∈ j.outSlots, (s.mu u.val).tok k = false) →
      s.roughStrips u.val v j ((e.body ((zprog g.image.code).getD [])).getD []) (r0.begin p.latch) = (s1, q) →
      (∀ r, q = .done r → exec (.roughingRun u 0) s =
        .next (s1.modMu u.val (fun m => { m with rough := {}, passQ := markRoughed m.passQ }))) ∧
      (∀ r, q = .wait r → exec (.roughingRun u 0) s = .next (s1.modMu u.val (fun m => { m with rough := r })))) ∧
    (∀ k (t t' : State) r r', State.roughOut u.val j k t r = (t', .done r') → r' = r ∧ t.onlyUnit t' u.val ∧ t'.mem = t.mem ∧
      (j.t.scaled = false → (t'.mu u.val).feed =
        (t.mu u.val).feed.write (j.dstAt + j.dstN k) (packElems j.et (j.codes (r.bank.vget 0)).1)) ∧
      ∀ n, (t'.mu u.val).tok n = ((t.mu u.val).tok n || (j.full k).contains n)) ∧
    (∀ k (t t' : State) r r', State.roughLoad u.val j k t r = (t', .done r') → (t'.mu u.val).feed = (t.mu u.val).feed ∧
      ∀ n, (t'.mu u.val).tok n = ((t.mu u.val).tok n && !(j.spent k).contains n))

/-- 07 R195, R196: a closing pass, served by a tensor move unit, whose last part is through clears its counter, raises the die fence
CF by one and completes its MDRAIN with CODE 0, or 1 where its push or its rows dropped a lane or made a count; one whose code waits
keeps its place; while no tensor move unit can serve it nothing happens (04 R126). -/
def Obligations.ClosingPassesEnd : Prop :=
  ∀ (u : Fin 64) (s s1 : State) (tl : Tile) (x : Launch) (c : Ctx) (g : Program) (e : StageE) (dd rd : Desc) (q : StripR),
    (s.mu u.val).closing = some tl → s.tileSite tl = some (x, c, g) → imgStage g.image tl.drain.fent = some e →
    c.descs.find tl.drain.latch.dst = some dd → c.descs.find tl.drain.latch.recH = some rd → s.runsOn tl.pass.launch u.val →
    let f := tl.finTile e
    let code := (e.closing ((zprog g.image.code).getD [])).getD []
    ((s.mu u.val).closeTmu = none → s.moveUnit (unitDie u.val) = none → exec (.closingPass u 0) s = .next s) ∧
    ((s.mu u.val).closeTmu.isSome = true →
      s.closeStrips x.ctx c (tl.env u.val c g) f (descOf dd.image) (descOf rd.image) (code.take e.crow) (code.drop e.crow)
        ((s.mu u.val).stage.begin tl.drain.latch) = (s1, q) →
      (∀ r, q = .wait r → exec (.closingPass u 0) s = .next (s1.modMu u.val (fun m => { m with stage := r }))) ∧
      (∀ r s2, q = .done r → s1.putWords c (descOf rd.image) [(f.counterAt, 0)] = (s2, .ok) →
        ∃ t c', exec (.closingPass u 0) s = .next t ∧ (t.mu u.val).closing = none ∧ (t.mu u.val).closeTmu = none ∧
          (t.mu u.val).stage = {} ∧ t.mem = s2.mem ∧ t.launches = s.launches ∧
          s.completed t u.val tl.drain.sd (if tl.clip = true ∨ r.clip = true then 1 else 0) tl.status.toNat ∧
          t.ctxs.find x.ctx = some c' ∧ (c'.fences.get 0 (fenceKey (unitDie u.val) e.cf)).toNat =
            min ((c.fences.get 0 (fenceKey (unitDie u.val) e.cf)).toNat + 1) (2 ^ 64 - 1)))

/-- 20 R463, R464, R466, 01 R27: SEQUENCER_SELF_TEST and STALL_MONITOR. -/
def Obligations.SelfTestsAndStalls : Prop :=
  -- 20 R466: a sequencer pair that passes its self test runs again and nothing else changes; one that fails takes its unit out of
  -- dispatch with record 0x26. A pair in service is not tested.
  (∀ (u : Fin 64) (s : State),
     (s.runs = true → (s.pair u.val).stopped = true → 1 ≤ (s.pair u.val).seqFaults → (s.mu u.val).state = 0 →
       (∃ t, exec (.sequencerSelfTest u true) s = .next t ∧ t = { s with pairs := t.pairs } ∧
         t.pair u.val = { s.pair u.val with stopped := false } ∧ ∀ v, v ≠ u.val → t.pair v = s.pair v) ∧
       (∃ t r, exec (.sequencerSelfTest u false) s = .next t ∧ t.pairs = s.pairs ∧ s.onlyUnit t u.val ∧
         t.mu u.val = { s.mu u.val with state := 1 } ∧ t.log = s.log.enter r ∧ r.cause = 0x26 ∧ r.sev = 3 ∧
         r.detail.toNat = u.val + 0x1A * 256)) ∧
     ((s.pair u.val).stopped = false → ∀ b, exec (.sequencerSelfTest u b) s = .next s)) ∧
  -- 20 R463, R464, Table 20.6, 01 R27: a request that a channel of a dual-rail block has held for 5,000 counts of its die's
  -- oscillator without an answer is a stall; before that nothing happens. A stall counts on its die and removes the block: an unused matrix unit
  -- leaves dispatch with its pair stopped, an unused tensor move unit and an idle Spindle engine leave their die; a block whose loss
  -- stops the module puts the module into reset with the fault's record carried.
  (∀ (die block chan : Nat) (raised : W64) (s : State), s.runs = true → s.dualRail die block = true →
     ((s.clock.localc.get 0 die).toNat < raised.toNat + 5000 → exec (.stallMonitor die block ⟨chan, raised⟩) s = .next s) ∧
     (raised.toNat + 5000 ≤ (s.clock.localc.get 0 die).toNat →
      (stopsModule die block = false → s.blockUsers die block = [] → die < 4 → (block = 24 → s.spin.get [] die = []) →
       (∀ e ∈ s.mus, unitDie e.1 = die → 16 ≤ block → e.2.closeTmu ≠ some (block - 16)) →
       ∃ t, exec (.stallMonitor die block ⟨chan, raised⟩) s = .next t ∧ t.mem = s.mem ∧ t.launches = s.launches ∧
         (t.die die).stalls = min ((s.die die).stalls + 1) (2 ^ 32 - 1) ∧ (∀ d, d ≠ die → t.die d = s.die d) ∧
         (block < 16 → (t.mu (16 * die + block)).state = 1 ∧ (t.pair (16 * die + block)).stopped = true) ∧
         (16 ≤ block → block < 24 → (t.die die).tmuOut.contains (block - 16) = true ∧ t.mus = s.mus ∧ t.pairs = s.pairs) ∧
         (block = 24 → (t.die die).spindleOut = true ∧ t.mus = s.mus ∧ t.pairs = s.pairs)) ∧
      (stopsModule die block = true →
       ∃ t r, exec (.stallMonitor die block ⟨chan, raised⟩) s = .next t ∧ t.start.power = .reset ∧ t.start.carried = some r ∧
         r.cause = 0x22 ∧ r.cls = 4 ∧ r.sev = 4 ∧ r.die = die ∧ r.block = block ∧ r.carried = true ∧ t.launches = [])))

/-! ### Dispatch -/

/-- 13 R325, 05 R130, 14 R344: at a dispatch point the launch picked, if its context is resident and nothing stands in the way, runs
on the coolest free pair it may use; a launch never dispatched starts at word 0 with zeroed registers, one handed over resumes with
its s and L registers at its position. Other pairs, and memory, are unchanged; with nothing picked no pair changes. -/
def Obligations.DispatchRunsThePickedLaunch : Prop :=
  ∀ (d : Fin 4) (temps : List Int) (s : State), s.dieDispatches d.val = true →
    (∀ c run ask x cx, s.choice d.val = some (c, run, ask) → s.launches.find c.key = some x →
      s.ctxs.find x.ctx = some cx → cx.resident.contains d.val = true → s.inWay x.ctx d.val = [] →
      (∃ u, u ∈ s.mayUse d.val x ∧ u ∈ s.freePairs d.val) →
      ∃ t u y, exec (.dispatch d temps) s = .next t ∧ u ∈ s.mayUse d.val x ∧ u ∈ s.freePairs d.val ∧
        (∀ v ∈ s.mayUse d.val x, v ∈ s.freePairs d.val → temps.getD (u % 16) 0 ≤ temps.getD (v % 16) 0) ∧
        (t.pair u).launch = some c.key ∧ (t.pair u).pend = [] ∧
        (x.st = .fresh → (t.pair u).bank = {} ∧ (t.pair u).l = [] ∧ (t.pair u).pc = 0) ∧
        (∀ e r l run pc, x.st = .parked e r l run pc →
          (t.pair u).bank.s = r ∧ (t.pair u).l = l ∧ (t.pair u).lRun = run ∧ (t.pair u).pc = pc) ∧
        (∀ v, v ≠ u → t.pair v = s.pair v) ∧ t.launches.find c.key = some y ∧ y.st = .running u ∧ y.unit = u ∧
        y.dispatchNo = s.nextDispatch ∧ y.params = x.params ∧ (t.die d.val).lcrun = run ∧ t.mem = s.mem ∧ t.mus = s.mus ∧
        t.queues = s.queues) ∧
    (∀ c run ask x, s.choice d.val = some (c, run, ask) → s.launches.find c.key = some x →
      (s.clearWay x.ctx d.val x.lc).2 = false →
      ∃ t, exec (.dispatch d temps) s = .next t ∧ (t.die d.val).chosen = some (c.key, ask)) ∧
    ((s.die d.val).chosen = none → s.choice d.val = s.pick d.val (s.readyOn d.val)) ∧
    (s.choice d.val = none →
      ∃ t, exec (.dispatch d temps) s = .next t ∧ t = { s with launches := t.launches })

/-- 13 R325: the pick among ready launches is a latency-critical one of the highest level, oldest first, unless seven have been
taken in a row while urgent work waits; then, or with none ready, the oldest urgent one. -/
def Obligations.PickFollowsTheOrder : Prop :=
  ∀ (s : State) (d : Nat) (cs : List Cand),
    ((∃ l ∈ cs, l.lc = true) → ((s.die d).lcrun < 7 ∨ ∀ u ∈ cs, u.lc = false → u.urgent = false ∨ (s.die d).sensorFault = true) →
      ∃ l n, s.pick d cs = some (l, n, false) ∧ l ∈ cs ∧ l.lc = true ∧
        ∀ k ∈ cs, k.lc = true → k.level < l.level ∨ k.level = l.level ∧ l.since.toNat ≤ k.since.toNat) ∧
    ((s.die d).sensorFault = false → (∃ u ∈ cs, u.lc = false ∧ u.urgent = true) →
      (7 ≤ (s.die d).lcrun ∨ ∀ l ∈ cs, l.lc = false) →
      ∃ u n ask, s.pick d cs = some (u, n, ask) ∧ u ∈ cs ∧ u.lc = false ∧ u.urgent = true ∧
        ∀ k ∈ cs, k.lc = false → k.urgent = true → u.since.toNat ≤ k.since.toNat) ∧
    (∀ c n ask, s.pick d cs = some (c, n, ask) → c ∈ cs)

/-- 13 R325: URGENT_PROMOTION completes in every state. A best-effort launch that is neither ending nor done becomes urgent when it
has waited longer than its AGE since its item started, and stays urgent; no other launch becomes urgent; nothing else changes. -/
def Obligations.UrgentPromotionCompletes : Prop :=
  ∀ (l : Nat) (s : State),
    (∀ x, s.launches.find l = some x →
      ∃ t y, exec (.urgentPromotion l) s = .next t ∧ t = { s with launches := t.launches } ∧
        t.launches.find l = some y ∧ y = { x with urgent := y.urgent } ∧
        (y.urgent = true ↔ x.urgent = true ∨
          x.lc = false ∧ x.st ≠ .ending ∧ x.st ≠ .done ∧ x.startedAt.toNat + x.age < s.now) ∧
        ∀ k, k ≠ l → t.launches.find k = s.launches.find k) ∧
    (s.launches.find l = none → exec (.urgentPromotion l) s = .next s)

/-- 03 R91, R93, R94: a batch member of 1 to 128 rows arrives at a queue and joins those that wait, in order. As long as the rule of
R93 issues, the longest run of members from the oldest on that share their operands and fit 128 rows leaves as one pass: when its
rows reach the target BT, when a member is left that does not fit, or when the oldest has waited BW gate pulses. What a pass sends
to a member is the member's own rows as it would send them alone, whatever else the pass holds. -/
def Obligations.BatchMembersGather : Prop :=
  ∀ (q member rows : Nat) (op : BatchOp) (a : List Byte) (s : State) (x : Queue), s.queues.find q = some x →
    memberOk rows op = true → (∀ m ∈ x.members, 1 ≤ m.rows ∧ m.rows ≤ 128) → (member :: x.members.map (·.id)).Nodup →
    ∃ t y passes, exec (.batchMemberArrival q ⟨member, op⟩ ⟨rows, a⟩) s = .next t ∧ t = { s with queues := t.queues, out := t.out } ∧
      t.queues.find q = some y ∧ (∀ p, p ≠ q → t.queues.find p = s.queues.find p) ∧
      y = { x with members := y.members, batches := x.batches ++ passes } ∧
      passes.flatten ++ y.members = x.members ++ [{ id := member, rows, op, a, pulses := 0 }] ∧
      t.out = s.out ++ passes.flatMap (fun p => p.map (fun m =>
        .batchOut q m.id ((List.range m.rows).map (batchRow m.op [m])))) ∧
      (∀ p ∈ passes, rowsOf p ≤ 128 ∧ ∃ m, p.head? = some m ∧ ∀ k ∈ p, k.op = m.op) ∧
      (∀ before p later, passes = before ++ p :: later →
        (x.attrs.bt ≤ rowsOf p ∨ later.flatten ++ y.members ≠ [] ∨ ∃ m, p.head? = some m ∧ x.attrs.bw ≤ m.pulses) ∧
        ∀ n, (later.flatten ++ y.members).head? = some n → 128 < rowsOf p + n.rows ∨ ∃ m, p.head? = some m ∧ n.op ≠ m.op) ∧
      (∀ m, y.members.head? = some m → rowsOf y.members < x.attrs.bt ∧ rowsOf y.members ≤ 128 ∧ m.pulses < x.attrs.bw ∧
        ∀ k ∈ y.members, k.op = m.op)

/-! ### The governor and the ladder -/

/-- 14 R338, R339, Tables 14.1, 14.2: a gate pulse of a running module comes at a later multiple of 10 us; each compute die present
that reports takes its readings, its thermal factor and its hold from them: the energy its sensors' votes sum to, the highest voted
temperature, the lowest of its pace monitors or, power-gated in the period, 0, and the mean of its rail, which has slewed 10 uV a
count (01 R31, R36, R38); one that does not report counts a missed report. -/
def Obligations.GatePulsesMeasure : Prop :=
  ∀ (rest : Nat) (reports : List (Option DieReport)) (s : State), s.runs = true → s.gov.ladder ≤ 1 →
    s.now < 2 ^ 63 → s.gov.lastGate.toNat < 2 ^ 63 → s.gov.lastGate.toNat % 1000 = 0 →
    (∃ d, d < 6 ∧ (s.die d).present = true) →
    (∀ d, d < 6 → (match reports.getD d none with | some r => r.hot | none => (s.die d).hot) ≤ 880) →
    ∃ t, exec (.gatePulse rest reports) s = .next t ∧ t.clock.refc.toNat % 1000 = 0 ∧ s.now ≤ t.now ∧
      s.gov.lastGate.toNat < t.now ∧ t.now < max s.now s.gov.lastGate.toNat + 1001 ∧ t.gov.lastGate = t.clock.refc ∧
      t.gov.restWin = (rest :: s.gov.restWin).take 10 ∧ t.mem = s.mem ∧ t.launches = s.launches ∧ t.pairs = s.pairs ∧
      (∀ d r, d < 4 → (s.die d).present = true → reports.getD d none = some r →
        (t.die d).energyWin = (r.energy :: (s.die d).energyWin).take 10 ∧ (t.die d).volt = ((s.elapse (t.now - s.now)).die d).meanRail ∧
        (t.die d).pace = (if (s.die d).gated then 0 else r.pace d) ∧ (t.die d).gated = false ∧
        (t.die d).hot = r.hot ∧ (t.die d).missed = 0 ∧ (t.die d).sensorFault = false ∧
        ((t.die d).f, (t.die d).hold) = thermalRule (8 * (s.applyLate.cfg 0x3010 2 : Int)) r.hot (s.die d).f) ∧
      (∀ d, d < 4 → (t.die d).rail ≤ (s.die d).rail + (t.now - s.now) ∧ (s.die d).rail ≤ (t.die d).rail + (t.now - s.now)) ∧
      (∀ d, d < 4 → (s.die d).present = true → reports.getD d none = none →
        (t.die d).missed = (s.die d).missed + 1 ∧ (t.die d).volt = (s.die d).volt ∧
        (1 ≤ (s.die d).missed → (t.die d).sensorFault = true ∧ (t.die d).f = 16))

/-- 14 R340: the budgets of a gate period together never exceed what the cap leaves beside the rest of the module. -/
def Obligations.BudgetsStayUnderTheCap : Prop :=
  ∀ s : State, (∀ d, (s.die d).f ≤ 64) →
    let avail : Rat := (s.cfg 0x3010 1 : Nat) - (sumN (s.gov.restWin.take 10) : Rat) / 100
    0 ≤ avail →
    (s.budgets.die 0).budget + (s.budgets.die 1).budget + (s.budgets.die 2).budget + (s.budgets.die 3).budget ≤ avail

/-- 14 R354 to R356, Table 14.4, 21 R477: the rungs of the ladder. -/
def Obligations.LadderMoves : Prop :=
  -- 14 R354, Table 14.4: an idle module whose dwell for the next rung has passed, and which may enter it, steps down one rung, from
  -- L0 to L1 with every voltage target at 550 mV; before the dwell nothing moves; the end of a scrub burst returns to the rung it came
  -- from.
  (∀ s : State, s.runs = true → s.start.held = false →
     (∀ t0, s.idle = true → s.gov.idleSince = some t0 → s.gov.ladder < 4 → s.mayEnter (s.gov.ladder + 1) = true →
       t0.toNat + 100 * s.cfg 0x3020 (s.gov.ladder + 2) ≤ s.now →
       ∃ t, exec .ladderDescend s = .next t ∧ t.gov.ladder = s.gov.ladder + 1 ∧ t.pairs = s.pairs ∧
         (s.gov.ladder = 0 → t.mem = s.mem ∧ t.mus = s.mus ∧ ∀ d, d < 4 → (t.die d).vtarget = 550) ∧
         (s.gov.ladder = 1 → t.mem = s.mem ∧ t.mus = s.mus ∧ ∀ d, d < 4 → (t.die d).pace = 0) ∧
         (s.gov.ladder = 2 → ∀ u, (t.mu u).toks = [])) ∧
     (∀ t0, s.idle = true → s.gov.idleSince = some t0 → s.now < t0.toNat + 100 * s.cfg 0x3020 (s.gov.ladder + 2) →
       exec .ladderDescend s = .next s) ∧
     (∀ n, s.gov.scrubFrom = some n → ∃ t, exec .ladderDescend s = .next t ∧ t.gov.ladder = n ∧ t.gov.scrubFrom = none)) ∧
  -- 14 R354 to R356, 21 R477, 01 R35: a wake whose cause is there returns from L1 to L3 to L0 (to L1 after a lost link; from L3 once a link is back); a scrub burst wakes L2 or L3 to L1
  -- and notes where from; L4 is left only when stages 3 and 4 measure as before, with every era one on, local counts at 0, the key-value
  -- store empty and no token in any feed store, and else the module resets.
  (∀ s : State, s.runs = true →
     (∀ why, 1 ≤ s.gov.ladder → s.gov.ladder ≤ 3 → s.wakeCause why = true →
       (why ≠ .linkLoss → s.gov.ladder = 3 → s.linkBack = true) →
       ∃ t, exec (.ladderWake why) s = .next t ∧ t.gov.ladder = (if why = .linkLoss then 1 else 0) ∧ t.gov.idleSince = none ∧
         t.gov.scrubFrom = none ∧ t = { s with gov := t.gov } ∧ t.gov.lastGate = s.gov.lastGate) ∧
     (∀ why, s.wakeCause why = false → exec (.ladderWake why) s = .next s) ∧
     ((s.gov.ladder = 2 ∨ s.gov.ladder = 3) →
       ∃ t, exec .scrubBurstWake s = .next t ∧ t.gov.ladder = 1 ∧ t.gov.scrubFrom = some s.gov.ladder ∧ t = { s with gov := t.gov }) ∧
     (∀ stages, s.gov.ladder = 4 → s.gov.l4Wake = true →
       (stages.map sha3_256 = s.start.stageIsland →
         ∃ t, exec (.l4Exit stages) s = .next t ∧ t.gov.ladder = 0 ∧ t.gov.l4Wake = false ∧ t.kv = {} ∧ t.caches = [] ∧
           (∀ d, d < s.dieCount → t.clock.era.get 0 d = s.clock.era.get 0 d + 1 ∧ t.clock.localc.get 0 d = 0) ∧
           t.mem.cells = [] ∧ (∀ u, (t.mu u).toks = []) ∧ t.dict = s.dict ∧ t.log = s.log) ∧
       (stages.map sha3_256 ≠ s.start.stageIsland →
         ∃ t, exec (.l4Exit stages) s = .next t ∧ t.start.power = .reset ∧ t.launches = [])))

/-! ### Items of a context -/

/-- 13 R320, R321, 04 R106 to R114, 05 R149 to R151, 11 R277, R283, R285: NOP, the DESC items, LOAD, UNLOAD and the RNG items. -/
def Obligations.DescriptorProgramAndRandomItems : Prop :=
  -- 13 R320, R321, 04 R106 to R114, 05 R149 to R151: NOP does nothing; DESC-CREATE enters a descriptor whose checks pass under the
  -- lowest free handle and is refused with the code of the first check that fails; DESC-DESTROY and DESC-STATUS act on a live one; LOAD
  -- enters a program whose checks pass and UNLOAD removes one that no launch runs, waiting while one does.
  (∀ (q n : Nat) (hd : Header) (qu : Queue) (c : Ctx) (s : State),
     (s.lone q hd .nop qu → s.itemRuns (.nop q hd) s.took q hd qu 0 0 0) ∧
     (∀ im, s.loneIn q hd (.descCreate im) qu n c →
       let c' := { c with descs := s.keptDescs n c }
       (∀ k, descCode c' im = 0 → c'.descs.free 1 65535 = some k →
         s.itemRuns (.descCreate q hd im)
           { s.took with ctxs := s.ctxs.put n { c' with descs := c'.descs.put k { image := descCopy im } } }
           q hd qu 0 0 (BitVec.ofNat 64 k)) ∧
       (descCode c' im ≠ 0 →
         s.itemRuns (.descCreate q hd im) { s.took with ctxs := s.ctxs.put n c' } q hd qu 2 (descCode c' im) 0)) ∧
     (∀ h, s.loneIn q hd (.descDestroy h) qu n c →
       (∀ d, c.desc h = some d → c.scaleNamed h = false →
         let c' := { c with descs := c.descs.upd h (fun d => { d with dead := true }) }
         s.itemRuns (.descDestroy q hd h) { s.took with ctxs := s.ctxs.put n { c' with descs := s.keptDescs n c' } }
           q hd qu 0 0 0) ∧
       (∀ d, c.desc h = some d → c.scaleNamed h = true → s.itemRuns (.descDestroy q hd h) s.took q hd qu 2 0x67 0) ∧
       (c.desc h = none → s.itemRuns (.descDestroy q hd h) s.took q hd qu 2 0x62 0)) ∧
     (∀ h clr d, s.loneIn q hd (.descStatus h clr) qu n c → c.desc h = some d →
       s.itemRuns (.descStatus q hd h clr)
         { s.took with ctxs := if clr then
             s.ctxs.put n { c with descs := c.descs.upd h (fun d => { d with status := 0 }) } else s.ctxs }
         q hd qu 0 0 d.status) ∧
     (∀ im, s.loneIn q hd (.load im) qu n c →
       (∀ a b k, loadCode im = 0 → s.imagePlace n c im = some (a, b) → c.progs.free 1 65535 = some k →
         s.itemRuns (.load q hd im)
           { s.took with
             ctxs := s.ctxs.put n { c with
               progs := c.progs.put k
                 { image := im, base := c.slotOrg + a, ibase := b, lanes := usesJump ((zprog im.code).getD []) } } }
           q hd qu 0 0 (BitVec.ofNat 64 k)) ∧
       (loadCode im ≠ 0 → s.itemRuns (.load q hd im) s.took q hd qu 2 (loadCode im) 0) ∧
       (loadCode im = 0 → s.imagePlace n c im = none → s.itemRuns (.load q hd im) s.took q hd qu 2 0x0C 0)) ∧
     (∀ h, s.loneIn q hd (.unload h) qu n c → c.progs.has h = true →
       ((∀ e ∈ s.launches, e.2.ctx = n → e.2.prog = h → e.2.st = .done) →
         s.itemRuns (.unload q hd h)
           { s.took with
             ctxs := s.ctxs.put n { c with progs := c.progs.del h }, dies := (s.forget (· == 65536 * n + h)).dies } q hd qu 0 0 0) ∧
       ((∃ e ∈ s.launches, e.2.ctx = n ∧ e.2.prog = h ∧ e.2.st ≠ .done) → s.itemWaits (.unload q hd h) q hd (.unload h) qu))) ∧
  -- 11 R277, R283, R285: RNG-SEED puts its value into the seed slot; RNG-JUMP sets the jump state of the units in service its mask
  -- names, and waits while a launch of its context runs on one; a slot above 15 or a reserved bit is code 0x51, a mask that names no
  -- unit in service is 0x52.
  (∀ (q n : Nat) (hd : Header) (qu : Queue) (c : Ctx) (s : State) (slot rsv : Nat),
     (∀ v, s.loneIn q hd (.rngSeed slot v rsv) qu n c →
       (slot ≤ 15 → rsv = 0 →
         s.itemRuns (.rngSeed q hd slot v rsv) { s.took with ctxs := s.ctxs.put n { c with seeds := c.seeds.put slot v } }
           q hd qu 0 0 0) ∧
       ((15 < slot ∨ rsv ≠ 0) → s.itemRuns (.rngSeed q hd slot v rsv) s.took q hd qu 2 0x51 0)) ∧
     (∀ stream mask, s.loneIn q hd (.rngJump slot stream mask rsv) qu n c →
       let units := (List.range 64).filter (fun u => flag mask u && s.unitInService u)
       let busy := ∃ e ∈ s.launches, e.2.ctx = n ∧ ∃ u ∈ units, e.2.st = .running u
       (slot ≤ 15 → rsv = 0 → units ≠ [] → ¬ busy →
         ∃ c', s.itemRuns (.rngJump q hd slot stream mask rsv) { s.took with ctxs := s.ctxs.put n c' } q hd qu 0 0 0 ∧
           c' = { c with jump := c'.jump, jumpOp := some (slot, stream, mask) } ∧
           (∀ u ∈ units, c'.jump.find u = some (jumpUnit (c.seed slot) stream u)) ∧
           ∀ u, ¬ u ∈ units → c'.jump.find u = c.jump.find u) ∧
       (slot ≤ 15 → rsv = 0 → busy → s.itemWaits (.rngJump q hd slot stream mask rsv) q hd (.rngJump slot stream mask rsv) qu) ∧
       ((15 < slot ∨ rsv ≠ 0) → s.itemRuns (.rngJump q hd slot stream mask rsv) s.took q hd qu 2 0x51 0) ∧
       (slot ≤ 15 → rsv = 0 → units = [] → s.itemRuns (.rngJump q hd slot stream mask rsv) s.took q hd qu 2 0x52 0)))

/-- 08 R220 to R228, R231 to R234: the KV items and KV_RELEASE. -/
def Obligations.KeyValueItems : Prop :=
  -- 08 R220 to R228: KV-OPEN enters a record whose fields, entries and cover are good, writes it to its allocation and maps that
  -- read-only; KV-EXTEND appends entries and length, and is refused where its OLDLEN is stale (0x25), or it leaves the record
  -- uncovered (0x23); a ring record takes a length only.
  (∀ (q n : Nat) (hd : Header) (qu : Queue) (c : Ctx) (s : State),
     (∀ p es, s.loneIn q hd (.kvOpen p) qu n c → entriesOf p.entries = some es →
       let k := p.record n c.part es
       let ok := k.fieldsOk && k.fits c && k.covered 0 && es.all (k.entryOk c)
       (∀ h, ok = true → s.kv.recs.free 0 8191 = some h →
         ∃ u, s.itemRuns (.kvOpen q hd p) u q hd qu 0 0 (BitVec.ofNat 64 h) ∧
           Reaches { s.took with
             kv := { s.kv with recs := s.kv.recs.put h k }
             ctxs := s.ctxs.put n { c with allocs := c.allocs.upd k.alloc (fun a => { a with locked := true }) } } u ∧
           ∀ a, ¬ (c.unlocked k.alloc).stores (k.va c) (k.bytes c ++ k.entries.flatMap KvEntry.bytes).length a →
             u.mem.get a = s.mem.get a) ∧
       (ok = true → s.kv.recs.free 0 8191 = none → s.itemRuns (.kvOpen q hd p) s.took q hd qu 2 0x21 0) ∧
       (ok = false → s.itemRuns (.kvOpen q hd p) s.took q hd qu 2 0x23 0)) ∧
     (∀ h oldlen newlen new es k, s.loneIn q hd (.kvExtend h oldlen newlen new []) qu n c → s.kvRec n h = some k →
       entriesOf new = some es → newlen ≤ k.limit → newlen ≤ 2 ^ 20 →
       (oldlen ≠ k.len → s.itemRuns (.kvExtend q hd h oldlen newlen new []) s.took q hd qu 2 0x25 0) ∧
       (oldlen = k.len → k.ring = 0 → k.touchedShared newlen = none →
         let k' := { k with entries := k.entries ++ es, len := newlen }
         let ok := k'.covered newlen && es.all (k'.entryOk c) && k'.fits c
         (ok = true → ∃ u, s.itemRuns (.kvExtend q hd h oldlen newlen new []) u q hd qu 0 0 0 ∧
           Reaches { s.took with kv := { s.kv with recs := s.kv.recs.put h k' } } u) ∧
         (ok = false → s.itemRuns (.kvExtend q hd h oldlen newlen new []) s.took q hd qu 2 0x23 0)) ∧
       (oldlen = k.len → oldlen ≤ newlen → k.ring = 0 → k.touchedShared newlen ≠ none →
         s.itemRuns (.kvExtend q hd h oldlen newlen new []) s.took q hd qu 2 0x24 0) ∧
       (oldlen = k.len → oldlen ≤ newlen → k.ring ≠ 0 → new = [] → newlen - k.len ≤ k.ring - 16 →
         ∃ u, s.itemRuns (.kvExtend q hd h oldlen newlen new []) u q hd qu 0 0 0 ∧
           Reaches { s.took with kv := { s.kv with recs := s.kv.recs.put h { k with len := newlen } } } u))) ∧
  -- 08 R227, R231 to R234: KV-MATCH attaches at most the blocks of the prompt and of LIMIT, returns their number and makes it the
  -- record's length in blocks, none where the first block is in no node; KV-PUBLISH returns how many blocks it inserted and changes no
  -- record; KV-CLOSE releases a record at once where no launch of its context lives, and marks it closing where one does; KV_RELEASE
  -- releases it when those have ended.
  ((∀ (q n h : Nat) (hd : Header) (qu : Queue) (c : Ctx) (s s1 : State) (k : KvRec) (f : DescF) (ts : List W32),
     s.kvRec n h = some k → k.ring = 0 →
     (∀ tokens count, s.loneIn q hd (.kvMatch h tokens count) qu n c → k.len = 0 → k.entries = [] →
       c.tokenBuf tokens count = some f →
       let nb := min (count / 16) (k.limit / 16)
       (s.begun q hd (.kvMatch h tokens count) qu).readTokens c f 0 (16 * nb) = (s1, .ok, ts) →
       ∃ u m, s.itemRuns (.kvMatch q hd h tokens count) u q hd qu 0 0 (BitVec.ofNat 64 m) ∧ m ≤ nb ∧ u.ctxs = s.ctxs ∧
         (0 < m → ∃ k', u.kv.recs.find h = some k' ∧ k'.len = 16 * m ∧ k'.sharedBlocks = m ∧ k'.limit = k.limit) ∧
         (∀ r, r ≠ h → u.kv.recs.find r = s.kv.recs.find r) ∧
         (s.kvHit k c (blockKey k.rootKey (ts.take 16)) noNode (ts.take 16) = none → m = 0 ∧ u.kv = s.kv)) ∧
     (∀ tokens, s.loneIn q hd (.kvPublish h tokens) qu n c → c.tokenBuf tokens (16 * (k.len / 16)) = some f →
       (s.begun q hd (.kvPublish h tokens) qu).readTokens c f 0 (16 * (k.len / 16)) = (s1, .ok, ts) →
       ∃ u m, s.itemRuns (.kvPublish q hd h tokens) u q hd qu 0 0 (BitVec.ofNat 64 m) ∧ m ≤ k.len / 16 - k.sharedBlocks ∧
         u.kv.recs = s.kv.recs ∧ u.ctxs = s.ctxs) ∧
     (s.loneIn q hd (.kvClose h) qu n c →
       (s.liveLaunches n = [] → ∃ u, s.itemRuns (.kvClose q hd h) u q hd qu 0 0 0 ∧ u.kv.recs = s.kv.recs.del h ∧
         u.kv = (s.releaseRec h k).kv ∧ u.mem = s.mem) ∧
       (s.liveLaunches n ≠ [] → exec (.kvClose q hd h) s = .next { s.begun q hd (.kvClose h) qu with kv := { s.kv with
         recs := s.kv.recs.put h { k with closing := true, waits := s.liveLaunches n, item := (q, s.nextItem) } } }))) ∧
   (∀ (r : Nat) (s : State) (k : KvRec), s.kv.recs.find r = some k → k.closing = true →
     ((∀ l ∈ k.waits, ∀ x, s.launches.find l = some x → x.st = .done) →
       ∃ t, exec (.kvRelease r) s = .next t ∧ t.kv = (s.releaseRec r k).kv ∧ t.kv.recs = s.kv.recs.del r) ∧
     ((∃ l ∈ k.waits, ∃ x, s.launches.find l = some x ∧ x.st ≠ .done) → exec (.kvRelease r) s = .next s)))

/-- 09 R237 to R239, R245, R249, R251 to R255: SKIM-BEGIN opens the lowest free slot with its queue's skim attributes; SKIM-REC
enters a record; SKIM-STEP counts the step, flips PAR and clears the counts of the slot's records, and marks VALID a record that
trued without a bad tile; SKIM-QUERY returns the record's bytes; SKIM-END frees the slot and its records die. -/
def Obligations.SkimItems : Prop :=
  ∀ (q n : Nat) (hd : Header) (qu : Queue) (c : Ctx) (s : State),
    (∀ base adj k, s.loneIn q hd (.skimBegin base adj) qu n c →
      (if qu.attrs.skmode = 2 then base.length = 1024 ∧ adj.length = 64 else base = [] ∧ adj = []) →
      (∀ b ∈ base, b.toNat ≤ 127 ∨ b.toNat = 255) → s.samples.free 0 127 = some k →
      let used := (s.samples.filter (fun e => e.2.part == c.part)).length
      (used < s.cfg 0x4014 (c.part + 1) →
        s.itemRuns (.skimBegin q hd base adj) { s.took with
          samples := s.samples.put k { queue := q, ctx := n, part := c.part, attrs := qu.attrs, base, adj } }
          q hd qu 0 0 (BitVec.ofNat 64 k)) ∧
      (s.cfg 0x4014 (c.part + 1) ≤ used → s.itemRuns (.skimBegin q hd base adj) s.took q hd qu 2 0x31 0)) ∧
    (∀ im k h, s.loneIn q hd (.skimRec im) qu n c →
      let r : SkimRec := { image := im }
      s.slotOf n r.slot = some k → (s.keptSkims n c).free 1 65535 = some h →
      (skimImageOk im = true → refsOk c r.xref r.yref = true →
        s.itemRuns (.skimRec q hd im) { s.took with
          ctxs := s.ctxs.put n { c with skims := (s.keptSkims n c).put h r } }
          q hd qu 0 0 (BitVec.ofNat 64 h)) ∧
      ((skimImageOk im = false ∨ refsOk c r.xref r.yref = false) →
        s.itemRuns (.skimRec q hd im) { s.took with ctxs := s.ctxs.put n { c with skims := s.keptSkims n c } }
          q hd qu 2 0x33 0)) ∧
    (∀ slot k, s.loneIn q hd (.skimStep slot) qu n c → s.slotOf n slot = some k →
      ∃ u c', s.itemRuns (.skimStep q hd slot) u q hd qu 0 0 0 ∧
        u = { s.took with samples := s.samples.put slot k.advance, ctxs := s.ctxs.put n c' } ∧
        c' = { c with skims := c'.skims } ∧ k.advance.step = k.step + 1 ∧
        k.advance.truing = (k.attrs.skmode == 0 || (k.step + 1).toNat % k.attrs.truen == 0) ∧
        c'.skims = c.skims.map (fun e => if e.2.slot == slot && !e.2.dead then (e.1, e.2.advance k.advance) else e) ∧
        ∀ r : SkimRec, (r.advance k.advance).par = !r.par ∧ (r.advance k.advance).skipb = 0 ∧
          (r.advance k.advance).strmb = 0 ∧ (r.advance k.advance).tiles = 0 ∧
          (r.advance k.advance).valid = (r.valid || (r.true' && !r.bad && decide (0 < r.tiles)))) ∧
    (∀ h r k, s.loneIn q hd (.skimQuery h) qu n c → c.skims.find h = some r → r.dead = false → s.slotOf n r.slot = some k →
      s.itemRuns (.skimQuery q hd h) (s.took.send (.itemData q (r.queryBytes k))) q hd qu 0 0 0) ∧
    (∀ slot k, s.loneIn q hd (.skimEnd slot) qu n c → s.slotOf n slot = some k →
      s.itemRuns (.skimEnd q hd slot) { s.took with
        samples := s.samples.del slot
        ctxs := s.ctxs.put n { c with skims := c.skims.map (fun e =>
          if e.2.slot == slot then (e.1, { e.2 with dead := true }) else e) } } q hd qu 0 0 0)

/-- 13 R319, R320, 05 R145 to R148, 10 R269, R270: a LAUNCH that passes its checks makes its launches, each with its index,
parameters and dies, and its item waits for them; LIST-BEGIN opens a list, LIST-END closes it with its handle; a REPLAY puts the
list's entries, patched, behind itself; a SPINDLE-RUN that passes its checks joins its die's jobs with the seed of its destination.
-/
def Obligations.WorkItems : Prop :=
  ∀ (q n : Nat) (hd : Header) (qu : Queue) (c : Ctx) (s : State),
    (∀ p, s.loneIn q hd (.launch p) qu n c →
      (s.launchCode c p = 0 → (∀ i, i ≤ p.count → (p.diesOf i).any s.dieServes = true) →
        ∃ t, exec (.launch q hd p) s = .next t ∧
          t = { s.begun q hd (.launch p) qu with launches := t.launches, nextLaunch := s.nextLaunch + p.count + 1 } ∧
          (∀ i, i ≤ p.count → t.launches.find (s.nextLaunch + i) = some
            { queue := q, item := s.nextItem, ctx := n, prog := p.prog, idx := i, params := p.paramsOf i, dies := p.diesOf i
              pin := if p.pv then some (p.pin + i) else none, lc := qu.attrs.cls == 0, level := qu.attrs.level
              startedAt := s.clock.refc, age := qu.attrs.age / 10 }) ∧
          ∀ k, k < s.nextLaunch → t.launches.find k = s.launches.find k) ∧
      (s.launchCode c p = 0 → (∃ i, i ≤ p.count ∧ (p.diesOf i).any s.dieServes = false) →
        s.itemRuns (.launch q hd p) s.took q hd qu 4 0 0) ∧
      (s.launchCode c p ≠ 0 → s.itemRuns (.launch q hd p) s.took q hd qu 2 (s.launchCode c p) 0)) ∧
    (∀ k, s.lone q hd .listBegin qu → qu.recording = none → s.lists.free 1 0xFFFFFFFF = some k →
      ∃ t x, exec (.listBegin q hd) s = .next t ∧
        ({ s.took with lists := s.lists.put k { queue := q, entries := [] } }).itemEnded t q hd qu 0 0 0 ∧
        t.lists = s.lists.put k { queue := q, entries := [] } ∧ t.queues.find q = some x ∧ x.recording = some k) ∧
    (∀ k l, s.lone q hd .listEnd qu → qu.recording = some k → s.lists.find k = some l →
      (l.entries ≠ [] → ∃ t x, exec (.listEnd q hd) s = .next t ∧
        ({ s.took with lists := s.lists.put k { l with closed := true } }).itemEnded t q hd qu 0 0 (BitVec.ofNat 64 k) ∧
        t.lists = s.lists.put k { l with closed := true } ∧ t.queues.find q = some x ∧ x.recording = none) ∧
      (l.entries = [] → ∃ t x, exec (.listEnd q hd) s = .next t ∧
        ({ s.took with lists := s.lists.del k }).itemEnded t q hd qu 2 0x63 0 ∧ t.lists = s.lists.del k ∧
        t.queues.find q = some x ∧ x.recording = none)) ∧
    (∀ k l patch, s.loneIn q hd (.replay k patch) qu n c → s.lists.find k = some l → l.queue = q → l.closed = true →
      (∀ p, patch = some p → c.patchOk k l p = true) →
      (l.running = none → l.entries.length ≤ 4096 →
        let b := s.begun q hd (.replay k patch) qu
        let l' := (match patch with | some p => l.patch p | none => l)
        let subs := (List.range l.entries.length).filterMap (fun j =>
          (l.entries[j]?).map (l'.subItem s.nextItem (s.nextItem + 1) j))
        ∃ m, l.entries.length < m ∧ exec (.replay q hd k patch) s = .next (State.pumpF { b with
          lists := s.lists.put k { l' with running := some s.nextItem }, nextItem := s.nextItem + 1 + l.entries.length
          queues := s.queues.put q { qu with items := s.loneItem hd (.replay k patch) qu :: subs
                                             head := (qu.head + headerUnits hd) % 2 ^ (qu.tr.sqlog - 6) } } q m)) ∧
      (l.running ≠ none → exec (.replay q hd k patch) s = .next { s with
        nextItem := s.nextItem + 1
        queues := s.queues.put q { qu with
          items := [{ id := s.nextItem, hdr := hd, body := .replay k patch }]
          head := (qu.head + headerUnits hd) % 2 ^ (qu.tr.sqlog - 6) } })) ∧
    (∀ w, s.loneIn q hd (.spindleRun w) qu n c →
      let j := jobOf w
      (∀ g, s.jobCode c j = 0 → (s.die j.die).disabled = false → j.descs c = some g →
        ∃ t x, exec (.spindleRun q hd w) s = .next t ∧
          t = { s.begun q hd (.spindleRun w) qu with spin := s.spin.put j.die (s.spin.get [] j.die ++ [x]), dies := t.dies } ∧
          x.job = w ∧ x.queue = q ∧ x.item = s.nextItem ∧ x.ctx = n ∧ x.seed = c.seed g.dst.seedSlot ∧ x.group = 0 ∧
          x.strip = 0 ∧ x.row = 0 ∧ x.stop = false ∧ ∀ d, d ≠ j.die → t.dies.find d = s.dies.find d) ∧
      (s.jobCode c j = 0 → (s.die j.die).disabled = true → s.itemRuns (.spindleRun q hd w) s.took q hd qu 4 0 0) ∧
      (s.jobCode c j ≠ 0 → s.itemRuns (.spindleRun q hd w) s.took q hd qu 2 (s.jobCode c j) 0))

/-- 13 R318, R320, R324, R501, Tables 13.5, 13.7: ITEM_START starts the waiting NOP of a queue that may start, and leaves it while
its wait is not met. It also takes an item as the bytes of its header and payload: they are read bit by bit as Table 13.5 lays them
out, OP names the item, which then is as its own command would have it, and an OP that names none is refused with 0x63. -/
def Obligations.ItemStartStarts : Prop :=
  (∀ (q : Nat) (s : State) (qu : Queue) (it : QItem), s.queues.find q = some qu →
    it = { id := it.id, hdr := it.hdr, body := .nop, st := .waiting } →
    qu.items = [it] → qu.halted = false → qu.disabled = false → qu.waitRecs = [] → qu.recording = none →
    s.headerCode qu it.hdr .nop = 0 → (it.hdr.dline = 0 ∨ s.clock.refc < it.hdr.dline) →
    ((it.hdr.wv = true → ∀ m, s.sems.find it.hdr.wsem = some m → it.hdr.wval ≤ m.value ∧ (it.hdr.wf = true → m.failed < it.hdr.wval)) →
      s.itemRuns (.itemStart q none) s q it.hdr qu 0 0 0) ∧
    (∀ m, it.hdr.wv = true → s.sems.find it.hdr.wsem = some m → m.value < it.hdr.wval → exec (.itemStart q none) s = .next s)) ∧
  (∀ (q : Nat) (op : Byte) (hd : Header) (p : List Byte) (s : State), hd.plen < 2 ^ 16 → hd.wsem < 2 ^ 14 → hd.ssem < 2 ^ 14 →
    hd.rsv = 0 →
    let i := Instr.itemStart q (some (headerBytes op hd ++ p))
    (headerBytes op hd).length = 64 ∧ headerOf (headerBytes op hd ++ p) = (op, hd) ∧
    (op = 0x01 → exec i s = exec (.launch q hd (launchOf p)) s) ∧ (op = 0x03 → exec i s = exec (.listBegin q hd) s) ∧
    (op = 0x04 → exec i s = exec (.listEnd q hd) s) ∧ (op = 0x09 → exec i s = exec (.nop q hd) s) ∧
    (op = 0x08 → exec i s = exec (.spindleRun q hd (BitVec.ofNat 512 (leNat (p.take 64)))) s) ∧
    (op = 0x10 → exec i s = exec (.descCreate q hd (BitVec.ofNat 1024 (leNat (p.take 128)))) s) ∧
    (op = 0x29 → exec i s = exec (.skimRec q hd (BitVec.ofNat 256 (leNat (p.take 32)))) s) ∧
    (op = 0x61 → exec i s = exec (.codecFrame q hd (BitVec.ofNat 512 (leNat (p.take 64)))) s) ∧
    ∀ qu, itemOps.contains op.toNat = false → (hd.dline = 0 ∨ s.clock.refc < hd.dline) → s.queues.find q = some qu → s.runs = true →
      qu.holdsItem hd = true →
      qu.items = [] → qu.halted = false → qu.disabled = false → qu.waitRecs = [] → s.itemRuns i s.took q hd qu 2 0x63 0)

/-- 13 R317, R334: DEADLINE_MISS on a latency-critical item whose deadline has come and which has not missed it yet: the miss is
reported with cause 0x38, once; under DPOL 0 the item goes on, under DPOL 1 a waiting one ends with STATUS 6, under DPOL 2 it is
demoted with its launches. With nothing due the command changes nothing. -/
def Obligations.DeadlineMissReports : Prop :=
  ∀ (q id : Nat) (s : State) (qu : Queue) (it : QItem), s.queues.find q = some qu → qu.item id = some it →
    let dpol := (it.attrsIn qu).dpol
    let due := it.hdr.dline ≠ 0 ∧ (it.attrsIn qu).cls = 0 ∧ it.missed = false ∧ it.hdr.dline ≤ s.clock.refc
    let report (b : Bool) := (s.modItem q id (fun i => { i with missed := true, demoted := b })).raise
      { cause := 0x38, part := some qu.part, ctx := qu.ctx, queue := some q, detail := s.clock.refc }
    (due → dpol ≠ 1 → dpol ≠ 2 → exec (.deadlineMiss q id) s = .next (report false) ∧
      (report false).item q id = some { it with missed := true, demoted := false } ∧
      Records { s with queues := (report false).queues } (report false) ∧
      ∀ p, p ≠ q → (report false).queues.find p = s.queues.find p) ∧
    (due → dpol = 1 → qu.items = [it] → it.st = .waiting → s.framed q id = false → it.parent = none → it.attrs = none →
      qu.halted = false → qu.waitRecs = [] →
      s.itemRuns (.deadlineMiss q id) (report false) q it.hdr qu 6 0 0) ∧
    (due → dpol = 2 → (∀ i ∈ qu.items, i.parent = none) → (s.launches.map (·.1)).Nodup →
      ∃ t, exec (.deadlineMiss q id) s = .next t ∧ t.item q id = some { it with missed := true, demoted := true } ∧
        (∀ l x, s.launches.find l = some x → x.queue = q → x.item = id → ∃ y, t.launches.find l = some y ∧
          y = { x with lc := false, level := 0, startedAt := s.clock.refc, dispatchedAt := s.clock.refc }) ∧
        (∀ l x, s.launches.find l = some x → ¬ (x.queue = q ∧ x.item = id) → t.launches.find l = some x) ∧ t.mem = s.mem) ∧
    (¬ due → exec (.deadlineMiss q id) s = .next s)

/-- 10 R265 to R271: SPINDLE_ROW completes the output row at which the job that a die's engine runs stands, from the engine's
buffers and what it reads anew. The job goes on at its next row, strip or group; it leaves and its item ends after the last, with
STATUS 0, and after the row in which a disable found it, with STATUS 5. Jobs of other dies are as they were; an engine out of
service and one with no job do nothing. -/
def Obligations.SpindleRowsComplete : Prop :=
  (∀ (d : Fin 4) (s s0 s1 : State) (k : Nat) (x : SpinJob) (c : Ctx) (b : SpinBuf) (cnt : Cnt),
    s.runs = true → (s.die d.val).spindleOut = false → (s.die d.val).failed = false → s.spinJob d.val = some (k, x) →
    s.ctxs.find x.ctx = some c →
    let j := jobOf x.job
    let desc (h : Nat) : DescF := descOf (((c.descs.find h).map (·.image)).getD 0)
    let g : JobD := ⟨desc j.src, desc j.dst, desc j.wgt, if j.nin || j.nout then some (desc j.nrm) else none⟩
    let lanes := (List.range (min 16 (g.dst.dim 0 - 16 * x.group))).map (16 * x.group + ·)
    let cols := (List.range (min 512 (g.dst.dim 2 - 512 * x.strip))).map (512 * x.strip + ·)
    s.spinFill d.val c j g x lanes (j.oy0 + x.row) = (s0, .ok, b) →
    State.spinElems { s0 with spinBuf := s0.spinBuf.put d.val b } c j g b x.seed (j.oy0 + x.row)
      (lanes.flatMap (fun n => cols.map (fun o => (n, o)))) {} = (s1, .ok, cnt) →
    let strips := cdiv (g.dst.dim 2) 512
    let last := j.rows ≤ x.row + 1 ∧ strips ≤ x.strip + 1 ∧ cdiv (g.dst.dim 0) 16 ≤ x.group + 1
    (¬ last → x.stop = false →
      ∃ t y, exec (.spindleRow ⟨d, .none⟩) s = .next t ∧ t.spin = s.spin.put d.val ((s.spin.get [] d.val).set k y) ∧
        y = { x with group := y.group, strip := y.strip, row := y.row, lastEnergy := y.lastEnergy } ∧
        (y.group, y.strip, y.row) = (if x.row + 1 < j.rows then (x.group, x.strip, x.row + 1)
          else if x.strip + 1 < strips then (x.group, x.strip + 1, 0) else (x.group + 1, 0, 0)) ∧
        t.mem = s1.mem ∧ t.queues = s1.queues ∧ t.out = s1.out ∧ t.launches = s.launches) ∧
    ((last ∨ x.stop = true) →
      ∃ t, exec (.spindleRow ⟨d, .none⟩) s = .next t ∧ t.spin = s.spin.put d.val ((s.spin.get [] d.val).eraseIdx k) ∧
        t.item x.queue x.item = none ∧ t.launches = s.launches ∧
        ∀ qu it, s1.queues.find x.queue = some qu → qu.item x.item = some it → it.forced = none → it.parent = none →
          it.missed = false → s.late qu it = false → qu.roomy = true → qu.waitRecs = [] →
          ∃ ms, t.out = s1.out ++ .completion x.queue it.hdr.tag (if j.rows ≤ x.row + 1 ∧ strips ≤ x.strip + 1 ∧
            cdiv (g.dst.dim 0) 16 ≤ x.group + 1 then 0 else 5) 0 0 :: ms)) ∧
  (∀ (d : Fin 4) (s : State),
    ((s.runs = false ∨ (s.die d.val).spindleOut = true ∨ (s.die d.val).failed = true) → exec (.spindleRow ⟨d, .none⟩) s = .next s) ∧
    (s.spin.get [] d.val = [] → ∃ t, exec (.spindleRow ⟨d, .none⟩) s = .next t ∧ t = { s with dies := t.dies } ∧
      ∀ e, e ≠ d.val → t.dies.find e = s.dies.find e))

/-! ### Admin items -/

/-- 13 R311 to R314, R330 to R333: CTX-CREATE enters a context whose footprint fits, with its save areas, under the lowest free
number, and is refused past the partition's count (0x61), in bring-up mode or while queues use it (0x67), or for its footprint
(0x66); CTX-DESTROY removes one that no queue uses, once nothing of it runs, and disables it until then; CTX-SAVE asks its launches
to part and, when none runs, keeps an image of it. -/
def Obligations.ContextItems : Prop :=
  ∀ (q : Nat) (hd : Header) (qu : Queue) (s : State),
    (∀ fsr slices, s.loneAdmin q hd (.ctxCreate fsr slices) qu → fsr.length = 4 → slices.length = 4 →
      let run := s.itemRuns (.ctxCreate q hd fsr slices)
      (s.start.bringUp = 1 → run s.took q hd qu 2 0x67 0) ∧
      (s.start.bringUp ≠ 1 → s.cfg 0x4011 (qu.part + 1) ≤ s.openCtxs qu.part → run s.took q hd qu 2 0x61 0) ∧
      (s.start.bringUp ≠ 1 → s.openCtxs qu.part < s.cfg 0x4011 (qu.part + 1) →
        (s.footOk qu.part fsr slices = false → run s.took q hd qu 2 0x66 0) ∧
        (s.footOk qu.part fsr slices = true →
          (s.takeSave qu.part fsr slices = none → run s.took q hd qu 2 0x65 0) ∧
          ∀ areas k, s.takeSave qu.part fsr slices = some areas → s.ctxs.free 0 16383 = some k →
            let y : Ctx := { part := qu.part, fsr, slices, slotBase := s.newSlots fsr, saveAreas := areas }
            let tables := ({ s with ctxs := s.ctxs.put k y }).tablesFor qu.part y
            (tables = none → run s.took q hd qu 2 0x65 0) ∧
            ∀ ts, tables = some ts →
              run { s.took with ctxs := s.ctxs.put k { y with tables := ts } } q hd qu 0 0 (BitVec.ofNat 64 k)))) ∧
    (∀ c x, s.loneAdmin q hd (.ctxDestroy c) qu → s.ctxOf qu.part c = some x →
      (s.queuesOf c ≠ [] → s.itemRuns (.ctxDestroy q hd c) s.took q hd qu 2 0x67 0) ∧
      (s.queuesOf c = [] → (∀ e ∈ s.kv.recs, e.2.ctx ≠ c) → (∀ e ∈ s.samples, e.2.ctx ≠ c) →
        (∀ e ∈ s.codecs, ∀ y ∈ e.2.streams, y.2.ctx ≠ c) → (∀ e ∈ s.disables, e.2.scope ≠ .ctx c) →
        (s.scopeIdle (.ctx c) = true → s.itemRuns (.ctxDestroy q hd c) { s.took with
          ctxs := s.ctxs.del c, launches := s.launches.filter (fun e => e.2.ctx != c)
          dies := (s.forget (fun n => n / 65536 == c)).dies } q hd qu 0 0 0) ∧
        (s.scopeIdle (.ctx c) = false → exec (.ctxDestroy q hd c) s = .next { s.begun q hd (.ctxDestroy c) qu with
          ctxs := s.ctxs.put c { x with disabled := true }, nextDisable := s.nextDisable + 1
          disables := s.disables.put s.nextDisable { scope := .ctx c, fence := none, at' := s.clock.refc } }))) ∧
    (∀ c al x a, s.loneAdmin q hd (.ctxSave c al) qu → s.ctxOf qu.part c = some x → x.allocs.find al = some a →
      x.afterSave = [] →
      (x.notRestorable = true → ∃ u, s.itemRuns (.ctxSave q hd c al) u q hd qu 2 0x6A 0 ∧ u.saved = s.saved) ∧
      (x.notRestorable = false → s.saveBusy c = true →
        ∃ u, s.itemRuns (.ctxSave q hd c al) u q hd qu 2 0x67 0 ∧ u.saved = s.saved) ∧
      (x.notRestorable = false → s.saveBusy c = false → s.moving c = true →
        ∃ t, exec (.ctxSave q hd c al) s = .next t ∧
          t = { s.begun q hd (.ctxSave c al) qu with launches := t.launches } ∧
          ∀ l y u, s.launches.find l = some y → y.ctx = c → y.st = .running u →
            ∃ z, t.launches.find l = some z ∧ z.why.contains .save = true ∧ z.st = y.st) ∧
      (x.notRestorable = false → s.saveBusy c = false → s.moving c = false → x.resident = [] →
        let least := if x.laneFlag then 257 else 1
        let len := Config.freeNat s.fresh (2 ^ 32) % (2 ^ 32 - least) + least
        let body := natLe 8 s.unitMap.toNat ++ Config.freeBytes s.fresh (4096 * len - 0x48)
        4096 * len ≤ a.size →
        ∀ s2, ((s.begun q hd (.ctxSave c al) qu).draw.2).ctxWrite (x.unlocked al) a.va
            (s.imageHead x len ++ sha3_256 body ++ body) = (s2, .ok) →
        ∃ u v, s.itemRuns (.ctxSave q hd c al) u q hd qu 0 0 0 ∧ u.mem = s2.mem ∧
          u.saved = v :: s.saved.filter (fun e => e.digest != v.digest) ∧ v.digest = sha3_256 body ∧ v.clean = true ∧
          v.ctx = { x with savedFoot := s.allFeet x, resident := [] } ∧
          v.launches = (s.launches.filter (fun e => e.2.ctx == c && !e.2.isDone)).map (·.2) ∧
          v.slots = s.samples.filter (fun e => e.2.ctx == c)))

/-- 13 R333, R335 to R337: CTX-RESTORE re-creates the context of an image whose header fits and whose digest is that of a saved one,
with its tables, fences and seeds; CTX-DISABLE and Q-DISABLE enter a disable with its fence and value and stop what they name, and
wait for a save of their context. -/
def Obligations.RestoreAndDisableItems : Prop :=
  ∀ (q : Nat) (hd : Header) (qu : Queue) (s : State),
    (∀ al hc x a s1 s2 bs body v areas c s3 allocs s4 nums z tables, s.loneAdmin q hd (.ctxRestore al hc) qu →
      s.ctxOf qu.part hc = some x → x.allocs.find al = some a →
      (s.begun q hd (.ctxRestore al hc) qu).ctxRead x a.va 0x48 = (s1, .ok, bs) →
      let w0 := leNat (bs.take 8)
      let len := 4096 * bits w0 31 0
      s1.geometryBad w0 (leNat ((bs.drop 8).take 8)) (BitVec.ofNat 64 (leNat (bs.drop 0x40))) = false →
      0x48 ≤ len → len ≤ a.size → s1.ctxRead x (a.va + 0x40) (len - 0x40) = (s2, .ok, body) →
      (sha3_256 body ≠ (bs.drop 0x20).take 0x20 → ∃ u, s.itemRuns (.ctxRestore q hd al hc) u q hd qu 2 0x69 0 ∧ u.ctxs = s.ctxs) ∧
      (sha3_256 body = (bs.drop 0x20).take 0x20 → s2.saved.find? (fun e => e.digest == sha3_256 body) = some v →
        s2.openCtxs qu.part < s2.cfg 0x4011 (qu.part + 1) → s2.footOk qu.part v.ctx.fsr v.ctx.slices = true →
        s2.foreignPort qu.part v.ctx.allocs = false →
        s2.takeSave qu.part v.ctx.fsr v.ctx.slices = some areas → s2.ctxs.free 0 16383 = some c →
        let hold : Ctx :=
          { part := qu.part, fsr := v.ctx.fsr, slices := v.ctx.slices, slotBase := s2.newSlots v.ctx.fsr, saveAreas := areas }
        State.remap { s2 with ctxs := s2.ctxs.put c hold } qu.part v.ctx.allocs = some (s3, allocs) →
        ({ s3 with ctxs := s3.ctxs.filter (fun e => e.1 < 100000) }).placeSlots c qu.part v.slots = some (s4, nums) →
        s4.placeProgs c (v.rebuilt hold allocs nums) (v.programs hold) = some z →
        ({ s4 with ctxs := s4.ctxs.put c z }).tablesFor qu.part z = some tables →
        ∃ u y, s.itemRuns (.ctxRestore q hd al hc) u q hd qu 0 0 (BitVec.ofNat 64 c) ∧ u.ctxs.find c = some y ∧
          y.part = qu.part ∧ y.fsr = v.ctx.fsr ∧ y.slices = v.ctx.slices ∧ y.descs = v.ctx.descs ∧ y.fences = v.ctx.fences ∧
          y.seeds = v.ctx.seeds ∧ y.allocs = allocs ∧ y.savedFoot = v.ctx.savedFoot ∧ y.resident = [] ∧ y.tables = tables ∧
          y.progs.map (fun e => (e.1, e.2.image)) = z.progs.map (fun e => (e.1, e.2.image)) ∧
          u.nextLaunch = s.nextLaunch + v.launches.length)) ∧
    (∀ c k v x m, s.loneAdmin q hd (.ctxDisable c k v) qu → s.ctxOf qu.part c = some x → s.sems.find k = some m →
      (m.part ≠ qu.part → s.itemRuns (.ctxDisable q hd c k v) s.took q hd qu 2 0x62 0) ∧
      (m.part = qu.part → x.notRestorable = true → s.itemRuns (.ctxDisable q hd c k v) s.took q hd qu 2 0x6A 0) ∧
      (m.part = qu.part → x.notRestorable = false → s.saving c = true →
        s.itemWaits (.ctxDisable q hd c k v) q hd (.ctxDisable c k v) qu) ∧
      (m.part = qu.part → x.notRestorable = false → s.saving c = false → s.queuesOf c = [] →
        exec (.ctxDisable q hd c k v) s = .next { s.begun q hd (.ctxDisable c k v) qu with
          ctxs := s.ctxs.put c { x with disabled := true }, nextDisable := s.nextDisable + 1
          disables := s.disables.put s.nextDisable
            { scope := .ctx c, fence := some (k, v), at' := s.clock.refc, item := some (q, s.nextItem) } })) ∧
    (∀ n k v x m, s.loneAdmin q hd (.qDisable n k v) qu → s.queueOf qu.part n = some x → s.sems.find k = some m →
      (m.part ≠ qu.part → s.itemRuns (.qDisable q hd n k v) s.took q hd qu 2 0x62 0) ∧
      (m.part = qu.part → s.spoilt x.ctx = true → s.itemRuns (.qDisable q hd n k v) s.took q hd qu 2 0x6A 0) ∧
      (m.part = qu.part → s.spoilt x.ctx = false → (∀ c, x.ctx = some c → s.saving c = false) → x.items = [] →
        (∀ e ∈ s.launches, e.2.queue ≠ n) →
        (∀ e ∈ s.codecs, ∀ y ∈ e.2.streams, ∀ r ∈ y.2.ready, r.1 ≠ n) →
        ∃ t, exec (.qDisable q hd n k v) s = .next t ∧ t.queues.find n = some { x with disabled := true } ∧
          (∀ p, p ≠ n → p ≠ q → t.queues.find p = s.queues.find p) ∧ t.launches = s.launches ∧ t.mem = s.mem ∧
          t.disables = s.disables.put s.nextDisable
            { scope := .queue n, fence := some (k, v), at' := s.clock.refc, item := some (q, s.nextItem) }))

/-- 13 R335 to R337, Table 13.11: a disable whose scope is idle closes: it leaves the table, its fence is signalled and its item
ends; one whose scope still works waits; once 2 ms have passed its launches are aborted, with record 0x39, and it closes, at once or
when what they had issued has ended. -/
def Obligations.DisablesEnd : Prop :=
  ∀ (n : Nat) (s : State) (d : Disable), s.disables.find n = some d →
    (s.scopeIdle d.scope = true → s.innerDisables d.scope = [] →
      ∃ t, exec (.disableComplete n) s = .next t ∧ t.disables = s.disables.del n ∧
        (d.item = none → t.queues = s.queues ∧ t.mem = s.mem ∧
          ∀ k v, d.fence = some (k, v) → t.sems.find k = (s.sems.find k).map (fun x => x.raise v false))) ∧
    (s.scopeIdle d.scope = false → exec (.disableComplete n) s = .next s) ∧
    ((s.now < d.at'.toNat + 200000 ∨ d.timedOut = true) → exec (.disableTimeout n) s = .next s) ∧
    (d.at'.toNat + 200000 ≤ s.now → d.timedOut = false → s.scopeIdle d.scope = false → (∀ c, d.scope ≠ .ctx c) →
      (∀ e ∈ s.queues, ∀ i ∈ e.2.items, s.late e.2 i = false) →
      ∃ t r, exec (.disableTimeout n) s = .next t ∧ t.log = s.log.enter r ∧
        (t.disables = s.disables.del n ∨
          t.scopeIdle d.scope = false ∧ t.disables = s.disables.put n { d with timedOut := true }) ∧
        r.cause = 0x39 ∧ r.sev = 2 ∧
        ∀ l ∈ (s.scopeWork d.scope).1, ∀ x, t.launches.find l = some x → x.st = .ending ∨ x.st = .done)

/-- 13 R312, R315 to R318, R323, R335, 04 R114: the admin items of queues, objects and memory. -/
def Obligations.QueueObjectAndMemoryItems : Prop :=
  -- 13 R312, R318, R335: Q-CREATE enters a queue with its attributes and transport, Q-SET replaces the attributes of one that is not
  -- being disabled and clears a halt, Q-DESTROY removes one that is disabled and idle and its lists; 13 R323: SEM-CREATE enters an object
  -- with its value, SEM-DESTROY removes one. Codes 0x61, 0x63, 0x67 and 0x6A refuse as stated.
  (∀ (q : Nat) (hd : Header) (qu : Queue) (s : State),
     (∀ c a t x k, s.loneAdmin q hd (.qCreate c a t) qu → s.ctxOf qu.part c = some x →
       let b := s.begun q hd (.qCreate c a t) qu
       (x.notRestorable = true → s.itemRuns (.qCreate q hd c a t) s.took q hd qu 2 0x6A 0) ∧
       (x.notRestorable = false → (a.ok = false ∨ t.ok a.depth = false) →
         s.itemRuns (.qCreate q hd c a t) s.took q hd qu 2 0x63 0) ∧
       (x.notRestorable = false → a.ok = true → t.ok a.depth = true →
         (s.cfg 0x4012 (qu.part + 1) ≤ b.openQueues qu.part → s.itemRuns (.qCreate q hd c a t) s.took q hd qu 2 0x61 0) ∧
         (b.openQueues qu.part < s.cfg 0x4012 (qu.part + 1) → b.queues.free 0 65535 = some k →
           s.itemRuns (.qCreate q hd c a t) { s.took with
               queues := s.queues.put k
                 { ctx := some c, part := qu.part, port := qu.port, attrs := a, tr := t, disabled := x.disabled } }
             q hd qu 0 0 (BitVec.ofNat 64 k)))) ∧
     (∀ n a clr x, s.loneAdmin q hd (.qSet n a clr) qu → s.queueOf qu.part n = some x →
       (s.spoilt x.ctx = true → s.itemRuns (.qSet q hd n a clr) s.took q hd qu 2 0x6A 0) ∧
       (s.spoilt x.ctx = false → s.disabling n = true → s.itemRuns (.qSet q hd n a clr) s.took q hd qu 2 0x67 0) ∧
       (s.spoilt x.ctx = false → s.disabling n = false → (a.ok = false ∨ 2 ^ x.tr.cqlog < a.depth) →
         s.itemRuns (.qSet q hd n a clr) s.took q hd qu 2 0x63 0) ∧
       (s.spoilt x.ctx = false → s.disabling n = false → a.ok = true → a.depth ≤ 2 ^ x.tr.cqlog →
         s.itemRuns (.qSet q hd n a clr)
           { s.took with queues := s.queues.put n { x with attrs := a, halted := x.halted && !clr } } q hd qu 0 0 0)) ∧
     (∀ n x, s.loneAdmin q hd (.qDestroy n) qu → s.queueOf qu.part n = some x →
       ((x.disabled = false ∨ x.items ≠ [] ∨ s.disabling n = true) → s.itemRuns (.qDestroy q hd n) s.took q hd qu 2 0x67 0) ∧
       (x.disabled = true → x.items = [] → s.disabling n = false →
         s.itemRuns (.qDestroy q hd n) { s.took with
           queues := s.queues.del n, lists := s.lists.filter (fun e => e.2.queue != n) } q hd qu 0 0 0)) ∧
     (∀ v k, s.loneAdmin q hd (.semCreate v) qu → s.sems.free 0 16383 = some k →
       let held := (s.sems.filter (fun e => e.2.part == qu.part)).length
       (held < s.cfg 0x4013 (qu.part + 1) →
         s.itemRuns (.semCreate q hd v) { s.took with sems := s.sems.put k { part := qu.part, value := v, failed := v } }
           q hd qu 0 0 (BitVec.ofNat 64 k)) ∧
       (s.cfg 0x4013 (qu.part + 1) ≤ held → s.itemRuns (.semCreate q hd v) s.took q hd qu 2 0x61 0)) ∧
     (∀ k m, s.loneAdmin q hd (.semDestroy k) qu → s.sems.find k = some m →
       (m.part ≠ qu.part → s.itemRuns (.semDestroy q hd k) s.took q hd qu 2 0x62 0) ∧
       (m.part = qu.part → (∀ e ∈ s.queues, ∀ i ∈ e.2.items, i.hdr.wsem ≠ k ∨ i.hdr.wv = false) →
         s.itemRuns (.semDestroy q hd k) { s.took with sems := s.sems.del k } q hd qu 0 0 0))) ∧
  -- 13 R315, R316, 04 R114: MEM-ALLOC maps a range of the context that is aligned, in range and free, on whole pages of the stacks it
  -- names, on a host or on a slice, under the lowest free handle, with the page tables it needs, and is refused with 0x63, 0x64 (overlap), 0x65
  -- (no room), 0x66 (a slice not of the footprint) or 0x6A (a context that is not restorable); MEM-FREE removes one that no descriptor and no record names, and else is refused with 0x67.
  (∀ (q : Nat) (hd : Header) (qu : Queue) (s : State) (c : Nat) (x : Ctx), s.ctxOf qu.part c = some x →
     (∀ va size page kind wr, s.loneAdmin q hd (.memAlloc c va size page kind wr) qu →
       let run := s.itemRuns (.memAlloc q hd c va size page kind wr)
       let inFoot := match kind with | .slice d i => flag (x.slices.getD d 0) i | _ => true
       let meets := ∃ e ∈ x.allocs, e.2.va < va + size ∧ va < e.2.va + e.2.size
       let runs := match kind with
         | .device m => takePages page (s.freeRanges qu.part (fun k => flag m k)) size
         | _ => some []
       (x.notRestorable = true → run s.took q hd qu 2 0x6A 0) ∧
       (x.notRestorable = false → s.allocOk qu.part va size page kind = false → run s.took q hd qu 2 0x63 0) ∧
       (x.notRestorable = false → s.allocOk qu.part va size page kind = true →
         (inFoot = false → run s.took q hd qu 2 0x66 0) ∧
         (inFoot = true → meets → run s.took q hd qu 2 0x64 0) ∧
         (inFoot = true → ¬ meets → runs = none → run s.took q hd qu 2 0x65 0) ∧
         (∀ rs k, inFoot = true → ¬ meets → runs = some rs → x.allocs.free 1 0xFFFFFFFF = some k →
           let y : Ctx := { x with allocs := x.allocs.put k { va, size, page, kind, wr, runs := rs } }
           let tables := ({ s with ctxs := s.ctxs.put c y }).tablesFor qu.part y
           (tables = none → run s.took q hd qu 2 0x65 0) ∧
           ∀ ts, tables = some ts →
             run { s.took with ctxs := s.ctxs.put c { y with tables := ts } } q hd qu 0 0 (BitVec.ofNat 64 k)))) ∧
     (∀ al a, s.loneAdmin q hd (.memFree c al) qu → x.allocs.find al = some a →
       let x' := { x with descs := s.keptDescs c x }
       let y := { x' with allocs := x.allocs.del al }
       (x.notRestorable = true → s.itemRuns (.memFree q hd c al) s.took q hd qu 2 0x6A 0) ∧
       (x.notRestorable = false → s.allocNamed c al x' a = true →
         s.itemRuns (.memFree q hd c al) { s.took with ctxs := s.ctxs.put c x' } q hd qu 2 0x67 0) ∧
       (x.notRestorable = false → s.allocNamed c al x' a = false →
         ∃ ts, s.itemRuns (.memFree q hd c al) { s.took with ctxs := s.ctxs.put c { y with tables := ts } } q hd qu 0 0 0 ∧
           ∀ e ∈ ts, e ∈ x.tables ∨ y.tableKeys.contains e.1 = true)))

/-! ### The codec engines -/

/-- 15 R359 to R370: CODEC-OPEN enters a stream with its pool under the lowest free number of its engine; CODEC-FRAME makes a frame
ready on its stream; CODEC-RELEASE frees the buffers its mask names; CODEC-CLOSE removes a stream without waiting frames, and waits
for its frame in progress. FRAME_SCHEDULE takes the first frame of the stream chosen, with its first free buffer; a decode's
DECODE_TIME_BOUND bounds its rows, 2 (W H / 4.0e9 + bytes / 1.6e9) s + 60 us after its start; FRAME_END leaves the engine without a
frame, counting one that is stopped as damaged. -/
def Obligations.CodecStreams : Prop :=
  (∀ (q n : Nat) (hd : Header) (qu : Queue) (c : Ctx) (s : State),
    (∀ rec pool k bs, s.loneIn q hd (.codecOpen rec pool) qu n c →
      let r := srecOf rec
      (s.engine r.eng).streams.free 0 63 = some k →
      ((s.engineServes r.eng = false ∨ s.start.bringUp = 1) → s.itemRuns (.codecOpen q hd rec pool) s.took q hd qu 2 0x71 0) ∧
      (s.engineServes r.eng = true → s.start.bringUp ≠ 1 →
        ((r.ok = false ∨ pool.length ≠ r.nbuf ∨ poolsOf r pool = none) →
          s.itemRuns (.codecOpen q hd rec pool) s.took q hd qu 2 0x73 0) ∧
        (r.ok = true → pool.length = r.nbuf → poolsOf r pool = some bs →
          let ok := bs.all (fun b => c.devWritable b.base (b.size r.h)) && disjointAll r.h bs
          (ok = false → s.itemRuns (.codecOpen q hd rec pool) s.took q hd qu 2 0x74 0) ∧
          (ok = true → ∃ x, s.itemRuns (.codecOpen q hd rec pool)
              (s.took.modEngine r.eng (fun g => { g with streams := g.streams.put k x })) q hd qu 0 0
              (BitVec.ofNat 64 (64 * r.eng + k)) ∧
            x.ctx = n ∧ x.queue = q ∧ x.srec = rec ∧ x.pool = bs ∧ x.qp = r.qpi ∧ x.frameNo = 0 ∧ x.ready = [] ∧
            2 * x.fullness = (r.bufsz * 1000 : Nat))))) ∧
    (∀ w x, s.loneIn q hd (.codecFrame w) qu n c →
      let f := frameOf w
      s.streamOf n f.strm = some x → f.rsv = 0 → f.rep % 32 = 0 →
      ((srecOf x.srec).sourceOk c f = false → s.itemRuns (.codecFrame q hd w) s.took q hd qu 2 0x77 0) ∧
      ((srecOf x.srec).sourceOk c f = true → (s.engine (f.strm / 64)).disabled = false → (s.engine (f.strm / 64)).removed = false →
        exec (.codecFrame q hd w) s = .next (((s.begun q hd (.codecFrame w) qu).modEngine (f.strm / 64) (fun g => { g with
          streams := g.streams.put (f.strm % 64) { x with ready := x.ready ++ [(q, s.nextItem, s.clock.refc)] } })).noteReady
          (f.strm / 64)))) ∧
    (∀ h mask x, s.loneIn q hd (.codecRelease h mask) qu n c → s.streamOf n h = some x →
      ∃ y, s.itemRuns (.codecRelease q hd h mask)
          ((s.took.modEngine (h / 64) (fun g => { g with streams := g.streams.put (h % 64) y })).noteReady (h / 64))
          q hd qu 0 0 0 ∧
        y = { x with pool := y.pool } ∧ y.pool.length = x.pool.length ∧
        ∀ k b, x.pool[k]? = some b → y.pool[k]? = some (if bit mask.toNat k then { b with out := false } else b)) ∧
    (∀ h x, s.loneIn q hd (.codecClose h) qu n c → s.streamOf n h = some x → x.ready = [] →
      ((∀ f, (s.engine (h / 64)).cur = some f → f.stream ≠ h % 64) →
        s.itemRuns (.codecClose q hd h) (s.took.modEngine (h / 64) (fun g => { g with streams := g.streams.del (h % 64) }))
          q hd qu 0 0 0) ∧
      (∀ f, (s.engine (h / 64)).cur = some f → f.stream = h % 64 → s.itemWaits (.codecClose q hd h) q hd (.codecClose h) qu))) ∧
  (∀ (e : Fin 4) (s : State),
    let g := s.engine e.val
    (∀ n x q id at' rest, g.cur = none → s.engineServes e.val = true → s.runs = true →
      g.choose (s.cfg 0x7011 (e.val + 1)) s.now = some n → g.streams.find n = some x → x.ready = (q, id, at') :: rest →
      ∃ f, exec (.frameSchedule e) s = .next ((s.modEngine e.val (fun g => { g with
          cur := some f, last := n, liveRun := if (srecOf x.srec).live then g.liveRun + 1 else 0
          streams := g.streams.put n { x with ready := rest, readyAt := none } })).noteReady e.val) ∧
        f.stream = n ∧ f.queue = q ∧ f.item = id ∧ f.startAt = s.clock.refc ∧ f.stop = false ∧ f.bounded = none ∧
        ∀ k, f.buf = some k → ∃ b, x.pool[k]? = some b ∧ b.free = true) ∧
    (∀ f x it w c rows, g.cur = some f → g.streams.find f.stream = some x → s.item f.queue f.item = some it →
      s.ctxs.find x.ctx = some c → it.body = .codecFrame w → (srecOf x.srec).encodes = false →
      let bound := 2 * (srecOf x.srec).w * (srecOf x.srec).h + 5 * fld (frameOf w).src2 31 0 + 240000
      (bound ≤ 40 * (s.now - f.startAt.toNat) → exec (.decodeTimeBound e rows) s =
        .next (s.modEngine e.val (fun g => { g with cur := some { f with bounded := some rows } }))) ∧
      (40 * (s.now - f.startAt.toNat) < bound → exec (.decodeTimeBound e rows) s = .next s)) ∧
    (∀ f x it w c, g.cur = some f → g.streams.find f.stream = some x → s.item f.queue f.item = some it →
      s.ctxs.find x.ctx = some c → it.body = .codecFrame w →
      ∃ t, exec (.frameEnd ⟨e, .none⟩) s = .next t ∧ (t.engine e.val).cur = none ∧ (∀ k, k ≠ e.val → t.engine k = s.engine k) ∧
        t.launches = s.launches ∧
        (f.stop = true → (t.engine e.val).frames = min (g.frames + 1) (2 ^ 32 - 1) ∧
          (t.engine e.val).damaged = min (g.damaged + 1) (2 ^ 32 - 1) ∧
          ((srecOf x.srec).encodes = false → ∃ y, (t.engine e.val).streams.find f.stream = some y ∧
            y = { x with missing := true, readyAt := y.readyAt }))))

/-! ### Host ports -/

/-- 16 R379 to R382, R386, R387, Table 16.1: doorbells, interrupts, and what a host does to device memory through a port. -/
def Obligations.HostPorts : Prop :=
  -- 16 R386: a doorbell write of a queue of the port's partition, with nothing waiting in the queue, sets its tail and raises its count
  -- of consumed records to the next number whose low 32 bits are those written, and wakes a module that rests (14 R354); a misaligned, short or misdirected write, or one with a
  -- tail beyond the ring, is ignored and counted; a port that is quiescing ignores all. 16 R387: once CTIME has passed since the first
  -- unsignalled record, the queue's MSI-X message is sent and nothing stands unsignalled.
  (∀ s : State, s.runs = true →
     (∀ (p : Fin 8) (off len : Nat) (v : W64) (q : Nat) (x : Queue),
       let y := s.port p.val
       y.active = true → y.quiesced = false → 0x100000 ≤ off → off < 0x180000 → q = (off - 0x100000) / 8 % 0x20000 →
       (y.quiescing = true → exec (.doorbell p off len v) s = .next s) ∧
       (y.quiescing = false →
         ((off % 8 ≠ 0 ∨ len ≠ 8 ∨ s.queues.find q = none ∨ s.queues.find q = some x ∧
             (s.partOfPort p.val ≠ some x.part ∨ x.tr.set = false ∨ 2 ^ (x.tr.sqlog - 6) ≤ v.toNat % 2 ^ 32)) →
           exec (.doorbell p off len v) s =
             .next { s with ports := s.ports.put p.val { y with ignored := min (y.ignored + 1) (2 ^ 32 - 1) } }) ∧
         (off % 8 = 0 → len = 8 → s.queues.find q = some x → s.partOfPort p.val = some x.part → x.tr.set = true →
           v.toNat % 2 ^ 32 < 2 ^ (x.tr.sqlog - 6) → x.waitRecs = [] → (∀ i ∈ x.items, i.st = .started) →
           ∃ n, exec (.doorbell p off len v) s = .next { s with
               queues := s.queues.put q { x with tail := v.toNat % 2 ^ 32, consumed := n }
               ports := if y.state = 4 then s.ports.put p.val { y with state := 3 } else s.ports
               gov := if 1 ≤ s.gov.ladder && s.gov.ladder ≤ 3 then
                 { s.gov with ladder := 0, idleSince := none, scrubFrom := none } else s.gov } ∧
             n % 2 ^ 32 = v.toNat / 2 ^ 32 ∧ x.consumed ≤ n ∧ n < x.consumed + 2 ^ 32))) ∧
     (∀ q x, s.queues.find q = some x → 0 < x.unsig → x.tr.vec ≠ 0 →
       (s.now < x.unsigAt.toNat + 100 * x.tr.ctime → exec (.interruptDelay q) s = .next s) ∧
       (x.unsigAt.toNat + 100 * x.tr.ctime ≤ s.now → exec (.interruptDelay q) s = .next { s with
           queues := s.queues.put q { x with unsig := 0 }, out := s.out ++ [.msix x.port x.tr.vec] }))) ∧
  -- 16 R379, R380, 12 R499, 21 R479: a host read answers the 64 bytes of its line, invalid unless the frame is in host bias, and poisoned
  -- where the stack is acted on; a host write reaches the bytes it enables and no other, and is dropped (log 93)
  -- where an open key-value record keeps its line read-only (08 R220); an address no decoder covers is answered poisoned,
  -- or dropped, with record 0x42. A snoop hits no line. A decoder commits only aligned, whole, in order and within the partition; a BIAS-SET
  -- runs in the background, one for a port, and changes whole frames in ascending order.
  (∀ (p : Fin 8) (s : State), s.runs = true → (s.port p.val).active = true →
     (∀ hpa, let h := hpa / 64 * 64
       (s.hpaAddr p.val h = none →
         (∃ t r ms, exec (.hostMemRead p ⟨hpa, .none⟩) s = .next t ∧ Records s t ∧ t.log = s.log.enter r ∧ r.cause = 0x42 ∧
           r.detail = BitVec.ofNat 64 (p.val + h % 2 ^ 48 * 2 ^ 8) ∧
           t.out = s.out ++ ms ++ [.memResp p.val (List.replicate 64 0) true true]) ∧
         ∀ data : List (Option Byte), data.length = 64 →
           ∃ t r ms, exec (.hostMemWrite p ⟨hpa, .none⟩ data) s = .next t ∧ Records s t ∧ t.log = s.log.enter r ∧ r.cause = 0x42 ∧
             t.out = s.out ++ ms ++ [.memDrop p.val]) ∧
       (∀ k a n off, s.hpaAddr p.val h = some (k, a) → s.region a = .stack n off →
         (s.acting a = true →
           exec (.hostMemRead p ⟨hpa, .none⟩) s =
             .next { s with out := s.out ++ [.memResp p.val (List.replicate 64 0) true (s.hostBias a).isNone] }) ∧
         (s.acting a = false →
           (∀ s1 bs, s.devRead a 64 false = (s1, .ok, bs) →
             Touches s s1 ∧ bs = s.mem.read a 64 ∧
             exec (.hostMemRead p ⟨hpa, .none⟩) s = .next { s1 with out := s1.out ++ [.memResp p.val bs false (s.hostBias a).isNone] }) ∧
           ∀ data : List (Option Byte), data.length = 64 → s.memOk = true → (s.stack n).bad = [] →
             (∀ l ∈ (s.cache (n / s.spd)).lines, l.line = a / 256 → l.poison = 0) →
             (s.lockedLine a = true →
               exec (.hostMemWrite p ⟨hpa, .none⟩ data) s = .next { s with out := s.out ++ [.memDrop p.val] }) ∧
             (s.lockedLine a = false → ∃ t, exec (.hostMemWrite p ⟨hpa, .none⟩ data) s = .next t ∧ Reaches s t ∧
               (∀ i b, data[i]? = some (some b) → t.mem.get (a + i) = b) ∧
               ∀ x, (∀ i b, data[i]? = some (some b) → x ≠ a + i) → t.mem.get x = s.mem.get x)))) ∧
     (∀ a, exec (.snoop p a) s = .next { s with out := s.out ++ [.snoopResp p.val] }) ∧
     (∀ (n : Fin 2) base size skip ways k, s.partOfPort p.val = some k →
       let x := s.port p.val
       let g := 0x10000000
       let before := if n = 0 then 0 else x.hdm0.skip + x.hdm0.size
       let good := g ∣ base ∧ g ∣ size ∧ g ∣ skip ∧ ways = 1 ∧ (n = 1 → x.hdm0.committed = true) ∧
         before + skip + size ≤ s.partBytes k
       ∃ y d, exec (.hdmDecoderCommit p n base size skip ways) s = .next { s with ports := s.ports.put p.val y } ∧
         y = { x with hdm0 := y.hdm0, hdm1 := y.hdm1 } ∧ (if n = 0 then y.hdm0 else y.hdm1) = d ∧
         (if n = 0 then y.hdm1 = x.hdm1 else y.hdm0 = x.hdm0) ∧ d.base = base ∧ d.size = size ∧ d.skip = skip ∧
         (d.committed = true ↔ good) ∧ d.error = !d.committed) ∧
     (∀ first count toHost k, s.partOfPort p.val = some k →
       (s.partBytes k / 0x200000 < first + count → exec (.biasSet p first count toHost) s =
         .next { s with out := s.out ++ [.mailbox p.val .invalidInput []] }) ∧
       (first + count ≤ s.partBytes k / 0x200000 →
         ((s.port p.val).biasJob ≠ none →
           exec (.biasSet p first count toHost) s = .next { s with out := s.out ++ [.mailbox p.val .busy []] }) ∧
         ((s.port p.val).biasJob = none → exec (.biasSet p first count toHost) s = .next { s with
           ports := s.ports.put p.val { s.port p.val with
             biasJob := if count = 0 then none else some { next := first, left := count, toHost := toHost } }
           out := s.out ++ [.mailbox p.val .background []] }))) ∧
     (∀ j k, (s.port p.val).biasJob = some j → s.partOfPort p.val = some k → j.next < s.partBytes k / 0x200000 →
       let t := s.biasNext p.val
       (∀ f, f ∈ t.bias.get [] k ↔ if j.toHost then f ∈ s.bias.get [] k ∨ f = j.next else f ∈ s.bias.get [] k ∧ f ≠ j.next) ∧
       (∀ i, i ≠ k → t.bias.find i = s.bias.find i) ∧ t.mem = s.mem ∧
       t.out = s.out ++ (if j.toHost then [] else [.ownFrame p.val j.next]) ∧
       (t.port p.val).biasJob = (if j.left ≤ 1 then none else some { j with next := j.next + 1, left := j.left - 1 })))

/-- 16 R390, R391, Table 16.6: DICT-READ answers the value asked for behind its access block, DICT-WRITE takes what a plain write
may (the nonce, by the owner), DICT-WRITE-AUTH and CONTROL put a command of their kinds into the security controller's queue of 16,
ADMIN-SETUP and EVENT-SETUP set up the port's admin queue and event ring, and PORT-QUIESCE refuses doorbells and disables the port's
queues; each answers as stated where its input is not valid. -/
def Obligations.MailboxCommands : Prop :=
  ∀ (p : Fin 8) (s : State), s.mailboxOk p.val = true →
    let tells (r : Ret) (bs : List Byte) : State := { s with out := s.out ++ [.mailbox p.val r bs] }
    (∀ a bs, a.rsv = 0 → s.settled → s.objRead (p.val + 1) a.index a.sub a.stg = .ok bs →
      let d := (bs.drop a.off).take (min a.cnt 65535)
      exec (.dictRead p a) s = .next (tells .success (natLe 2 a.index ++ natLe 1 a.sub ++ natLe 1 (if a.stg then 1 else 0) ++
        natLe 2 a.off ++ natLe 2 d.length ++ natLe 4 bs.length ++ d))) ∧
    (∀ a, a.rsv ≠ 0 → exec (.dictRead p a) s = .next (tells .invalidInput [])) ∧
    (∀ nonce : List Byte, nonce.length = 32 → s.settled →
      let a : Access := { index := 0x1012, sub := 1, cnt := 32, size := 32, data := nonce }
      let seg := s.dict.seg.del (p.val + 1)
      (s.own.owner = some (p.val + 1) → exec (.dictWrite p a) s = .next { s with
        dict := { s.dict with seg := seg }
        fw := { s.fw with nonce := nonce, report := { s with dict := { s.dict with seg := seg } }.attest nonce }
        out := s.out ++ [.mailbox p.val .success [0]] }) ∧
      (s.own.owner ≠ some (p.val + 1) → exec (.dictWrite p a) s = .next { s with
        dict := { s.dict with seg := seg }, out := s.out ++ [.mailbox p.val .invalidInput [2]] })) ∧
    (∀ a : AuthCmd,
      let queued : State := { s with sec := { s.sec with
        queue := s.sec.queue ++ [{ path := p.val + 1, broadcast := false, cmd := a }] } }
      let goes (i : Instr) : Prop := if s.sec.queue.length < 16 then exec i s = .next queued else exec i s = .next (tells .busy [8])
      if a.kind = 1 then goes (.dictWriteAuth p a) ∧ exec (.control p a) s = .next (tells .invalidInput [])
      else goes (.control p a) ∧ exec (.dictWriteAuth p a) s = .next (tells .invalidInput [])) ∧
    (∀ t q x, (s.port p.val).admin = some q → s.queues.find q = some x →
      (s.start.held = true → exec (.adminSetup p t) s = .next (tells .unsupported [])) ∧
      (s.start.held = false → t.ok x.attrs.depth = false → exec (.adminSetup p t) s = .next (tells .invalidInput [])) ∧
      (s.start.held = false → t.ok x.attrs.depth = true → exec (.adminSetup p t) s = .next { tells .success [] with
        queues := s.queues.put q { x with tr := t, head := 0, tail := 0, consumed := 0, written := 0, unsig := 0, waitRecs := [] } })) ∧
    (∀ (base ptr : W64) n vec,
      (((s.partOfPort p.val).isSome ∧ base.toNat % 16 = 0 ∧ ptr.toNat % 8 = 0 ∧ n ≤ 20 ∧ vec ≤ 2047) →
        exec (.eventSetup p base n ptr vec) s = .next { tells .success [] with
          ports := s.ports.put p.val { s.port p.val with
            evring := some { base := base.toNat, log2n := n, ptr := ptr.toNat, vec := vec } } }) ∧
      (¬((s.partOfPort p.val).isSome ∧ base.toNat % 16 = 0 ∧ ptr.toNat % 8 = 0 ∧ n ≤ 20 ∧ vec ≤ 2047) →
        exec (.eventSetup p base n ptr vec) s = .next (tells .invalidInput []))) ∧
    ((s.partOfPort p.val).isSome = true →
      ((s.port p.val).quiescing = true → exec (.portQuiesce p) s = .next (tells .busy [])) ∧
      ((s.port p.val).quiescing = false → s.homed p.val = [] → exec (.portQuiesce p) s = .next { tells .background [] with
        ports := s.ports.put p.val { s.port p.val with
          quiescing := false, quiesced := true
          state := if s.cfg 0x4035 (p.val + 1) = 0 then 6 else (s.port p.val).state } }) ∧
      ((s.port p.val).quiescing = false → s.homed p.val ≠ [] → s.launches = [] → s.spin = [] → s.codecs = [] →
        (∀ q ∈ s.homed p.val, ∀ x, s.queues.find q = some x → x.items = []) →
        ∃ t, exec (.portQuiesce p) s = .next t ∧ (t.port p.val).quiescing = true ∧
          (∀ q ∈ s.homed p.val, ∀ x, s.queues.find q = some x → t.queues.find q = some { x with disabled := true }) ∧
          (∀ q, q ∉ s.homed p.val → t.queues.find q = s.queues.find q) ∧ t.mem = s.mem ∧ t.log = s.log ∧
          t.nextDisable = s.nextDisable + (s.homed p.val).length))

/-- 16 R374, R377, R392 to R395, Table 16.7: a link that is lost (at once, 10 ms after it entered Recovery, or under a hot or
function-level reset, which keep it trained) has its work disabled and records 0x40, after 0x41 where its IDE failed; a reset also
clears its event ring and its admin transport, a hot reset its decoders too. A link comes up at a width and rate the module has,
else the port waits; a quiesced link goes down without a loss. -/
def Obligations.LinksComeAndGo : Prop :=
  ∀ (p : Fin 8) (s : State), s.runs = true →
    let x := s.port p.val
    (∀ why, x.losable = false → exec (.surpriseLoss p why) s = .next s) ∧
    (x.losable = true →
      exec (.surpriseLoss p .recovery) s = .next { s with
        ports := s.ports.put p.val { x with recovering := some (x.recovering.getD s.clock.refc) } } ∧
      ∀ why, why ≠ .recovery → ∃ t, exec (.surpriseLoss p why) s = .next t ∧ s.linkLost t p.val false (why == .ideFailure)) ∧
    (∀ t0, x.recovering = some t0 →
      (s.now < t0.toNat + 1000000 → exec (.recoveryTimeout p) s = .next s) ∧
      (t0.toNat + 1000000 ≤ s.now → ∃ t, exec (.recoveryTimeout p) s = .next t ∧ s.linkLost t p.val false false)) ∧
    ((x.active = true ∨ x.state = 7) →
      (∃ u t, exec (.functionLevelReset p) s = .next t ∧ s.linkLost u p.val true false ∧
        t = { u with ports := t.ports, queues := t.queues } ∧
        t.port p.val = { u.port p.val with evring := none } ∧ (∀ j, j ≠ p.val → t.port j = u.port j) ∧
        (∀ q y, (u.port p.val).admin = some q → u.queues.find q = some y → t.queues.find q =
          some { y with tr := {}, head := 0, tail := 0, consumed := 0, written := 0, waitRecs := [] }) ∧
        (∀ q, (u.port p.val).admin ≠ some q → t.queues.find q = u.queues.find q)) ∧
      (∃ u t, exec (.hotReset p) s = .next t ∧ s.linkLost u p.val true false ∧ t = { u with ports := t.ports, queues := t.queues } ∧
        t.port p.val = { u.port p.val with
          evring := none, hdm0 := {}, hdm1 := {}, ideIo := false, ideMem := false
          state := if (u.port p.val).state = 3 ∧ u.cfg 0x4036 (p.val + 1) = 1 then 7 else (u.port p.val).state } ∧
        (∀ j, j ≠ p.val → t.port j = u.port j) ∧
        (∀ q y, (u.port p.val).admin = some q → u.queues.find q = some y → t.queues.find q =
          some { y with tr := {}, head := 0, tail := 0, consumed := 0, written := 0, waitRecs := [] }) ∧
        (∀ q, (u.port p.val).admin ≠ some q → t.queues.find q = u.queues.find q))) ∧
    (∀ width rate cxl, p.val < s.portCount → x.failed = false →
      let i := Instr.linkUp p width rate cxl
      (∀ t0, x.recovering = some t0 → exec i s = .next { s with ports := s.ports.put p.val { x with recovering := none } }) ∧
      (x.recovering = none → x.state = 4 → exec i s = .next { s with ports := s.ports.put p.val { x with state := 3 } }) ∧
      (x.recovering = none → x.state = 1 ∨ x.state = 2 ∨ x.state = 5 →
        (cxl = true ∧ width ∈ [4, 8, 16] ∧ rate ∈ [8, 16, 32] →
          let wait : Bool := s.cfg 0x4036 (p.val + 1) = 1 ∧ (x.ideIo && x.ideMem) = false
          exec i s = .next { s with ports := s.ports.put p.val { x with
            state := if wait then 7 else 3, width := width, rate := rate, quiesced := false
            lossSince3 := x.lossSince3 && wait } }) ∧
        (¬(cxl = true ∧ width ∈ [4, 8, 16] ∧ rate ∈ [8, 16, 32]) →
          exec i s = .next { s with ports := s.ports.put p.val { x with state := 5, width := 0, rate := 0 } }))) ∧
    (x.quiesced = true → x.active = true ∨ x.state = 7 → exec (.plannedLinkDown p) s =
      .next { s with ports := s.ports.put p.val { x with state := 1, session := none, ideIo := false, ideMem := false } })

/-- 19 R444, R453, R455, R456: the DOE protocol of a port that serves it: its identity, an attestation of 32 bytes of nonce, a
session opened with a nonce of the module's own under its signature, finished by the right HMAC of its controller's key, closed at
will. Inside one, the next sequence number with a good tag is taken, and a wrong one ends the session. -/
def Obligations.DoeSessions : Prop :=
  ∀ (p : Fin 8) (s : State), s.doeOk p.val = true →
    let tells (bs : List Byte) : State := { s with out := s.out ++ [.doe p.val bs] }
    let put (x : Session) : Tab Port := s.ports.put p.val { s.port p.val with session := some x }
    exec (.getIdentity p) s = .next (tells (identityPublic ++ exchangePublic ++ Config.endorsement)) ∧
    (∀ nonce, nonce.length = 32 → exec (.attest p nonce) s = .next (tells (s.reportBody nonce ++ identitySign (s.reportBody nonce)))) ∧
    (∀ ctrl ct nonce,
      ((ctrl = p.val + 1 ∧ ct.length = 1088 ∧ nonce.length = 32) → ∃ mine : List Byte, mine.length = 32 ∧
        let t := sha3_256 (natLe 1 ctrl ++ ct ++ nonce ++ mine)
        exec (.sessionOpen p ctrl ct nonce) s = .next { tells (mine ++ identitySign t) with
          fresh := s.fresh + 1
          ports := put { ctrl := ctrl, secret := fit 32 (Config.mlkemDecap exchangeSeed ct), t := t } }) ∧
      (¬(ctrl = p.val + 1 ∧ ct.length = 1088 ∧ nonce.length = 32) → exec (.sessionOpen p ctrl ct nonce) s = .next (tells [6]))) ∧
    (∀ x k, (s.port p.val).session = some x → (s.ctlOf x.ctrl).key = some k →
      exec (.sessionFinish p (hmac k x.t)) s = .next { tells [0] with ports := put { x with finished := true } } ∧
      ∀ mac, mac ≠ hmac k x.t → exec (.sessionFinish p mac) s = .next (tells [3])) ∧
    exec (.sessionClose p) s =
      .next { tells [0] with ports := s.ports.put p.val { s.port p.val with session := none } } ∧
    (∀ x seq ct tag, (s.port p.val).session = some x →
      let text := Config.gcmOpen (x.keyOf "REQ") (gcmNonce seq) [] ct tag
      (seq ≠ x.rxSeq ∨ text = none → exec (.secured p seq ct tag) s =
        .next { s with ports := s.ports.put p.val { s.port p.val with session := none } }) ∧
      (∀ bs, seq = x.rxSeq → text = some bs →
        (x.finished = false → exec (.secured p seq ct tag) s = .next s) ∧
        (x.finished = true →
          (Config.securedMsg bs = .other → exec (.secured p seq ct tag) s =
            .next { s with ports := put { x with rxSeq := x.rxSeq + 1 } }) ∧
          (∀ io mem, Config.securedMsg bs = .ide io mem →
            ∃ t sealed, exec (.secured p seq ct tag) s = .next t ∧ t = { s with ports := t.ports, out := s.out ++ [.doe p.val sealed] } ∧
              (∀ j, j ≠ p.val → t.port j = s.port j) ∧ (t.port p.val).ideIo = io ∧ (t.port p.val).ideMem = mem ∧
              (t.port p.val).session = some { x with rxSeq := x.rxSeq + 1, txSeq := x.txSeq + 1 } ∧
              ((s.port p.val).state = 7 → io = true → mem = true → (t.port p.val).state = 3) ∧
              ((s.port p.val).state ≠ 7 → (t.port p.val).state = (s.port p.val).state)) ∧
          (∀ a, Config.securedMsg bs = .dictRead a → (s.port p.val).active = true →
            ∃ t sealed, exec (.secured p seq ct tag) s = .next t ∧ t = { s with ports := t.ports, out := s.out ++ [.doe p.val sealed] } ∧
              (t.port p.val).session = some { x with rxSeq := x.rxSeq + 1, txSeq := x.txSeq + 1 }))))

/-! ### The ring -/

/-- 17 R402, R404 to R410, R426, Table 17.3: an inserted node forwards every frame; a damaged one is counted and sent on damaged. A
frame for the node leaves it with its answer: ENUM takes or gives up an address, CYCLE sets the cycle and marks waiting events, READ
answers the value, WRITE its status (the stored one when repeated), WRITE-AUTH queues a command, SWEEP marks agreement, EVENT gives
up the acknowledged batch and carries the next, any other type passes. -/
def Obligations.RingFrames : Prop :=
  ∀ s : State,
    let a := s.ring.addr
    let sends (u : State) (ty : Byte) (f : Frame) : Out := .next (u.forward ty f)
    let all := ∀ (f : Frame) (e : Instr × Byte), e ∈ [(.enum f, 1), (.cycle f, 2), (.read f, 3), (.write f, 4), (.writeAuth f, 5),
        (.sweep f, 6), (.event f, 7)] →
      (s.ring.inserted = false → exec e.1 s = .next s) ∧
      (s.ring.inserted = true → f.good e.2 = false → exec e.1 s = .next { s with
        ring := { s.ring with crcErr := min (s.ring.crcErr + 1) (2 ^ 32 - 1) }
        out := s.out ++ [.ringFrame (f.body e.2 ++ natLe 4 (~~~f.crc).toNat)] })
    all ∧
    (s.ring.inserted = true → a ≤ 250 → ∀ f : Frame,
      let p := f.payload
      let with' (r : RingSt) : State := { s with ring := r }
      let mine := a ≠ 0 ∧ f.dst.toNat = a
      let toAll := a ≠ 0 ∧ f.dst = 255
      (f.good 1 = true → f.dst = 255 → p.length = 68 →
        (byteAt p 0 = 0 →
          let want := if s.cfg 0x2010 2 ≠ 0 then s.cfg 0x2010 2 else if byteAt p 1 % 2 = 1 then 0 else a
          (want = 0 → exec (.enum f) s = sends (with' { s.ring with addr := 0 }) 1 f) ∧
          (want ≠ 0 → mapBit p 0x04 want = true → exec (.enum f) s =
            sends (with' { s.ring with addr := 0, dup := true }) 1 { f with payload := setMapBit p 0x24 want }) ∧
          (want ≠ 0 → mapBit p 0x04 want = false → exec (.enum f) s =
            sends (with' { s.ring with addr := want, dup := false }) 1 { f with payload := setMapBit p 0x04 want })) ∧
        (byteAt p 0 = 1 →
          (a ≠ 0 → exec (.enum f) s = sends s 1 f) ∧
          (∀ n, a = 0 → 1 ≤ n → n ≤ 250 → byteAt p 2 ≤ n → mapBit p 0x04 n = false →
            (∀ m, 1 ≤ m → byteAt p 2 ≤ m → m < n → mapBit p 0x04 m = true) →
            exec (.enum f) s = sends (with' { s.ring with addr := n, dup := false }) 1
              { f with payload := putAt (setMapBit p 0x04 n) 2 [BitVec.ofNat 8 (n + 1)] }) ∧
          (a = 0 → (∀ m, 1 ≤ m → m ≤ 250 → byteAt p 2 ≤ m → mapBit p 0x04 m = true) →
            exec (.enum f) s = sends s 1 { f with payload := putAt p 3 [BitVec.ofNat 8 (min (byteAt p 3 + 1) 255)] }))) ∧
      (f.good 2 = true → f.dst = 255 → p.length = 48 →
        let r : RingSt := { s.ring with cycleAt := s.clock.refc, noCycle := false }
        (a = 0 → exec (.cycle f) s = sends (with' r) 2 f) ∧
        (a ≠ 0 → exec (.cycle f) s = sends (with' { r with cycle := BitVec.ofNat 64 (leNat (p.take 8)) }) 2
          { f with payload := if s.ring.queue = [] then p else setMapBit p 0x10 a })) ∧
      (f.good 3 = true → ¬mine → exec (.read f) s = sends s 3 f) ∧
      (f.good 3 = true → mine →
        (p.length < 12 → exec (.read f) s = sends s 3 { f with status := 7 }) ∧
        (12 ≤ p.length → (accessOf p).rsv = 0 → s.settled →
          (∀ e, s.objRead 0 (accessOf p).index (accessOf p).sub (accessOf p).stg = .error e →
            exec (.read f) s = sends s 3 { f with status := BitVec.ofNat 8 e }) ∧
          (∀ bs, s.objRead 0 (accessOf p).index (accessOf p).sub (accessOf p).stg = .ok bs →
            let d := (bs.drop (accessOf p).off).take (min (accessOf p).cnt (p.length - 12))
            exec (.read f) s = sends s 3 { f with
              status := 0, payload := accessHead (accessOf p) d.length bs.length ++ d ++ p.drop (12 + d.length) }))) ∧
      (f.good 4 = true → mine →
        (∀ st, s.ring.lastWrite = some (f.seq, p, st) → exec (.write f) s = sends s 4 { f with status := BitVec.ofNat 8 st }) ∧
        (s.repeated f = none →
          ((p.length < 12 ∨ p.length ≠ 12 + (accessOf p).cnt) → exec (.write f) s =
            sends (with' { s.ring with lastWrite := some (f.seq, p, 7) }).rouse 4 { f with status := 7 }) ∧
          (p.length = 12 + (accessOf p).cnt → (accessOf p).rsv = 0 → (accessOf p).stg = false → (accessOf p).off = 0 →
            (accessOf p).size = (accessOf p).cnt → (accessOf p).cnt ≤ 244 → s.settled →
            let u : State := { s with dict := { s.dict with seg := s.dict.seg.del 0 } }
            let r := u.objWrite 0 (accessOf p).index (accessOf p).sub (p.drop 12) .plain
            exec (.write f) s = sends ({ r.1 with ring := { r.1.ring with lastWrite := some (f.seq, p, r.2) } } : State).rouse 4
              { f with status := BitVec.ofNat 8 r.2 }))) ∧
      (f.good 5 = true →
        let put (b : Bool) (bs : List Byte) : State := { s with sec := { s.sec with
          queue := s.sec.queue ++ [{ path := 0, broadcast := b, cmd := authOf bs }] } }
        (mine → 28 ≤ p.length → exec (.writeAuth f) s = if s.sec.queue.length < 16 then
            sends (put false p).rouse 5 { f with status := 0xFE }
          else sends s 5 { f with status := 8 }) ∧
        (mine → p.length < 28 → exec (.writeAuth f) s = sends s 5 { f with status := 7 }) ∧
        (toAll → 60 ≤ p.length → (authOf (p.drop 32)).kind = 0x13 → s.sec.queue.length < 16 →
          exec (.writeAuth f) s = sends (put true (p.drop 32)).rouse 5 { f with payload := setMapBit p 0 a })) ∧
      (f.good 6 = true → toAll → p.length = 256 → byteAt p 0 ≤ 1 →
        let pre := (if byteAt p 0 = 0 then s.digest else s.stagedDigest).take 8
        let ep := natLe 8 s.dict.epoch.toNat
        ∃ g, exec (.sweep f) s = sends s 6 { f with payload := g } ∧
          ((s.dict.staged ≠ [] ∨ s.dict.act ≠ none) → mapBit g 0x58 a = true) ∧
          (((p.drop 8).take 8 = pre ∧ (p.drop 16).take 8 = ep) → mapBit g 0x18 a = true ∧ byteAt g 1 = byteAt p 1) ∧
          (¬((p.drop 8).take 8 = pre ∧ (p.drop 16).take 8 = ep) →
            mapBit g 0x38 a = true ∧ byteAt g 1 = min (byteAt p 1 + 1) 255 ∧
            (byteAt p 2 < 8 → byteAt g 2 = byteAt p 2 + 1 ∧
              ∃ tail, g.drop (0x78 + 17 * byteAt p 2) = BitVec.ofNat 8 a :: (pre ++ ep ++ tail)))) ∧
      (f.good 7 = true → mine →
        (p.length ≠ 232 → exec (.event f) s = sends s 7 { f with status := 7 }) ∧
        (p.length = 232 →
          let acked := 0 < s.ring.inBatch ∧ leNat (p.take 2) = s.ring.batch
          ∃ r g, exec (.event f) s = sends (with' r) 7 { f with status := 0, payload := g } ∧
            r = { s.ring with queue := r.queue, batch := r.batch, inBatch := r.inBatch } ∧
            (acked → r.queue = s.ring.queue.drop s.ring.inBatch) ∧ (¬acked → r.queue = s.ring.queue) ∧
            (¬acked → 0 < s.ring.inBatch → r.inBatch = s.ring.inBatch ∧ r.batch = s.ring.batch) ∧
            ((acked ∨ s.ring.inBatch = 0) → r.queue ≠ [] → r.inBatch = min 7 r.queue.length ∧
              r.batch = (s.ring.batch + 1) % 65535) ∧
            ((acked ∨ s.ring.inBatch = 0) → r.queue = [] → r.inBatch = 0) ∧
            leNat ((g.drop 2).take 2) = r.batch % 65536 ∧ byteAt g 4 = r.inBatch % 256 ∧
            ∃ tail, g.drop 8 = (r.queue.take r.inBatch).flatMap EvRec.bytes ++ tail)) ∧
      (∀ ty : Byte, ty = 0 ∨ 8 ≤ ty → f.good ty = true → exec (.otherTypeFrame ty f) s = sends s ty f) ∧
      (s.now < s.ring.cycleAt.toNat + 30000000 → exec .cycleTimeout s = .next s) ∧
      (s.ring.cycleAt.toNat + 30000000 ≤ s.now → exec .cycleTimeout s = .next (with' { s.ring with noCycle := true })))

/-! ### Ownership and the dictionary -/

/-- 17 R413 to R422, R425, Tables 17.12 and 17.13: a command at the head is refused with 9 while its controller is locked out, with
3 where its check is wrong, with 4 where its counter is not above L, with 6 where a reserved field is set; else it executes. An
object write stages a configuration value; CLAIM takes the module where it may and else waits; RELEASE-TO gives it up; HEARTBEAT
renews the lease; STAGE-CLEAR empties the staged copy; ACTIVATE puts the accepted values of the staged copy in force, those of the
governor at the next gate pulse of L0 and L1. -/
def Obligations.AuthenticatedCommands : Prop :=
  ∀ (q : QueuedCmd) (qs : List QueuedCmd) (s : State),
    let c := q.path
    let b := q.cmd.body
    let d := s.dequeued qs
    let owned := s.own.owner = some c
    (∀ e ∈ [(Instr.objectWrite, 0x01), (.claim, 0x10), (.releaseTo, 0x11), (.heartbeat, 0x12), (.activate, 0x13),
        (.stageClear, 0x14)], s.heads e.2 q qs →
      (s.lockedOut c = true → s.authRuns e.1 d q 9) ∧
      (s.lockedOut c = false → s.checkOk q = false → s.authRuns e.1 d q 3) ∧
      (s.lockedOut c = false → s.checkOk q = true → q.cmd.counter = (s.ctlOf c).l → q.cmd.check = (s.ctlOf c).check →
        ∃ t, exec e.1 s = .next t ∧ t.own = s.own ∧ t.dict = s.dict ∧ t.sec.queue = qs ∧ (t.ctlOf c).l = (s.ctlOf c).l ∧
          (t.ctlOf c).result = BitVec.ofNat 64 ((s.ctlOf c).lastStatus * 2 ^ 56 + q.cmd.counter.toNat % 2 ^ 56)) ∧
      (s.lockedOut c = false → s.checkOk q = true → q.cmd.counter ≤ (s.ctlOf c).l →
        ¬(q.cmd.counter = (s.ctlOf c).l ∧ q.cmd.check = (s.ctlOf c).check) → s.authRuns e.1 d q 4) ∧
      (s.lockedOut c = false → s.checkOk q = true → (s.ctlOf c).l < q.cmd.counter → q.cmd.rsv ≠ 0 → s.authRuns e.1 d q 6)) ∧
    (∀ e ∈ [(Instr.releaseTo, 0x11), (.heartbeat, 0x12), (.activate, 0x13), (.stageClear, 0x14)],
      s.executes e.2 q qs → ¬owned → s.authRuns e.1 d q 2) ∧
    (s.executes 0x01 q qs →
      let a := accessOf b
      let u : State := { d with dict := { d.dict with seg := d.dict.seg.del c } }
      ((b.length < 12 ∨ b.length ≠ 12 + a.cnt) → s.authRuns .objectWrite d q 7) ∧
      (b.length = 12 + a.cnt → a.rsv = 0 → a.stg = false → a.off = 0 → a.size = a.cnt → a.cnt ≤ 216 →
        (s.lookup a.index a.sub = none → s.authRuns .objectWrite u q 5) ∧
        (∀ o, s.lookup a.index a.sub = some o →
          ((o.acc.admits .auth = false ∨ ¬owned ∧ (a.index ≠ 0x1020 ∨ s.own.owner ≠ none)) → s.authRuns .objectWrite u q 2) ∧
          (o.acc.admits .auth = true → owned →
            (decodeVal o.ty (b.drop 12) = none → s.authRuns .objectWrite u q 7) ∧
            (∀ v, decodeVal o.ty (b.drop 12) = some v → o.cls = .config →
              (s.stageStatus a.index a.sub v ≠ 0 → s.authRuns .objectWrite u q (s.stageStatus a.index a.sub v)) ∧
              (s.stageStatus a.index a.sub v = 0 → s.authRuns .objectWrite { u with
                dict := { u.dict with staged := s.dict.staged.put (okey a.index a.sub) v } } q 0)))))) ∧
    (s.executes 0x10 q qs →
      (b.length ≠ 4 → s.authRuns .claim d q 7) ∧
      (∀ prio rsv lo hi : Byte, b = [prio, rsv, lo, hi] →
        let given := lo.toNat + 256 * hi.toNat
        let len := if given = 0 then s.cfg 0x2020 2 else given
        let pref : Bool := s.start.prefWindow && c == s.cfg 0x2020 5
        let st : Start := if pref then { s.start with prefClaimed := true } else s.start
        ((15 < prio.toNat ∨ rsv ≠ 0 ∨ len < 5 ∨ 600 < len) → s.authRuns .claim d q 6) ∧
        (prio.toNat ≤ 15 → rsv = 0 → 5 ≤ len → len ≤ 600 →
          ((owned ∨ s.own.owner = none ∧ s.heldBack c = false) → s.authRuns .claim { d with
            start := st, dict := { s.dict with staged := if owned then s.dict.staged else [] }
            own := { owner := some c, leaseAt := s.clock.refc, leaseLen := len, prio := prio.toNat
                     claims := s.own.claims.del c } } q 0) ∧
          (¬owned → (s.own.owner ≠ none ∨ s.heldBack c = true) → s.authRuns .claim { d with
            start := st
            own := { s.own with claims := s.own.claims.put c ⟨prio.toNat, len, s.clock.refc⟩ } } q 1)))) ∧
    (s.executes 0x11 q qs → owned →
      let gone (o : Option Nat) (len prio : Nat) (cs : Tab Claim) : State := { d with
        dict := { s.dict with staged := [] }
        own := { owner := o, leaseAt := s.clock.refc, leaseLen := len, prio := prio, claims := cs } }
      (b.length ≠ 1 → s.authRuns .releaseTo d q 7) ∧
      (b = [0xFF] → s.authRuns .releaseTo (gone none 0 0 s.own.claims) q 0) ∧
      (∀ n : Byte, b = [n] → n ≠ 0xFF →
        ((8 < n.toNat ∨ n.toNat = c ∨ (s.ctlOf n.toNat).key = none) → s.authRuns .releaseTo d q 6) ∧
        (n.toNat ≤ 8 → n.toNat ≠ c → (s.ctlOf n.toNat).key ≠ none →
          (∀ k, s.own.claims.find n.toNat = some k →
            s.authRuns .releaseTo (gone (some n.toNat) k.lease k.prio (s.own.claims.del n.toNat)) q 0) ∧
          (s.own.claims.find n.toNat = none →
            s.authRuns .releaseTo (gone (some n.toNat) (s.cfg 0x2020 2) 0 s.own.claims) q 0)))) ∧
    (s.executes 0x12 q qs → owned → (b ≠ [] → s.authRuns .heartbeat d q 7) ∧
      (b = [] → s.authRuns .heartbeat { d with own := { s.own with leaseAt := s.clock.refc } } q 0)) ∧
    (s.executes 0x14 q qs → owned → (b ≠ [] → s.authRuns .stageClear d q 7) ∧
      (b = [] → s.authRuns .stageClear { d with dict := { s.dict with staged := [] } } q 0)) ∧
    (s.executes 0x13 q qs → owned → (b.length ≠ 8 → s.authRuns .activate d q 7) ∧
      (b.length = 8 →
        let epoch : W64 := BitVec.ofNat 64 (leNat b)
        let set := s.accepted s.dict.staged
        let waits (e : Nat × Val) : Bool := governorKey e.1 && s.gov.ladder ≤ 1
        ((s.notReady = true ∨ s.dict.act ≠ none) → s.authRuns .activate d q 8) ∧
        (s.notReady = false → s.dict.act = none →
          (epoch ≤ s.dict.epoch → s.authRuns .activate d q 0x0A) ∧
          (s.dict.epoch < epoch → (∀ e ∈ set, actingKey e.1 = false) → ∃ u, s.authRuns .activate u q 0 ∧
            u.dict = { s.dict with
              eff := (set.filter (fun e => !waits e)).foldl (fun t e => t.put e.1 e.2) s.dict.eff, staged := []
              act := some { epoch := epoch, set := set, before := s.dict.eff, late := set.filter waits }
              refusedCount := s.dict.staged.length - set.length } ∧
            u.own = s.own ∧ u.mem = s.mem ∧ u.launches = s.launches ∧ u.disables = s.disables ∧ u.dies = s.dies) ∧
          (s.dict.epoch < epoch → ∀ i n, i < 8 →
            (set = [(okey 0x4036 (i + 1), .num n)] → ∃ u, s.authRuns .activate u q 0 ∧ u.dict.staged = [] ∧
              (u.port i).state = if n = 1 ∧ (s.port i).active = true ∧ ((s.port i).ideIo && (s.port i).ideMem) = false then 7
                else if n = 0 ∧ (s.port i).state = 7 then 3 else (s.port i).state) ∧
            (set = [(okey 0x4035 (i + 1), .num 1)] → (s.port i).state = 6 → ∃ u, s.authRuns .activate u q 0 ∧
              (u.port i).state = 1 ∧ (u.port i).quiesced = false) ∧
            (set = [(okey 0x4035 (i + 1), .num 0)] → s.homed i = [] → ∃ u, s.authRuns .activate u q 0 ∧
              (u.port i).state = 6 ∧ (u.port i).quiesced = true) ∧
            (set = [(okey 0x5010 (i + 1), .num n)] → (s.die i).mask.toNat ≠ n → ∃ u, s.authRuns .activate u q 0 ∧
              (u.die i).masking = true ∧ (u.die i).mask = (s.die i).mask) ∧
            (set = [(okey 0x6020 (i + 1), .num 1)] → ∃ u, s.authRuns .activate u q 0 ∧ (u.die i).disabled = false) ∧
            (set = [(okey 0x6020 (i + 1), .num 0)] → (s.die i).disabled = false → s.launches = [] → ∃ u,
              s.authRuns .activate u q 0 ∧ (u.die i).disabled = true ∧
              u.disables.find s.nextDisable = some { scope := .die i, fence := none, at' := s.clock.refc }) ∧
            (set = [(okey 0x7010 (i + 1), .num 1)] → ∃ u, s.authRuns .activate u q 0 ∧ (u.engine i).disabled = false) ∧
            (set = [(okey 0x7010 (i + 1), .num 0)] → (s.engine i).disabled = false → (s.engine i).streams = [] → ∃ u,
              s.authRuns .activate u q 0 ∧ (u.engine i).disabled = true ∧
              u.disables.find s.nextDisable = some { scope := .codec i, fence := none, at' := s.clock.refc })))))

/-- 17 R415, R418 to R422, R425: what time brings to ownership, and how activations and slice mask changes end. -/
def Obligations.OwnershipAndActivationsInTime : Prop :=
  -- 17 R415, R418 to R422: when a lease has run out the best claim that stood at its end (highest priority, then lowest number) takes the
  -- module, and where none stands it has no owner; the staged copy goes with a change of owner. A claim lapses after twice its lease, a
  -- lockout ends, and the preferred owner's window closes into an election where it has not claimed.
  (∀ s : State, s.runs = true →
     let elects (i : Instr) (st : Start) (at' : Nat) : Prop :=
       let live : Tab Claim := s.own.claims.filter (fun e => !e.2.lapsed at')
       (live = [] → exec i s = .next { s with
         start := st, dict := { s.dict with staged := if s.own.owner = none then s.dict.staged else [] }
         own := { owner := none, leaseAt := s.clock.refc, leaseLen := 0, prio := 0, claims := [] } }) ∧
       (∀ c k, (c, k) ∈ live → (∀ e ∈ live, e = (c, k) ∨ e.2.prio < k.prio ∨ e.2.prio = k.prio ∧ c < e.1) →
         exec i s = .next { s with
           start := st, dict := { s.dict with staged := if s.own.owner = some c then s.dict.staged else [] }
           own := { owner := some c, leaseAt := s.clock.refc, leaseLen := k.lease, prio := k.prio, claims := live.del c } })
     (s.leaseOver = false → exec .leaseExpiry s = .next s) ∧
     (s.leaseOver = true → elects .leaseExpiry s.start s.leaseEnd) ∧
     (∀ (c : Fin 9) k, s.own.claims.find c.val = some k →
       (s.now < k.at'.toNat + 200000000 * k.lease → exec (.claimLapse c) s = .next s) ∧
       (k.at'.toNat + 200000000 * k.lease ≤ s.now →
         exec (.claimLapse c) s = .next { s with own := { s.own with claims := s.own.claims.del c.val } })) ∧
     (∀ (c : Fin 9) t0, (s.ctlOf c.val).lockedUntil = some t0 →
       (s.now < t0.toNat → exec (.lockoutExpiry c) s = .next s) ∧
       (t0.toNat ≤ s.now → exec (.lockoutExpiry c) s = .next { s with sec := { s.sec with
         ctl := s.sec.ctl.put c.val { s.ctlOf c.val with lockedUntil := none, bad := 0 } } })) ∧
     (s.windowOver = false → exec .preferredOwnerWindowEnd s = .next s) ∧
     (s.windowOver = true → (s.start.prefClaimed = true ∨ s.own.owner ≠ none) →
       exec .preferredOwnerWindowEnd s = .next { s with start := { s.start with prefWindow := false } }) ∧
     (s.windowOver = true → s.start.prefClaimed = false → s.own.owner = none →
       elects .preferredOwnerWindowEnd { s.start with prefWindow := false } s.windowEnd)) ∧
  -- 17 Table 17.13 order 5, 12 Table 12.3: an activation whose every object has taken effect ends: the epoch is in force and record
  -- 0x51 carries the digest's first bytes. A slice mask takes effect once no launch runs on its die: the cache is written back and emptied,
  -- and only slices that become scratchpad have new contents.
  (∀ s : State, s.runs = true →
     (∀ a, s.dict.act = some a →
       let w := s.applyLate.applyFloor
       let u : State := { w with dict := { w.dict with act := none, epoch := a.epoch } }
       (s.activationDone a = false → exec .activationDone s = .next s) ∧
       (s.activationDone a = true → ∃ t r, exec .activationDone s = .next t ∧ Records u t ∧ t.log = s.log.enter r ∧ r.cause = 0x51 ∧
         r.detail = BitVec.ofNat 64 (leNat (u.digest.take 8)))) ∧
     (∀ d : Fin 4, (s.die d.val).masking = true →
       let new : W16 := BitVec.ofNat 16 (s.cfg 0x5010 (d.val + 1))
       (s.runningOn d.val ≠ [] → exec (.sliceMaskChange d) s = .next s) ∧
       (s.runningOn d.val = [] → ∃ t, exec (.sliceMaskChange d) s = .next t ∧
         t = { s with hbm := t.hbm, wq := t.wq, caches := t.caches, dies := t.dies, mem := t.mem, fresh := t.fresh } ∧
         t.die d.val = { s.die d.val with mask := new, masking := false } ∧ (∀ j, j ≠ d.val → t.die j = s.die j) ∧
         (t.cache d.val).lines = [] ∧
         ∀ x, (∀ i, i < 16 → flag new i = true → flag (s.die d.val).mask i = false →
             x < sliceAddr d.val i ∨ sliceAddr d.val i + sliceBytes ≤ x) → t.mem.get x = s.mem.get x)))

/-- 17 R408, Table 17.8, 18 R436, R439 to R441, 19 R454, 14 Table 14.5, 21 R478 to R483: a write by the owner has its object's
effect and is answered 0; one by another controller is answered 2 and changes nothing; the bring-up objects are answered 2 outside
bring-up mode and 8 while an action runs. -/
def Obligations.ObjectWritesAct : Prop :=
  ∀ (c : Fin 9) (s : State),
    let ans (u : State) (n : Nat) : Out := .next { u with out := u.out ++ [.status c.val n] }
    (s.runs = true → s.settled → s.own.owner ≠ some c.val → ∀ (x : W32) (u : Fin 64) (n m k : Nat) (bs : List Byte),
      ∀ i ∈ [Instr.firmwareUpdateWrite c, .firmwareUpdateVerify c, .moduleResetRequest c, .logClear c, .ladderRequest c,
          .attestationNonce c bs, .bringUpMode c n, .memorySelfTest c m k, .softRepair c m k, .hardRepair c m k,
          .fullTraining c m k, .proposedRepairWrite c u x, .buildBundle c], exec i s = ans s 2) ∧
    (s.ownerWrites c.val →
      exec (.logClear c) s = ans { s with log := { overwritten := s.log.overwritten } } 0 ∧
      exec (.moduleResetRequest c) s =
        ans { s with start := { s.start with resetAt := some (s.start.resetAt.getD s.clock.refc) } } 0 ∧
      (s.gov.ladder = 0 → exec (.ladderRequest c) s = ans s 0) ∧
      (s.gov.ladder = 4 → exec (.ladderRequest c) s = ans { s with gov := { s.gov with l4Wake := true } } 0) ∧
      (0 < s.gov.ladder → s.gov.ladder ≠ 4 → exec (.ladderRequest c) s =
        ans { s with gov := { s.gov with ladder := 0, idleSince := none, scrubFrom := none } } 0) ∧
      (∀ bs : List Byte, exec (.attestationNonce c bs) s = if bs.length = 32 then
          ans { s with fw := { s.fw with nonce := bs, report := s.reportBody bs ++ identitySign (s.reportBody bs) } } 0
        else ans s 7) ∧
      (∀ e ∈ [(Instr.firmwareUpdateWrite c, 1), (.firmwareUpdateVerify c, 2)],
        (s.fw.updState = 1 ∨ s.fw.updState = 2 → exec e.1 s = ans s 8) ∧
        (s.fw.updState ≠ 1 → s.fw.updState ≠ 2 →
          (s.imageRange s.fw.updAddr s.fw.updLen = false → exec e.1 s = ans s 6) ∧
          (s.imageRange s.fw.updAddr s.fw.updLen = true → exec e.1 s = ans { s with fw := { s.fw with
            updAction := e.2, updState := 1, updFail := 0, updFrom := s.fw.updAddr
            updImage := s.mem.read s.fw.updAddr s.fw.updLen } } 0))) ∧
      (∀ mode, ((s.bringBusy = true ∨ s.notReady = true) → exec (.bringUpMode c mode) s = ans s 8) ∧
        (s.bringBusy = false → s.notReady = false →
          (1 < mode → exec (.bringUpMode c mode) s = ans s 6) ∧
          (mode = 1 → (s.ctxs ≠ [] ∨ ∃ e ∈ s.codecs, e.2.streams ≠ []) → exec (.bringUpMode c mode) s = ans s 6) ∧
          (mode = 0 ∨ mode = 1 ∧ s.ctxs = [] ∧ (∀ e ∈ s.codecs, e.2.streams = []) →
            exec (.bringUpMode c mode) s = ans { s with start := { s.start with bringUp := mode } } 0))) ∧
      (∀ st arg, ∀ e ∈ [(Instr.memorySelfTest c st arg, 1, 48), (.softRepair c st arg, 2, 23), (.hardRepair c st arg, 3, 23),
          (.fullTraining c st arg, 4, 48)],
        (s.start.bringUp ≠ 1 → exec e.1 s = ans s 2) ∧
        (s.start.bringUp = 1 → s.bringBusy = true → exec e.1 s = ans s 8) ∧
        (s.bringUpFree → st < 256 →
          ((arg % 2 ^ e.2.2 ≠ 0 ∨ s.stackCount ≤ st ∨ (s.stack st).state = 3) → exec e.1 s = ans s 6) ∧
          (arg % 2 ^ e.2.2 = 0 → st < s.stackCount → (s.stack st).state ≠ 3 → ∃ t, exec e.1 s = .next t ∧
            Touches s { t with fw := s.fw, out := s.out } ∧ (t.stack st).acting = true ∧ t.out = s.out ++ [.status c.val 0] ∧
            (∀ l ∈ (t.cache (st / s.spd)).lines, l.line * 256 / stackRange ≠ st) ∧
            t.fw = { s.fw with
              stackReq := BitVec.ofNat 64 (2 ^ 56 * st + 2 ^ 48 * e.2.1 + arg % 2 ^ 48), stackState := 1 }))) ∧
      (∀ u : Fin 64, ∀ w : W32, (s.start.bringUp ≠ 1 → exec (.proposedRepairWrite c u w) s = ans s 2) ∧
        (s.start.bringUp = 1 → s.bringBusy = true → exec (.proposedRepairWrite c u w) s = ans s 8) ∧
        (s.bringUpFree → exec (.proposedRepairWrite c u w) s = if repairOk w.toNat then
          ans { s with mus := s.mus.put u.val { s.mu u.val with proposed := w } } 0 else ans s 6)) ∧
      (s.bringUpFree → s.fw.updState ≠ 1 → s.fw.updState ≠ 2 → exec (.buildBundle c) s =
        ans { s with fw := { s.fw with buildState := 1, buildPkg := s.buildPackage } } 0) ∧
      (∀ (w : W64) points held, s.bringUpFree →
        let r := sweepReq w.toNat
        let bad := r.ok = false ∨ 5 < r.die ∨ (s.die r.die).present = false ∨ (4 ≤ r.die ∧ s.portsActive r.die = true)
        (bad → exec (.marginSweep c w points held) s = ans s 6) ∧
        (¬bad → ∃ t ps, exec (.marginSweep c w points held) s = .next t ∧ t.out = s.out ++ [.status c.val 0] ∧ t.mem = s.mem ∧
          t.fw = { s.fw with sweepReq := w, sweepState := if held then 3 else 2, sweepPoints := ps } ∧
          ps.length = min r.points points.length ∧
          (∀ i x y, i < ps.length → points[i]? = some (x, y) → ps[i]? = some (r.first + i * r.step, x, min y 65535)) ∧
          ((∀ e ∈ ps, e.2.2 = 0) → t.dies = s.dies ∧ t.mus = s.mus))) ∧
      (∀ a o v, a.rsv = 0 → a.stg = false → a.off = 0 → a.cnt = a.size → a.data.length = a.cnt → a.cnt ≤ 65535 →
        s.lookup a.index a.sub = some o → o.cls = .config → o.acc = .rwa → decodeVal o.ty a.data = some v →
        let u : State := { s with dict := { s.dict with seg := s.dict.seg.del c.val } }
        exec (.dictionaryWrite c a) s = if s.stageStatus a.index a.sub v = 0 then
            ans { u with dict := { u.dict with staged := s.dict.staged.put (okey a.index a.sub) v } } 0
          else ans u (s.stageStatus a.index a.sub v)))

/-- 18 R435, 19 R446 to R452, 21 R479, R480, R483: what was started ends. A package that fails a check of Table 19.3 is refused with
the check's code; an accepted owner key takes its slot, accepted command keys their controllers, each with its floor. An update's
verification ends in code, in rest or in writing; writing puts the package into the spare bank on trial. A stack action leaves its
result and the contents and repairs of Table 21.3; a built bundle stands in the spare bank. -/
def Obligations.UpdatesAndActionsEnd : Prop :=
  ∀ s : State,
    (∀ (c : Fin 9) (pkg : List Byte), s.runs = true → s.settled → (s.own.owner = none ∨ s.own.owner = some c.val) →
      let p := pkgOf pkg
      let code := s.pkgCode [3, 4] 4096 false pkg
      (∀ e ∈ [(Instr.ownerKeyEnrolment c pkg, 3), (.commandKeyEnrolment c pkg, 4)], p.ty = e.2 → code ≠ 0 →
        ∃ t r ms, exec e.1 s = .next t ∧ Records s t ∧ t.log = s.log.enter r ∧ r.cause = 0x52 ∧ r.detail = BitVec.ofNat 64 code ∧
          t.out = s.out ++ ms ++ [.status c.val 6]) ∧
      (p.ty = 3 → code = 0 →
        let slot := leNat (p.body.take 1)
        let key := p.body.drop 8
        exec (.ownerKeyEnrolment c pkg) s = .next { s with
          fw := { s.fw with
            ownerKeys := if ∀ b ∈ key, b = 0 then s.fw.ownerKeys.del slot else s.fw.ownerKeys.put slot key
            floorOwner := p.version }
          out := s.out ++ [.status c.val 0] }) ∧
      (∀ es, p.ty = 4 → code = 0 → commandKeys p = some es → ∃ t, exec (.commandKeyEnrolment c pkg) s = .next t ∧
        t = { s with sec := { s.sec with ctl := t.sec.ctl }, fw := { s.fw with floorCmd := p.version }
                     out := s.out ++ [.status c.val 0] } ∧
        ∀ k, t.ctlOf k = { s.ctlOf k with key := match es.reverse.find? (fun e => e.1 == k) with
          | some e => some e.2
          | none => (s.ctlOf k).key })) ∧
    (∀ ok : Bool, let f := s.fw
      (f.updState ≠ 1 → f.updState ≠ 2 → exec (.updateComplete ok) s = .next s) ∧
      (f.updState = 1 →
        let first := s.pkgCode [1, 2] 0x4000000 false f.updImage
        let code := if first = 0 ∧ s.mem.read f.updFrom f.updImage.length ≠ f.updImage then 8 else first
        (code ≠ 0 → exec (.updateComplete ok) s = .next { s with fw := { f with updState := 4, updFail := code, updImage := [] } }) ∧
        (code = 0 → exec (.updateComplete ok) s = .next { s with fw :=
          if f.updAction = 2 then { f with updState := 0, updImage := [] } else { f with updState := 2 } })) ∧
      (f.updState = 2 →
        let p := pkgOf f.updImage
        let n := if p.ty = 1 then 1 - f.running else 1 - f.inForce
        let put (b : FlashBank) : Firmware :=
          if p.ty = 1 then { f with fwBanks := f.fwBanks.put n b } else { f with cfgBanks := f.cfgBanks.put n b }
        (ok = true → exec (.updateComplete ok) s = .next { s with fw := { put { mark := .trial, pkg := f.updImage } with
          floorCfg := if p.ty = 2 then max f.floorCfg p.version else f.floorCfg, updState := 3, updImage := [] } }) ∧
        (ok = false → f.buildState ≠ 1 → exec (.updateComplete ok) s = .next { s with fw := { put {} with
          updState := 4, updFail := 9, updImage := [] } }))) ∧
    (∀ (outcome count : Nat) (entries : List W64), s.runs = true → s.fw.stackState = 1 → outcome ≤ 3 →
      let r := stackReq s.fw.stackReq.toNat
      1 ≤ r.action → r.action ≤ 4 → ∃ t, exec (.stackActionDone outcome count entries) s = .next t ∧
        t = { s with hbm := t.hbm, mem := t.mem, fresh := t.fresh, fw := t.fw } ∧
        t.fw = { s.fw with
          stackState := if outcome ≤ 1 then 2 else 3, stackResult := stackResult r outcome count entries
          trainArea := if r.action = 4 ∧ outcome ≤ 1 then
              s.fw.trainArea.put r.stack (fit 256 (entries.flatMap (fun e => natLe 8 e.toNat)))
            else s.fw.trainArea } ∧
        (∀ n, n ≠ r.stack → t.stack n = s.stack n) ∧ (t.stack r.stack).acting = false ∧
        (t.stack r.stack).repaired = (if (r.action = 2 ∨ r.action = 3) ∧ outcome = 0 then
            (s.stack r.stack).repaired ++ [(r.pc, r.bank, r.row, r.action == 3)] else (s.stack r.stack).repaired) ∧
        (r.action = 1 → ∀ x, (x < stackRange * r.stack ∨ stackRange * r.stack + stackBytes ≤ x) → t.mem.get x = s.mem.get x) ∧
        (r.action = 4 → t.mem = s.mem) ∧
        (r.action = 2 ∨ r.action = 3 → ∀ x, (∀ a ∈ rowPieces r.pc r.bank r.row,
          x < stackRange * r.stack + a ∨ stackRange * r.stack + a + 512 ≤ x) → t.mem.get x = s.mem.get x)) ∧
    (s.runs = true → s.fw.buildState = 1 → let f := s.fw
      exec (.bundleBuilt true) s = .next { s with fw := { f.writeBank f.buildPkg with
        buildState := 2, buildDigest := sha3_256 (pkgOf f.buildPkg).body, buildPkg := [] } } ∧
      (f.updState ≠ 2 → exec (.bundleBuilt false) s = .next { s with fw := { f with
        cfgBanks := f.cfgBanks.put (1 - f.inForce) {}, buildState := 3, buildPkg := [] } }))

/-! ### Start-up, resets and the environment -/

/-- 18 R436, 19 R448 to R450, 20 R465, R468, 21 R470 to R476, 22 R488: a start on banks that pass, with nothing found wrong, reaches
Ready with every stack, die and unit in service and the record that a module stop left as the log's first; a fault of the input, of
stack 0 or of all dies fails with its code. A reset, a module stop and a loss of input leave the module in reset with what flash and
the island keep; a watchdog expiry restarts the controller, and the third in an hour stops the module, also during start-up; trial
banks that do not come up in 30 s are marked invalid. -/
def Obligations.StartsAndResets : Prop :=
  (∀ (r : ColdReport) (s : State), (s.start.power = .off ∨ s.start.power = .reset) → s.start.held = false → s.start.fail = 0 →
    r.overrun = none → r.watchdog = 0 →
    (r.inputOk = false → ∃ t, exec (.coldStart r) s = .next t ∧ t.start.power = .latched ∧ t.start.fail = 0x11 ∧ t.start.phase = 1) ∧
    (r.inputOk = true → r.flashOk = true → r.rootOk = true → r.identityOk = true → r.counterOk = true → s.log = {} →
      s.fw.fwBanks = [(0, { mark := .active, factory := true })] →
      s.fw.cfgBanks = [(0, { mark := .active, factory := true })] →
      (r.badStacks.contains 0 = true → ∃ t, exec (.coldStart r) s = .next t ∧ t.start.power = .running ∧ t.start.held = true ∧
        t.start.fail = 0x31) ∧
      (r.badStacks = [] → r.badIo = [] → r.badPorts = [] → r.badCodecs = [] →
        ((∀ d, d < 4 → ((r.dies.getD d {}).ok && (r.dies.getD d {}).memCtlOk && (r.dies.getD d {}).trimOk) = false) →
          ∃ t, exec (.coldStart r) s = .next t ∧ t.start.power = .running ∧ t.start.held = true ∧ t.start.fail = 0x71) ∧
        ((∀ d, d < 4 → ((r.dies.getD d {}).ok && (r.dies.getD d {}).memCtlOk && (r.dies.getD d {}).trimOk) = true) →
          (∃ d, 4 ≤ d ∧ d < s.dieCount ∧ (s.die d).failed = false ∧ (r.dies.getD d {}).trimOk = false) →
          ∃ t, exec (.coldStart r) s = .next t ∧ t.start.power = .running ∧ t.start.held = true ∧ t.start.fail = 0x7F) ∧
        ((∀ d, d < 4 → ((r.dies.getD d {}).ok && (r.dies.getD d {}).memCtlOk && (r.dies.getD d {}).trimOk) = true) →
          (∀ d, 4 ≤ d → d < s.dieCount → (r.dies.getD d {}).trimOk = true) →
          ∃ t, exec (.coldStart r) s = .next t ∧ t.start.power = .running ∧ t.start.phase = 8 ∧ t.start.fail = 0 ∧
            t.start.held = false ∧ t.ring.inserted = r.rxLock ∧ t.dict.epoch = 0 ∧ t.dict.eff = [] ∧
            t.start.readyAt = s.clock.refc ∧ (∀ n, n < s.stackCount → (t.stack n).state = 1) ∧
            (∀ i, i < s.portCount → (t.port i).state = 1) ∧
            (∀ d, d < 4 → (t.die d).present = true ∧ (t.die d).failed = false) ∧
            (∀ u, u < 64 → ¬ u % 16 ∈ (r.dies.getD (u / 16) {}).badUnits → (t.mu u).state = 0) ∧
            (s.start.carried = none → t.log = {}) ∧
            (∀ x, s.start.carried = some x → x.cause = 0x31 → t.log.entries = [{ x with seq := 1 }] ∧ t.start.carried = none) ∧
            (∀ x, s.start.carried = some x → x.cause ≠ 0x31 → ∃ y, t.log.entries = [{ x with seq := 1 }, y] ∧ y.cause = 0x33 ∧
              y.detail = BitVec.ofNat 64 x.cause ∧ t.start.carried = none))))) ∧
  (∀ (r : ColdReport) (s : State), (s.start.power = .off ∨ s.start.power = .reset) → 0 < r.watchdog →
    let before := (s.start.wdTimes.filter (fun t => s.now < t.toNat + 360000000000)).length
    let n := min (s.start.wdExpiries + r.watchdog) (2 ^ 32 - 1)
    (3 ≤ before + r.watchdog → ∃ t x, exec (.coldStart r) s = .next t ∧ t.start.power = .latched ∧ t.start.carried = some x ∧
      x.cause = 0x32 ∧ x.detail = BitVec.ofNat 64 n) ∧
    (before + r.watchdog < 3 → r.overrun = none → r.inputOk = false → ∃ t, exec (.coldStart r) s = .next t ∧ t.start.power = .latched ∧
      t.start.fail = 0x11 ∧ t.start.wdExpiries = n)) ∧
  (∀ s : State,
    (∀ t0, s.start.resetAt = some t0 →
      (s.now < t0.toNat + 100000 → exec .moduleReset s = .next s) ∧
      (t0.toNat + 100000 ≤ s.now → ∃ t, exec .moduleReset s = .next t ∧ s.inReset t .reset ∧ t.clock.refc = s.clock.refc ∧
        (s.fw.updState ≠ 2 → s.fw.buildState ≠ 1 → t.fw.fwBanks = s.fw.fwBanks ∧ t.fw.cfgBanks = s.fw.cfgBanks))) ∧
    (s.start.power ≠ .off → ∃ t, exec .inputLoss s = .next t ∧ s.inReset t .off ∧ t.clock.refc = 0 ∧ t.start.fail = 0) ∧
    (s.runs = true → ∀ die block cause, (cause = 0x21 ∨ cause = 0x22) → stopsModule die block = true →
      s.blockPresent die block = true →
      ∃ t r, exec (.moduleStop die block cause) s = .next t ∧ (s.abortAll cause).inReset t .reset ∧ t.start.carried = some r ∧
        r.cause = cause ∧ r.die = die ∧ r.block = block ∧ r.cls = 4 ∧ r.sev = 4 ∧ r.carried = true) ∧
    (s.runs = true → s.start.wdRestarting = false →
      let recent := s.start.wdTimes.filter (fun t => s.now < t.toNat + 360000000000)
      let n := min (s.start.wdExpiries + 1) (2 ^ 32 - 1)
      (recent.length < 2 → exec .watchdogExpiry s = .next { s with
        start := { s.start with wdExpiries := n, wdTimes := recent ++ [s.clock.refc], wdRestarting := true }
        ring := { s.ring with inserted := false } }) ∧
      (2 ≤ recent.length → ∃ t r, exec .watchdogExpiry s = .next t ∧ t.start.power = .latched ∧ t.ctxs = [] ∧ t.queues = [] ∧
        t.start.carried = some r ∧ r.cause = 0x32 ∧ r.cls = 7 ∧ r.detail = BitVec.ofNat 64 n)) ∧
    (s.runs = true → s.start.wdRestarting = true → ∃ t r, exec .watchdogRestart s = .next t ∧
      Records { s with
        start := { s.start with wdRestarting := false }
        ring := { s.ring with inserted := true, cycleAt := s.clock.refc } } t ∧
      t.log = s.log.enter r ∧ r.cause = 0x32 ∧ r.detail = BitVec.ofNat 64 s.start.wdExpiries) ∧
    (s.start.fail ≠ 0 → 2 ≤ s.start.phase → s.start.tripped = false → s.fw.onTrial = true →
      (s.now < s.start.powerUpAt.toNat + 3000000000 → exec .trialBankTimeout s = .next s) ∧
      (s.start.powerUpAt.toNat + 3000000000 ≤ s.now → ∃ t, exec .trialBankTimeout s = .next t ∧ s.inReset t .reset ∧
        ((s.fw.fwBanks.get {} s.fw.running).mark = .trial → (t.fw.fwBanks.get {} s.fw.running).mark = .invalid) ∧
        ((s.fw.cfgBanks.get {} s.fw.inForce).mark = .trial → (t.fw.cfgBanks.get {} s.fw.inForce).mark = .invalid))))

/-- 12 R294, R296, R307, R308, 20 R462, 22 R484 to R486: patrol reads walk a stack, count what they correct and record what they
cannot; a scrub of SRAM walks word by word, counts, and records a word it cannot correct; refreshes go round the banks; the refresh
rate doubles above 85 °C and returns at 82 °C; a batch issues 64 writes; more than 1000 corrections in a second are recorded. A
reading outside Table 22.1 sets the condition, which holds for 10 s after the last; beyond the absolute maxima the manual says
nothing and the block stops. -/
def Obligations.MemoryAndEnvironment : Prop :=
  ∀ s : State,
    (∀ n, s.stackUp n = true →
      let k := s.stack n
      let here (x : Stack) : State := { s with hbm := s.hbm.put n x }
      let half := 2 * k.walk
      let step := { k with walk := (k.walk + 1) % 402653184 }
      (s.cfg 0x5020 1 ≠ 0 → s.gov.ladder ≤ 1 → k.acting = false →
        (k.bad.contains half = false → k.bad.contains (half + 1) = false →
          exec (.hbmPatrolRead n .clean) s = .next (here step) ∧
          let seen := here { step with corrected := min (k.corrected + 1) (2 ^ 32 - 1) }
          let a := stackRange * n + 64 * k.walk
          exec (.hbmPatrolRead n .corrected) s =
            .next (if (s.cache (n / s.spd)).lines.any (fun l => l.line == a / 256 && l.dirty) then seen else seen.queueWrite a 64)) ∧
        (∀ lo hi, (lo || hi) = true → ∃ t r, exec (.hbmPatrolRead n (.uncorrectable lo hi)) s = .next t ∧
          Records (here { step with bad := (t.stack n).bad, uncorrectable := min (k.uncorrectable + 1) (2 ^ 32 - 1) }) t ∧
          (lo = true → half ∈ (t.stack n).bad) ∧ (hi = true → half + 1 ∈ (t.stack n).bad) ∧ (∀ x ∈ k.bad, x ∈ (t.stack n).bad) ∧
          t.log = s.log.enter r ∧ r.cause = 0x24 ∧ r.sev = 1 ∧ r.detail = stackDetail (stackRange * n + 64 * k.walk))) ∧
      (s.cfg 0x5020 1 = 0 → ∀ sev, exec (.hbmPatrolRead n sev) s = .next s) ∧
      (∀ pc, pc < 32 → s.gov.ladder ≤ 1 → exec (.bankRefresh n pc) s =
        .next (here { k with bankNext := k.bankNext.put pc ((k.bankNext.get 0 pc + 1) % 32) })) ∧
      (∀ temp : Int, exec (.stackTemperatureRead n temp) s = .next (here { k with
        temp := temp, doubled := if 85 * 8 < temp then true else if temp ≤ 82 * 8 then false else k.doubled })) ∧
      (∀ pc, pc < 32 → exec (.writeBatch n pc) s =
        .next { s with
          hbm := if s.wq.get [] (32 * n + pc) = [] then s.hbm else s.hbm.put n (k.drain n)
          wq := s.wq.put (32 * n + pc) ((s.wq.get [] (32 * n + pc)).drop 64) })) ∧
    (∀ die block word (mask : BitVec 39) raced, s.runs = true → die ≤ 5 → (s.die die).present = true → s.cfg 0x5020 3 ≠ 0 →
      s.gov.ladder ≤ 1 → (∀ w ∈ (s.die die).badWords, w.1 = block → w.2.1 ≠ word) →
      (s.scrubAt die ≠ (block, word) → exec (.sramScrubRead die block word mask raced) s = .next s) ∧
      (s.scrubAt die = (block, word) →
      let put (x : Die) : State := { s with dies := s.dies.put die { x with scrub := scrubNext die (block, word) } }
      (upsetSynd mask = .clean → exec (.sramScrubRead die block word mask raced) s = .next (put (s.die die))) ∧
      (((∃ i, upsetSynd mask = .check i) ∨ ∃ i, upsetSynd mask = .data i) → exec (.sramScrubRead die block word mask raced) s =
        .next (put { (s.die die).intoSecond (s.now / 100000000) with
          corrected := min ((s.die die).corrected + 1) (2 ^ 32 - 1) })) ∧
      (∀ y, upsetSynd mask = .detected y → s.cacheWord die block word = false → (die = 4 → block ≠ 48) → ∃ t r,
        exec (.sramScrubRead die block word mask raced) s = .next t ∧
        Records (put { s.die die with
          detected := min ((s.die die).detected + 1) (2 ^ 32 - 1)
          badWords := (s.die die).badWords ++ [(block, word, mask)] }) t ∧
        t.log = s.log.enter r ∧ r.cause = 0x20 ∧ r.die = die ∧ r.block = block ∧ r.cls = 1 ∧
        r.detail = BitVec.ofNat 64 (y + word * 256)))) ∧
    (∀ die, s.runs = true → die ≤ 5 → (s.die die).present = true → (s.die die).corrSec < s.now / 100000000 →
      let x := s.die die
      let open' := x.markSec < s.now / 100000000
      let n := x.corrected - x.corrMark
      let due := if open' ∧ 1000 < n then x.corrDue ++ [n] else x.corrDue
      ∃ t, exec (.correctionRateSecond die) s = .next t ∧
        (t.die die).corrMark = (if open' then x.corrected else x.corrMark) ∧
        (t.die die).corrSec = s.now / 100000000 ∧ (t.die die).corrected = x.corrected ∧ (t.die die).corrDue = [] ∧
        t.mem = s.mem ∧ (∀ j, j ≠ die → t.die j = s.die j) ∧
        (due = [] → t.log = s.log ∧ t.out = s.out) ∧
        (∀ m, due = [m] → ∃ r, t.log = s.log.enter r ∧ r.cause = 0x28 ∧ r.die = die ∧
          r.detail = BitVec.ofNat 64 (m % 2 ^ 32))) ∧
    (∀ r : EnvReading, (s.start.power = .off → exec (.environmentalReading r) s = .next s) ∧
      (s.start.power ≠ .off →
        ((6000 < r.mv10 ∨ 360 < r.inlet) → exec (.environmentalReading r) s = .fault .beyondAbsoluteMaximum) ∧
        (r.mv10 ≤ 6000 → r.inlet ≤ 360 →
          let out := r.mv10 < 5000 ∨ 5800 < r.mv10 ∨ r.inlet < 160 ∨ 320 < r.inlet ∨ r.flow < 400 ∨ 1200 < r.flow ∨
            r.junction < 0 ∨ 800 < r.junction
          let still := ∃ t0, s.env.outAt = some t0 ∧ s.now < t0.toNat + 1000000000
          ∃ t, exec (.environmentalReading r) s = .next t ∧ Records { s with env := t.env } t ∧
            t.env.mv10 = r.mv10 ∧ t.env.ma10 = r.ma10 ∧ t.env.inlet = r.inlet ∧ t.env.outlet = r.outlet ∧ t.env.flow = r.flow ∧
            (out → t.env.outAt = some s.clock.refc) ∧ (out ∨ still → t.env.cond = 4) ∧
            (¬(out ∨ still) → t.env.cond = 0))))

/-! ### Invariants and reset -/

/-- 17 R397, R404, R407, R416: through the frames of the ring that write no object, the commands of ownership and the events of
ownership, the node's address stays one of a node (at most 250), the owner and all who claim or wait stay among the nine
controllers, and the queues of commands and of events stay within 16 and 512. -/
def Obligations.RingAndOwnershipStayInBounds : Prop :=
  ∀ (s t : State) (f : Frame) (ty : Byte) (c : Fin 9),
    let ok (x : State) : Prop := x.addrOk = true ∧ x.ownerOk = true ∧ x.cfg 0x2010 2 ≤ 250 ∧ x.sec.queue.length ≤ 16 ∧
      x.ring.queue.length ≤ 512 ∧ (∀ q ∈ x.sec.queue, q.path ≤ 8) ∧ (∀ e ∈ x.own.claims, e.1 ≤ 8)
    ∀ i ∈ [Instr.enum f, .cycle f, .cycleTimeout, .read f, .writeAuth f, .sweep f, .event f, .otherTypeFrame ty f,
        .claim, .releaseTo, .heartbeat, .stageClear, .leaseExpiry, .claimLapse c, .lockoutExpiry c, .preferredOwnerWindowEnd],
      ok s → exec i s = .next t → ok t

/-- 05 R128, 12 R303, 14 Table 14.3, 17 R417, R424, 18 R439, 20 R465, 21 R470: what reset leaves, as the manual states it: nothing
runs and no work is held, the module has no owner and is not on the ring, its log is empty, its die masks have slices 8 to 15 as
scratchpad, thermal factors are 1, and the invariants hold. The bound of the queue of commands and an empty pending queue are the
model's (log 5). -/
def Obligations.ResetState : Prop :=
  let s := State.reset
  s.pending = [] ∧ s.runs = false ∧ s.ctxs = [] ∧ s.queues = [] ∧ s.launches = [] ∧ s.moves = [] ∧ s.own.owner = none ∧
  s.own.claims = [] ∧ s.ring.inserted = false ∧ s.log.entries = [] ∧ s.gov.ladder = 0 ∧ s.dict.epoch = 0 ∧ s.dict.staged = [] ∧
  (∀ d, (s.die d).mask = 0xFF00#16 ∧ (s.die d).f = 64) ∧ (∀ u, (s.pair u).launch = none) ∧ (∀ p, (s.port p).session = none) ∧
  s.memOk = true ∧ s.addrOk = true ∧ s.ownerOk = true ∧ s.queuesOk = true
end

