-- ==== Sys2Proof/Laws/Mem.lean ====
section
/-! SUPPORT. Memory: every operation keeps the canonical form (log 7), a byte written is read back, and every other byte
reads as before. -/
namespace Sys2Proof.Machine

/-! ### Lists of cells -/

theorem rising_cons (c : Host.Cell) (t : List Host.Cell) :
    rising (c :: t) = true ↔ (∀ x ∈ t, c.1 < x.1) ∧ rising t = true := by
  induction t generalizing c with
  | nil => simp [rising]
  | cons d t ih =>
    simp only [rising, Bool.and_eq_true, decide_eq_true_eq, List.mem_cons, forall_eq_or_imp]
    constructor
    · rintro ⟨h, ht⟩
      exact ⟨⟨h, fun x hx => Nat.lt_trans h (((ih d).1 ht).1 x hx)⟩, ht⟩
    · rintro ⟨⟨h, -⟩, ht⟩
      exact ⟨h, ht⟩

theorem rising_filter (p : Host.Cell → Bool) (cs : List Host.Cell) (h : rising cs = true) : rising (cs.filter p) = true := by
  induction cs with
  | nil => rfl
  | cons c t ih =>
    have hc := (rising_cons c t).1 h
    rw [List.filter_cons]
    split
    · exact (rising_cons c _).2 ⟨fun x hx => hc.1 x (List.mem_filter.1 hx).1, ih hc.2⟩
    · exact ih hc.2

theorem rising_append (a b : List Host.Cell) (ha : rising a = true) (hb : rising b = true)
    (hab : ∀ x ∈ a, ∀ y ∈ b, x.1 < y.1) : rising (a ++ b) = true := by
  induction a with
  | nil => exact hb
  | cons c t ih =>
    have hc := (rising_cons c t).1 ha
    refine (rising_cons c _).2 ⟨fun x hx => ?_, ih hc.2 (fun x hx y hy => hab x (List.mem_cons_of_mem _ hx) y hy)⟩
    rcases List.mem_append.1 hx with hx | hx
    · exact hc.1 x hx
    · exact hab c List.mem_cons_self x hx

theorem rising_map (f : Nat → Nat) (cs : List Host.Cell) (hf : ∀ x ∈ cs, ∀ y ∈ cs, x.1 < y.1 → f x.1 < f y.1)
    (h : rising cs = true) : rising (cs.map (fun c => (f c.1, c.2))) = true := by
  induction cs with
  | nil => rfl
  | cons c t ih =>
    have hc := (rising_cons c t).1 h
    refine (rising_cons _ _).2 ⟨fun x hx => ?_,
      ih (fun x hx y hy => hf x (List.mem_cons_of_mem _ hx) y (List.mem_cons_of_mem _ hy)) hc.2⟩
    obtain ⟨y, hy, rfl⟩ := List.mem_map.1 hx
    exact hf c List.mem_cons_self y (List.mem_cons_of_mem _ hy) (hc.1 y hy)

/-- What a written list holds: the new cell when its byte is not zero, and the old cells elsewhere. -/
theorem mem_putCell {a : Nat} {b : Byte} {cs : List Host.Cell} (h : rising cs = true) {c : Host.Cell}
    (hc : c ∈ putCell a b cs) : (c = (a, b) ∧ b ≠ 0) ∨ (c ∈ cs ∧ c.1 ≠ a) := by
  induction cs with
  | nil =>
    simp only [putCell] at hc
    split at hc
    · cases hc
    · rename_i hb; simp at hc; exact .inl ⟨hc, hb⟩
  | cons d t ih =>
    obtain ⟨k, v⟩ := d
    have hd := (rising_cons (k, v) t).1 h
    have key : ∀ x ∈ t, k < x.1 := hd.1
    simp only [putCell] at hc
    split at hc
    · rename_i hk
      rcases List.mem_cons.1 hc with rfl | hc
      · exact .inr ⟨List.mem_cons_self, by simp; omega⟩
      · rcases ih hd.2 hc with h1 | h1
        · exact .inl h1
        · exact .inr ⟨List.mem_cons_of_mem _ h1.1, h1.2⟩
    · split at hc
      · rename_i hk; subst hk
        split at hc
        · exact .inr ⟨List.mem_cons_of_mem _ hc, by have := key c hc; omega⟩
        · rename_i hb
          rcases List.mem_cons.1 hc with rfl | hc
          · exact .inl ⟨rfl, hb⟩
          · exact .inr ⟨List.mem_cons_of_mem _ hc, by have := key c hc; omega⟩
      · rename_i h1 h2
        have all : ∀ x ∈ (k, v) :: t, x.1 ≠ a := by
          intro x hx
          rcases List.mem_cons.1 hx with rfl | hx
          · exact h2
          · have := key x hx; omega
        split at hc
        · exact .inr ⟨hc, all c hc⟩
        · rename_i hb
          rcases List.mem_cons.1 hc with rfl | hc
          · exact .inl ⟨rfl, hb⟩
          · exact .inr ⟨hc, all c hc⟩

theorem rising_putCell (a : Nat) (b : Byte) (cs : List Host.Cell) (h : rising cs = true) : rising (putCell a b cs) = true := by
  induction cs with
  | nil => simp only [putCell]; split <;> rfl
  | cons d t ih =>
    obtain ⟨k, v⟩ := d
    have hd := (rising_cons (k, v) t).1 h
    have key : ∀ x ∈ t, k < x.1 := hd.1
    simp only [putCell]
    split
    · rename_i hk
      refine (rising_cons _ _).2 ⟨fun x hx => ?_, ih hd.2⟩
      rcases mem_putCell hd.2 hx with ⟨rfl, -⟩ | ⟨hx, -⟩
      · exact hk
      · exact key x hx
    · split
      · rename_i hk; subst hk
        split
        · exact hd.2
        · exact (rising_cons _ _).2 ⟨key, hd.2⟩
      · split
        · exact h
        · refine (rising_cons _ _).2 ⟨fun x hx => ?_, h⟩
          rcases List.mem_cons.1 hx with rfl | hx
          · simp; omega
          · have := key x hx; simp; omega

theorem cellAt_nil (a : Nat) : cellAt [] a = none := rfl

theorem cellAt_cons (k a : Nat) (v : Byte) (t : List Host.Cell) :
    cellAt ((k, v) :: t) a = if k = a then some v else cellAt t a := by
  by_cases h : k = a
  · simp [cellAt, h]
  · have e : Nat.beq k a = false := by
      cases hb : Nat.beq k a with
      | false => rfl
      | true => exact absurd (Nat.eq_of_beq_eq_true hb) h
    simp only [cellAt, e, h, cond_false, if_false]

theorem cellAt_none_of_above (x : Nat) (cs : List Host.Cell) (h : ∀ c ∈ cs, c.1 ≠ x) : cellAt cs x = none := by
  induction cs with
  | nil => rfl
  | cons c t ih =>
    obtain ⟨k, v⟩ := c
    have hk : k ≠ x := h (k, v) List.mem_cons_self
    simp [cellAt_cons, hk, ih (fun c hc => h c (List.mem_cons_of_mem _ hc))]

theorem cellAt_putCell_ne {a x : Nat} (b : Byte) (cs : List Host.Cell) (h : x ≠ a) :
    cellAt (putCell a b cs) x = cellAt cs x := by
  induction cs with
  | nil => simp only [putCell]; split <;> simp [cellAt_cons, Ne.symm h]
  | cons d t ih =>
    obtain ⟨k, v⟩ := d
    simp only [putCell]
    split
    · simp only [cellAt_cons, ih]
    · split
      · rename_i hk; subst hk
        split <;> simp [cellAt_cons, Ne.symm h]
      · split
        · rfl
        · simp [cellAt_cons, Ne.symm h]

theorem cellAt_putCell_self (a : Nat) (b : Byte) (cs : List Host.Cell) (h : rising cs = true) :
    cellAt (putCell a b cs) a = if b = 0 then none else some b := by
  induction cs with
  | nil => simp only [putCell]; split <;> simp [cellAt]
  | cons d t ih =>
    obtain ⟨k, v⟩ := d
    have hd := (rising_cons (k, v) t).1 h
    have key : ∀ x ∈ t, k < x.1 := hd.1
    simp only [putCell]
    split
    · rename_i hk
      have : k ≠ a := by omega
      simp only [cellAt_cons, this, if_false, ih hd.2]
    · split
      · rename_i hk; subst hk
        split
        · rw [cellAt_none_of_above]
          intro c hc; have := key c hc; omega
        · simp [cellAt_cons]
      · split
        · rename_i h1 h2 hb
          rw [cellAt_none_of_above]
          intro c hc
          rcases List.mem_cons.1 hc with rfl | hc
          · exact h2
          · have := key c hc; omega
        · simp [cellAt_cons]

/-! ### Regions of undefined contents -/

/-- A region holds an address. -/
def Junk.holds (j : Junk) (x : Nat) : Bool := decide (j.base ≤ x) && decide (x < j.base + j.size)

theorem cutJunk_holds (lo hi : Nat) (j : Junk) (x : Nat) (h : ∃ k ∈ cutJunk lo hi j, k.holds x = true) :
    j.holds x = true ∧ ¬ (lo ≤ x ∧ x < hi) := by
  obtain ⟨k, hk, hx⟩ := h
  simp only [cutJunk] at hk
  split at hk
  · rename_i hc
    simp only [List.mem_singleton] at hk; subst hk
    simp only [Junk.holds, Bool.and_eq_true, decide_eq_true_eq, Bool.or_eq_true] at hx hc ⊢
    omega
  · simp only [List.mem_append] at hk
    rcases hk with hk | hk
    · split at hk
      · simp only [List.mem_singleton] at hk; subst hk
        simp only [Junk.holds, Bool.and_eq_true, decide_eq_true_eq] at hx ⊢
        simp only [Bool.or_eq_true, decide_eq_true_eq] at *
        omega
      · cases hk
    · split at hk
      · simp only [List.mem_singleton] at hk; subst hk
        simp only [Junk.holds, Bool.and_eq_true, decide_eq_true_eq] at hx ⊢
        simp only [Bool.or_eq_true, decide_eq_true_eq] at *
        omega
      · cases hk

/-- The stamp a list of regions gives an address. -/
def stampAt (js : List Junk) (x : Nat) : Option Nat :=
  (js.find? (fun j => decide (j.base ≤ x) && decide (x < j.base + j.size))).map (·.stamp)

theorem stampAt_cons (j : Junk) (js : List Junk) (x : Nat) :
    stampAt (j :: js) x = if j.holds x then some j.stamp else stampAt js x := by
  simp only [stampAt, List.find?_cons]
  by_cases h : j.holds x = true
  · have h' : (decide (j.base ≤ x) && decide (x < j.base + j.size)) = true := h
    simp [h, h']
  · have h' : (decide (j.base ≤ x) && decide (x < j.base + j.size)) = false := by simpa [Junk.holds] using h
    simp [h, h']

theorem stampAt_append (as bs : List Junk) (x : Nat) : stampAt (as ++ bs) x = (stampAt as x).or (stampAt bs x) := by
  induction as with
  | nil => simp [stampAt]
  | cons a as ih =>
    rw [List.cons_append, stampAt_cons, stampAt_cons, ih]
    split <;> rfl

theorem stampAt_cutJunk (lo hi : Nat) (j : Junk) (x : Nat) :
    stampAt (cutJunk lo hi j) x = if lo ≤ x ∧ x < hi then none else stampAt [j] x := by
  have one : ∀ k : Junk, stampAt [k] x = if k.holds x then some k.stamp else none := by
    intro k; rw [stampAt_cons]; rfl
  simp only [cutJunk]
  split
  · rename_i hc
    rw [one]
    simp only [Junk.holds, Bool.and_eq_true, decide_eq_true_eq, Bool.or_eq_true] at hc ⊢
    repeat' split
    all_goals first | rfl | omega
  · rw [stampAt_append]
    simp only [Bool.or_eq_true, decide_eq_true_eq] at *
    split <;> split <;> simp only [one, Junk.holds, Bool.and_eq_true, decide_eq_true_eq] <;> repeat' split
    all_goals first | rfl | (simp [stampAt]; done) | omega

theorem stampAt_cut (lo hi : Nat) (js : List Junk) (x : Nat) :
    stampAt (js.flatMap (cutJunk lo hi)) x = if lo ≤ x ∧ x < hi then none else stampAt js x := by
  induction js with
  | nil => simp [stampAt]
  | cons j js ih =>
    rw [List.flatMap_cons, stampAt_append, ih, stampAt_cutJunk]
    have : stampAt (j :: js) x = (stampAt [j] x).or (stampAt js x) := by
      rw [← stampAt_append]; rfl
    rw [this]
    split <;> simp

theorem unlisted_eq (m : Mem) (x : Nat) :
    m.unlisted x = match stampAt m.junk x with | some k => Config.freeByte k x | none => 0 := by
  unfold Mem.unlisted stampAt
  cases m.junk.find? (fun j => decide (j.base ≤ x) && decide (x < j.base + j.size)) <;> rfl

/-! ### The canonical form -/

theorem Mem.wf_iff (m : Mem) :
    m.wf = true ↔ rising m.cells = true ∧ ∀ c ∈ m.cells, c.2 ≠ 0 ∧ stampAt m.junk c.1 = none := by
  have nojunk : ∀ x, m.junk.any (fun j => decide (j.base ≤ x) && decide (x < j.base + j.size)) = false ↔
      stampAt m.junk x = none := by
    intro x
    simp only [stampAt, Option.map_eq_none_iff, List.find?_eq_none, List.any_eq_false]
  simp only [Mem.wf, Bool.and_eq_true, List.all_eq_true, bne_iff_ne, ne_eq, Bool.not_eq_true', nojunk]

theorem Mem.wf_put {m : Mem} (a : Nat) (b : Byte) (h : m.wf = true) : (m.put a b).wf = true := by
  obtain ⟨hr, hc⟩ := (Mem.wf_iff m).1 h
  refine (Mem.wf_iff _).2 ⟨rising_putCell a b _ hr, fun c hm => ?_⟩
  simp only [Mem.put, stampAt_cut]
  rcases mem_putCell hr hm with ⟨rfl, hb⟩ | ⟨hm, hne⟩
  · exact ⟨hb, by simp⟩
  · refine ⟨(hc c hm).1, ?_⟩
    split
    · rfl
    · exact (hc c hm).2

theorem Mem.wf_write {m : Mem} (a : Nat) (bs : List Byte) (h : m.wf = true) : (m.write a bs).wf = true := by
  induction bs generalizing m a with
  | nil => exact h
  | cons b bs ih => exact ih (a + 1) (Mem.wf_put a b h)

theorem mem_dropCells {lo hi : Nat} {cs : List Host.Cell} {c : Host.Cell} (h : c ∈ dropCells lo hi cs) :
    c ∈ cs ∧ ¬ (lo ≤ c.1 ∧ c.1 < hi) := by
  simp only [dropCells, List.mem_filter, Bool.or_eq_true, decide_eq_true_eq] at h
  exact ⟨h.1, by omega⟩

theorem Mem.wf_clear {m : Mem} (base size : Nat) (h : m.wf = true) : (m.clear base size).wf = true := by
  obtain ⟨hr, hc⟩ := (Mem.wf_iff m).1 h
  refine (Mem.wf_iff _).2 ⟨rising_filter _ _ hr, fun c hm => ?_⟩
  have hd := mem_dropCells hm
  simp only [Mem.clear, stampAt_cut]
  refine ⟨(hc c hd.1).1, ?_⟩
  split
  · rfl
  · exact (hc c hd.1).2

theorem Mem.wf_scramble {m : Mem} (base size stamp : Nat) (h : m.wf = true) : (m.scramble base size stamp).wf = true := by
  obtain ⟨hr, hc⟩ := (Mem.wf_iff m).1 h
  refine (Mem.wf_iff _).2 ⟨rising_filter _ _ hr, fun c hm => ?_⟩
  have hd := mem_dropCells hm
  refine ⟨(hc c hd.1).1, ?_⟩
  simp only [Mem.scramble]
  split
  · rw [stampAt_cut]; split
    · rfl
    · exact (hc c hd.1).2
  · rw [stampAt_cons, stampAt_cut]
    have : Junk.holds ⟨base, size, stamp⟩ c.1 = false := by
      simp only [Junk.holds, Bool.and_eq_false_iff, decide_eq_false_iff_not]; omega
    rw [this]
    simp only [Bool.false_eq_true, if_false]
    split
    · rfl
    · exact (hc c hd.1).2

theorem Mem.wf_cutOut {m : Mem} (base size : Nat) (h : m.wf = true) : (m.cutOut base size).wf = true := by
  obtain ⟨hr, hc⟩ := (Mem.wf_iff m).1 h
  have hin : ∀ c ∈ m.cells.filter (fun c => decide (base ≤ c.1) && decide (c.1 < base + size)),
      c ∈ m.cells ∧ base ≤ c.1 ∧ c.1 < base + size := by
    intro c hm
    simpa only [List.mem_filter, Bool.and_eq_true, decide_eq_true_eq] using hm
  refine (Mem.wf_iff _).2 ⟨?_, fun c hm => ?_⟩
  · refine rising_map (fun a => a - base) _ (fun x hx y hy hlt => ?_) (rising_filter _ _ hr)
    have := hin x hx; have := hin y hy; omega
  · obtain ⟨d, hd, rfl⟩ := List.mem_map.1 hm
    have hd' := hin d hd
    refine ⟨(hc d hd'.1).1, ?_⟩
    have hs := (hc d hd'.1).2
    simp only [Mem.cutOut]
    generalize m.junk = js at hs
    induction js with
    | nil => rfl
    | cons j js ih =>
      rw [stampAt_cons] at hs
      split at hs
      · cases hs
      · rename_i hj
        rw [List.flatMap_cons, stampAt_append, ih hs]
        simp only [Junk.holds, Bool.and_eq_true, decide_eq_true_eq] at hj
        split
        · rw [stampAt_cons]
          split
          · rename_i hh
            simp only [Junk.holds, Bool.and_eq_true, decide_eq_true_eq] at hh
            omega
          · rfl
        · rfl

theorem Mem.wf_paste {m x : Mem} (base size : Nat) (h : m.wf = true) (hx : x.wf = true) :
    (m.paste base size x).wf = true := by
  obtain ⟨hr, hc⟩ := (Mem.wf_iff m).1 h
  obtain ⟨xr, xc⟩ := (Mem.wf_iff x).1 hx
  have lo : ∀ c ∈ m.cells.filter (fun c => decide (c.1 < base)), c ∈ m.cells ∧ c.1 < base := by
    intro c hm; simpa only [List.mem_filter, decide_eq_true_eq] using hm
  have hi : ∀ c ∈ m.cells.filter (fun c => decide (base + size ≤ c.1)), c ∈ m.cells ∧ base + size ≤ c.1 := by
    intro c hm; simpa only [List.mem_filter, decide_eq_true_eq] using hm
  have mid : ∀ c ∈ (x.cells.filter (fun c => decide (c.1 < size))).map (fun c => (c.1 + base, c.2)),
      ∃ d ∈ x.cells, d.1 < size ∧ c = (d.1 + base, d.2) := by
    intro c hm
    obtain ⟨d, hd, rfl⟩ := List.mem_map.1 hm
    have : d ∈ x.cells ∧ d.1 < size := by simpa only [List.mem_filter, decide_eq_true_eq] using hd
    exact ⟨d, this.1, this.2, rfl⟩
  -- a region of the pasted contents lies inside the target
  have inner : ∀ y, (y < base ∨ base + size ≤ y) → stampAt (x.junk.flatMap (fun j =>
      if j.base < size then [{ j with base := j.base + base, size := min j.size (size - j.base) }] else [])) y = none := by
    intro y hy
    generalize x.junk = js
    induction js with
    | nil => rfl
    | cons j js ih =>
      rw [List.flatMap_cons, stampAt_append, ih]
      split
      · rw [stampAt_cons]
        split
        · rename_i hh
          simp only [Junk.holds, Bool.and_eq_true, decide_eq_true_eq] at hh
          omega
        · rfl
      · rfl
  have mids : ∀ d ∈ x.cells, d.1 < size → stampAt (x.junk.flatMap (fun j =>
      if j.base < size then [{ j with base := j.base + base, size := min j.size (size - j.base) }] else []))
      (d.1 + base) = none := by
    intro d hd _
    have hs := (xc d hd).2
    generalize x.junk = js at hs
    induction js with
    | nil => rfl
    | cons j js ih =>
      rw [stampAt_cons] at hs
      split at hs
      · cases hs
      · rename_i hj
        rw [List.flatMap_cons, stampAt_append, ih hs]
        simp only [Junk.holds, Bool.and_eq_true, decide_eq_true_eq] at hj
        split
        · rw [stampAt_cons]
          split
          · rename_i hh
            simp only [Junk.holds, Bool.and_eq_true, decide_eq_true_eq] at hh
            omega
          · rfl
        · rfl
  have outer : ∀ c ∈ m.cells, (c.1 < base ∨ base + size ≤ c.1) →
      stampAt (m.paste base size x).junk c.1 = none := by
    intro c hm hy
    simp only [Mem.paste, stampAt_append, inner c.1 hy, Option.none_or, stampAt_cut, (hc c hm).2]
    split <;> rfl
  refine (Mem.wf_iff _).2 ⟨?_, fun c hm => ?_⟩
  · refine rising_append _ _ (rising_append _ _ (rising_filter _ _ hr) ?_ ?_) (rising_filter _ _ hr) ?_
    · exact rising_map (fun a => a + base) _ (fun p _ q _ hlt => by omega) (rising_filter _ _ xr)
    · intro p hp q hq
      obtain ⟨d, -, -, rfl⟩ := mid q hq
      have := (lo p hp).2
      simp only; omega
    · intro p hp q hq
      have hq := (hi q hq).2
      rcases List.mem_append.1 hp with hp | hp
      · have := (lo p hp).2; omega
      · obtain ⟨d, -, hd, rfl⟩ := mid p hp
        simp only; omega
  · rcases List.mem_append.1 hm with hm | hm
    · rcases List.mem_append.1 hm with hm | hm
      · have := lo c hm
        exact ⟨(hc c this.1).1, outer c this.1 (.inl this.2)⟩
      · obtain ⟨d, hd, hlt, rfl⟩ := mid c hm
        refine ⟨(xc d hd).1, ?_⟩
        simp only [Mem.paste, stampAt_append, mids d hd hlt, Option.none_or, stampAt_cut]
        split
        · rfl
        · omega
    · have := hi c hm
      exact ⟨(hc c this.1).1, outer c this.1 (.inr this.2)⟩

/-! ### Reading -/

theorem Mem.get_put_self {m : Mem} (a : Nat) (b : Byte) (h : m.wf = true) : (m.put a b).get a = b := by
  have hr := ((Mem.wf_iff m).1 h).1
  simp only [Mem.get, Mem.put, cellAt_putCell_self a b _ hr]
  split
  · rename_i hb
    split at hb
    · cases hb
    · cases hb; rfl
  · rename_i hb
    split at hb
    · rename_i h0
      subst h0
      rw [unlisted_eq]
      simp only [stampAt_cut]
      simp
    · cases hb

theorem Mem.get_put_ne (m : Mem) {a x : Nat} (b : Byte) (h : x ≠ a) : (m.put a b).get x = m.get x := by
  have hx : ¬ (a ≤ x ∧ x < a + 1) := by omega
  simp only [Mem.get, Mem.put, cellAt_putCell_ne b _ h, unlisted_eq, stampAt_cut, hx, if_false]

theorem Mem.get_write_outside (m : Mem) (a : Nat) (bs : List Byte) {x : Nat} (h : x < a ∨ a + bs.length ≤ x) :
    (m.write a bs).get x = m.get x := by
  induction bs generalizing m a with
  | nil => rfl
  | cons b bs ih =>
    simp only [List.length_cons] at h
    rw [Mem.write, ih _ _ (by omega), Mem.get_put_ne _ _ (by omega)]

theorem Mem.get_write_inside {m : Mem} (a : Nat) (bs : List Byte) (h : m.wf = true) {i : Nat} (hi : i < bs.length) :
    (m.write a bs).get (a + i) = bs.getD i 0 := by
  induction bs generalizing m a i with
  | nil => simp at hi
  | cons b bs ih =>
    cases i with
    | zero =>
      rw [Mem.write, Mem.get_write_outside _ _ _ (.inl (by omega))]
      simp [Mem.get_put_self a b h]
    | succ i =>
      simp only [List.length_cons] at hi
      rw [Mem.write, show a + (i + 1) = a + 1 + i by omega, ih (a + 1) (Mem.wf_put a b h) (by omega)]
      simp

theorem Mem.read_write {m : Mem} (a : Nat) (bs : List Byte) (h : m.wf = true) : (m.write a bs).read a bs.length = bs := by
  induction bs generalizing m a with
  | nil => rfl
  | cons b bs ih =>
    rw [List.length_cons, Mem.read, Mem.write, ih (a + 1) (Mem.wf_put a b h),
      Mem.get_write_outside _ _ _ (.inl (by omega)), Mem.get_put_self a b h]

end Sys2Proof.Machine
end

