-- ==== Sys2Proof/Laws/State.lean ====
section
/-! SUPPORT. What each update of one part of State leaves alone: one lemma per update and field, all true by definition. -/
namespace Sys2Proof.Machine

variable (s : State)

/-! ### modDie -/

section
variable (d : Nat) (f : Die → Die)
@[simp] theorem State.modDie_pending : (s.modDie d f).pending = s.pending := rfl
@[simp] theorem State.modDie_variant : (s.modDie d f).variant = s.variant := rfl
@[simp] theorem State.modDie_fresh : (s.modDie d f).fresh = s.fresh := rfl
@[simp] theorem State.modDie_clock : (s.modDie d f).clock = s.clock := rfl
@[simp] theorem State.modDie_start : (s.modDie d f).start = s.start := rfl
@[simp] theorem State.modDie_env : (s.modDie d f).env = s.env := rfl
@[simp] theorem State.modDie_dict : (s.modDie d f).dict = s.dict := rfl
@[simp] theorem State.modDie_ring : (s.modDie d f).ring = s.ring := rfl
@[simp] theorem State.modDie_own : (s.modDie d f).own = s.own := rfl
@[simp] theorem State.modDie_sec : (s.modDie d f).sec = s.sec := rfl
@[simp] theorem State.modDie_fw : (s.modDie d f).fw = s.fw := rfl
@[simp] theorem State.modDie_gov : (s.modDie d f).gov = s.gov := rfl
@[simp] theorem State.modDie_mem : (s.modDie d f).mem = s.mem := rfl
@[simp] theorem State.modDie_hbm : (s.modDie d f).hbm = s.hbm := rfl
@[simp] theorem State.modDie_wq : (s.modDie d f).wq = s.wq := rfl
@[simp] theorem State.modDie_caches : (s.modDie d f).caches = s.caches := rfl
@[simp] theorem State.modDie_mus : (s.modDie d f).mus = s.mus := rfl
@[simp] theorem State.modDie_pairs : (s.modDie d f).pairs = s.pairs := rfl
@[simp] theorem State.modDie_moves : (s.modDie d f).moves = s.moves := rfl
@[simp] theorem State.modDie_ctxs : (s.modDie d f).ctxs = s.ctxs := rfl
@[simp] theorem State.modDie_queues : (s.modDie d f).queues = s.queues := rfl
@[simp] theorem State.modDie_lists : (s.modDie d f).lists = s.lists := rfl
@[simp] theorem State.modDie_sems : (s.modDie d f).sems = s.sems := rfl
@[simp] theorem State.modDie_launches : (s.modDie d f).launches = s.launches := rfl
@[simp] theorem State.modDie_nextLaunch : (s.modDie d f).nextLaunch = s.nextLaunch := rfl
@[simp] theorem State.modDie_nextItem : (s.modDie d f).nextItem = s.nextItem := rfl
@[simp] theorem State.modDie_nextMove : (s.modDie d f).nextMove = s.nextMove := rfl
@[simp] theorem State.modDie_nextDispatch : (s.modDie d f).nextDispatch = s.nextDispatch := rfl
@[simp] theorem State.modDie_disables : (s.modDie d f).disables = s.disables := rfl
@[simp] theorem State.modDie_nextDisable : (s.modDie d f).nextDisable = s.nextDisable := rfl
@[simp] theorem State.modDie_saved : (s.modDie d f).saved = s.saved := rfl
@[simp] theorem State.modDie_bias : (s.modDie d f).bias = s.bias := rfl
@[simp] theorem State.modDie_kv : (s.modDie d f).kv = s.kv := rfl
@[simp] theorem State.modDie_samples : (s.modDie d f).samples = s.samples := rfl
@[simp] theorem State.modDie_spin : (s.modDie d f).spin = s.spin := rfl
@[simp] theorem State.modDie_spinBuf : (s.modDie d f).spinBuf = s.spinBuf := rfl
@[simp] theorem State.modDie_codecs : (s.modDie d f).codecs = s.codecs := rfl
@[simp] theorem State.modDie_ports : (s.modDie d f).ports = s.ports := rfl
@[simp] theorem State.modDie_log : (s.modDie d f).log = s.log := rfl
@[simp] theorem State.modDie_out : (s.modDie d f).out = s.out := rfl
end

/-! ### modMu -/

section
variable (u : Nat) (f : MUnit → MUnit)
@[simp] theorem State.modMu_pending : (s.modMu u f).pending = s.pending := rfl
@[simp] theorem State.modMu_variant : (s.modMu u f).variant = s.variant := rfl
@[simp] theorem State.modMu_fresh : (s.modMu u f).fresh = s.fresh := rfl
@[simp] theorem State.modMu_clock : (s.modMu u f).clock = s.clock := rfl
@[simp] theorem State.modMu_start : (s.modMu u f).start = s.start := rfl
@[simp] theorem State.modMu_env : (s.modMu u f).env = s.env := rfl
@[simp] theorem State.modMu_dict : (s.modMu u f).dict = s.dict := rfl
@[simp] theorem State.modMu_ring : (s.modMu u f).ring = s.ring := rfl
@[simp] theorem State.modMu_own : (s.modMu u f).own = s.own := rfl
@[simp] theorem State.modMu_sec : (s.modMu u f).sec = s.sec := rfl
@[simp] theorem State.modMu_fw : (s.modMu u f).fw = s.fw := rfl
@[simp] theorem State.modMu_gov : (s.modMu u f).gov = s.gov := rfl
@[simp] theorem State.modMu_dies : (s.modMu u f).dies = s.dies := rfl
@[simp] theorem State.modMu_mem : (s.modMu u f).mem = s.mem := rfl
@[simp] theorem State.modMu_hbm : (s.modMu u f).hbm = s.hbm := rfl
@[simp] theorem State.modMu_wq : (s.modMu u f).wq = s.wq := rfl
@[simp] theorem State.modMu_caches : (s.modMu u f).caches = s.caches := rfl
@[simp] theorem State.modMu_pairs : (s.modMu u f).pairs = s.pairs := rfl
@[simp] theorem State.modMu_moves : (s.modMu u f).moves = s.moves := rfl
@[simp] theorem State.modMu_ctxs : (s.modMu u f).ctxs = s.ctxs := rfl
@[simp] theorem State.modMu_queues : (s.modMu u f).queues = s.queues := rfl
@[simp] theorem State.modMu_lists : (s.modMu u f).lists = s.lists := rfl
@[simp] theorem State.modMu_sems : (s.modMu u f).sems = s.sems := rfl
@[simp] theorem State.modMu_launches : (s.modMu u f).launches = s.launches := rfl
@[simp] theorem State.modMu_nextLaunch : (s.modMu u f).nextLaunch = s.nextLaunch := rfl
@[simp] theorem State.modMu_nextItem : (s.modMu u f).nextItem = s.nextItem := rfl
@[simp] theorem State.modMu_nextMove : (s.modMu u f).nextMove = s.nextMove := rfl
@[simp] theorem State.modMu_nextDispatch : (s.modMu u f).nextDispatch = s.nextDispatch := rfl
@[simp] theorem State.modMu_disables : (s.modMu u f).disables = s.disables := rfl
@[simp] theorem State.modMu_nextDisable : (s.modMu u f).nextDisable = s.nextDisable := rfl
@[simp] theorem State.modMu_saved : (s.modMu u f).saved = s.saved := rfl
@[simp] theorem State.modMu_bias : (s.modMu u f).bias = s.bias := rfl
@[simp] theorem State.modMu_kv : (s.modMu u f).kv = s.kv := rfl
@[simp] theorem State.modMu_samples : (s.modMu u f).samples = s.samples := rfl
@[simp] theorem State.modMu_spin : (s.modMu u f).spin = s.spin := rfl
@[simp] theorem State.modMu_spinBuf : (s.modMu u f).spinBuf = s.spinBuf := rfl
@[simp] theorem State.modMu_codecs : (s.modMu u f).codecs = s.codecs := rfl
@[simp] theorem State.modMu_ports : (s.modMu u f).ports = s.ports := rfl
@[simp] theorem State.modMu_log : (s.modMu u f).log = s.log := rfl
@[simp] theorem State.modMu_out : (s.modMu u f).out = s.out := rfl
end

/-! ### modPair -/

section
variable (u : Nat) (f : Pair → Pair)
@[simp] theorem State.modPair_pending : (s.modPair u f).pending = s.pending := rfl
@[simp] theorem State.modPair_variant : (s.modPair u f).variant = s.variant := rfl
@[simp] theorem State.modPair_fresh : (s.modPair u f).fresh = s.fresh := rfl
@[simp] theorem State.modPair_clock : (s.modPair u f).clock = s.clock := rfl
@[simp] theorem State.modPair_start : (s.modPair u f).start = s.start := rfl
@[simp] theorem State.modPair_env : (s.modPair u f).env = s.env := rfl
@[simp] theorem State.modPair_dict : (s.modPair u f).dict = s.dict := rfl
@[simp] theorem State.modPair_ring : (s.modPair u f).ring = s.ring := rfl
@[simp] theorem State.modPair_own : (s.modPair u f).own = s.own := rfl
@[simp] theorem State.modPair_sec : (s.modPair u f).sec = s.sec := rfl
@[simp] theorem State.modPair_fw : (s.modPair u f).fw = s.fw := rfl
@[simp] theorem State.modPair_gov : (s.modPair u f).gov = s.gov := rfl
@[simp] theorem State.modPair_dies : (s.modPair u f).dies = s.dies := rfl
@[simp] theorem State.modPair_mem : (s.modPair u f).mem = s.mem := rfl
@[simp] theorem State.modPair_hbm : (s.modPair u f).hbm = s.hbm := rfl
@[simp] theorem State.modPair_wq : (s.modPair u f).wq = s.wq := rfl
@[simp] theorem State.modPair_caches : (s.modPair u f).caches = s.caches := rfl
@[simp] theorem State.modPair_mus : (s.modPair u f).mus = s.mus := rfl
@[simp] theorem State.modPair_moves : (s.modPair u f).moves = s.moves := rfl
@[simp] theorem State.modPair_ctxs : (s.modPair u f).ctxs = s.ctxs := rfl
@[simp] theorem State.modPair_queues : (s.modPair u f).queues = s.queues := rfl
@[simp] theorem State.modPair_lists : (s.modPair u f).lists = s.lists := rfl
@[simp] theorem State.modPair_sems : (s.modPair u f).sems = s.sems := rfl
@[simp] theorem State.modPair_launches : (s.modPair u f).launches = s.launches := rfl
@[simp] theorem State.modPair_nextLaunch : (s.modPair u f).nextLaunch = s.nextLaunch := rfl
@[simp] theorem State.modPair_nextItem : (s.modPair u f).nextItem = s.nextItem := rfl
@[simp] theorem State.modPair_nextMove : (s.modPair u f).nextMove = s.nextMove := rfl
@[simp] theorem State.modPair_nextDispatch : (s.modPair u f).nextDispatch = s.nextDispatch := rfl
@[simp] theorem State.modPair_disables : (s.modPair u f).disables = s.disables := rfl
@[simp] theorem State.modPair_nextDisable : (s.modPair u f).nextDisable = s.nextDisable := rfl
@[simp] theorem State.modPair_saved : (s.modPair u f).saved = s.saved := rfl
@[simp] theorem State.modPair_bias : (s.modPair u f).bias = s.bias := rfl
@[simp] theorem State.modPair_kv : (s.modPair u f).kv = s.kv := rfl
@[simp] theorem State.modPair_samples : (s.modPair u f).samples = s.samples := rfl
@[simp] theorem State.modPair_spin : (s.modPair u f).spin = s.spin := rfl
@[simp] theorem State.modPair_spinBuf : (s.modPair u f).spinBuf = s.spinBuf := rfl
@[simp] theorem State.modPair_codecs : (s.modPair u f).codecs = s.codecs := rfl
@[simp] theorem State.modPair_ports : (s.modPair u f).ports = s.ports := rfl
@[simp] theorem State.modPair_log : (s.modPair u f).log = s.log := rfl
@[simp] theorem State.modPair_out : (s.modPair u f).out = s.out := rfl
end

/-! ### modPort -/

section
variable (p : Nat) (f : Port → Port)
@[simp] theorem State.modPort_pending : (s.modPort p f).pending = s.pending := rfl
@[simp] theorem State.modPort_variant : (s.modPort p f).variant = s.variant := rfl
@[simp] theorem State.modPort_fresh : (s.modPort p f).fresh = s.fresh := rfl
@[simp] theorem State.modPort_clock : (s.modPort p f).clock = s.clock := rfl
@[simp] theorem State.modPort_start : (s.modPort p f).start = s.start := rfl
@[simp] theorem State.modPort_env : (s.modPort p f).env = s.env := rfl
@[simp] theorem State.modPort_dict : (s.modPort p f).dict = s.dict := rfl
@[simp] theorem State.modPort_ring : (s.modPort p f).ring = s.ring := rfl
@[simp] theorem State.modPort_own : (s.modPort p f).own = s.own := rfl
@[simp] theorem State.modPort_sec : (s.modPort p f).sec = s.sec := rfl
@[simp] theorem State.modPort_fw : (s.modPort p f).fw = s.fw := rfl
@[simp] theorem State.modPort_gov : (s.modPort p f).gov = s.gov := rfl
@[simp] theorem State.modPort_dies : (s.modPort p f).dies = s.dies := rfl
@[simp] theorem State.modPort_mem : (s.modPort p f).mem = s.mem := rfl
@[simp] theorem State.modPort_hbm : (s.modPort p f).hbm = s.hbm := rfl
@[simp] theorem State.modPort_wq : (s.modPort p f).wq = s.wq := rfl
@[simp] theorem State.modPort_caches : (s.modPort p f).caches = s.caches := rfl
@[simp] theorem State.modPort_mus : (s.modPort p f).mus = s.mus := rfl
@[simp] theorem State.modPort_pairs : (s.modPort p f).pairs = s.pairs := rfl
@[simp] theorem State.modPort_moves : (s.modPort p f).moves = s.moves := rfl
@[simp] theorem State.modPort_ctxs : (s.modPort p f).ctxs = s.ctxs := rfl
@[simp] theorem State.modPort_queues : (s.modPort p f).queues = s.queues := rfl
@[simp] theorem State.modPort_lists : (s.modPort p f).lists = s.lists := rfl
@[simp] theorem State.modPort_sems : (s.modPort p f).sems = s.sems := rfl
@[simp] theorem State.modPort_launches : (s.modPort p f).launches = s.launches := rfl
@[simp] theorem State.modPort_nextLaunch : (s.modPort p f).nextLaunch = s.nextLaunch := rfl
@[simp] theorem State.modPort_nextItem : (s.modPort p f).nextItem = s.nextItem := rfl
@[simp] theorem State.modPort_nextMove : (s.modPort p f).nextMove = s.nextMove := rfl
@[simp] theorem State.modPort_nextDispatch : (s.modPort p f).nextDispatch = s.nextDispatch := rfl
@[simp] theorem State.modPort_disables : (s.modPort p f).disables = s.disables := rfl
@[simp] theorem State.modPort_nextDisable : (s.modPort p f).nextDisable = s.nextDisable := rfl
@[simp] theorem State.modPort_saved : (s.modPort p f).saved = s.saved := rfl
@[simp] theorem State.modPort_bias : (s.modPort p f).bias = s.bias := rfl
@[simp] theorem State.modPort_kv : (s.modPort p f).kv = s.kv := rfl
@[simp] theorem State.modPort_samples : (s.modPort p f).samples = s.samples := rfl
@[simp] theorem State.modPort_spin : (s.modPort p f).spin = s.spin := rfl
@[simp] theorem State.modPort_spinBuf : (s.modPort p f).spinBuf = s.spinBuf := rfl
@[simp] theorem State.modPort_codecs : (s.modPort p f).codecs = s.codecs := rfl
@[simp] theorem State.modPort_log : (s.modPort p f).log = s.log := rfl
@[simp] theorem State.modPort_out : (s.modPort p f).out = s.out := rfl
end

/-! ### modStack -/

section
variable (n : Nat) (f : Stack → Stack)
@[simp] theorem State.modStack_pending : (s.modStack n f).pending = s.pending := rfl
@[simp] theorem State.modStack_variant : (s.modStack n f).variant = s.variant := rfl
@[simp] theorem State.modStack_fresh : (s.modStack n f).fresh = s.fresh := rfl
@[simp] theorem State.modStack_clock : (s.modStack n f).clock = s.clock := rfl
@[simp] theorem State.modStack_start : (s.modStack n f).start = s.start := rfl
@[simp] theorem State.modStack_env : (s.modStack n f).env = s.env := rfl
@[simp] theorem State.modStack_dict : (s.modStack n f).dict = s.dict := rfl
@[simp] theorem State.modStack_ring : (s.modStack n f).ring = s.ring := rfl
@[simp] theorem State.modStack_own : (s.modStack n f).own = s.own := rfl
@[simp] theorem State.modStack_sec : (s.modStack n f).sec = s.sec := rfl
@[simp] theorem State.modStack_fw : (s.modStack n f).fw = s.fw := rfl
@[simp] theorem State.modStack_gov : (s.modStack n f).gov = s.gov := rfl
@[simp] theorem State.modStack_dies : (s.modStack n f).dies = s.dies := rfl
@[simp] theorem State.modStack_mem : (s.modStack n f).mem = s.mem := rfl
@[simp] theorem State.modStack_wq : (s.modStack n f).wq = s.wq := rfl
@[simp] theorem State.modStack_caches : (s.modStack n f).caches = s.caches := rfl
@[simp] theorem State.modStack_mus : (s.modStack n f).mus = s.mus := rfl
@[simp] theorem State.modStack_pairs : (s.modStack n f).pairs = s.pairs := rfl
@[simp] theorem State.modStack_moves : (s.modStack n f).moves = s.moves := rfl
@[simp] theorem State.modStack_ctxs : (s.modStack n f).ctxs = s.ctxs := rfl
@[simp] theorem State.modStack_queues : (s.modStack n f).queues = s.queues := rfl
@[simp] theorem State.modStack_lists : (s.modStack n f).lists = s.lists := rfl
@[simp] theorem State.modStack_sems : (s.modStack n f).sems = s.sems := rfl
@[simp] theorem State.modStack_launches : (s.modStack n f).launches = s.launches := rfl
@[simp] theorem State.modStack_nextLaunch : (s.modStack n f).nextLaunch = s.nextLaunch := rfl
@[simp] theorem State.modStack_nextItem : (s.modStack n f).nextItem = s.nextItem := rfl
@[simp] theorem State.modStack_nextMove : (s.modStack n f).nextMove = s.nextMove := rfl
@[simp] theorem State.modStack_nextDispatch : (s.modStack n f).nextDispatch = s.nextDispatch := rfl
@[simp] theorem State.modStack_disables : (s.modStack n f).disables = s.disables := rfl
@[simp] theorem State.modStack_nextDisable : (s.modStack n f).nextDisable = s.nextDisable := rfl
@[simp] theorem State.modStack_saved : (s.modStack n f).saved = s.saved := rfl
@[simp] theorem State.modStack_bias : (s.modStack n f).bias = s.bias := rfl
@[simp] theorem State.modStack_kv : (s.modStack n f).kv = s.kv := rfl
@[simp] theorem State.modStack_samples : (s.modStack n f).samples = s.samples := rfl
@[simp] theorem State.modStack_spin : (s.modStack n f).spin = s.spin := rfl
@[simp] theorem State.modStack_spinBuf : (s.modStack n f).spinBuf = s.spinBuf := rfl
@[simp] theorem State.modStack_codecs : (s.modStack n f).codecs = s.codecs := rfl
@[simp] theorem State.modStack_ports : (s.modStack n f).ports = s.ports := rfl
@[simp] theorem State.modStack_log : (s.modStack n f).log = s.log := rfl
@[simp] theorem State.modStack_out : (s.modStack n f).out = s.out := rfl
end

/-! ### modEngine -/

section
variable (e : Nat) (f : Engine → Engine)
@[simp] theorem State.modEngine_pending : (s.modEngine e f).pending = s.pending := rfl
@[simp] theorem State.modEngine_variant : (s.modEngine e f).variant = s.variant := rfl
@[simp] theorem State.modEngine_fresh : (s.modEngine e f).fresh = s.fresh := rfl
@[simp] theorem State.modEngine_clock : (s.modEngine e f).clock = s.clock := rfl
@[simp] theorem State.modEngine_start : (s.modEngine e f).start = s.start := rfl
@[simp] theorem State.modEngine_env : (s.modEngine e f).env = s.env := rfl
@[simp] theorem State.modEngine_dict : (s.modEngine e f).dict = s.dict := rfl
@[simp] theorem State.modEngine_ring : (s.modEngine e f).ring = s.ring := rfl
@[simp] theorem State.modEngine_own : (s.modEngine e f).own = s.own := rfl
@[simp] theorem State.modEngine_sec : (s.modEngine e f).sec = s.sec := rfl
@[simp] theorem State.modEngine_fw : (s.modEngine e f).fw = s.fw := rfl
@[simp] theorem State.modEngine_gov : (s.modEngine e f).gov = s.gov := rfl
@[simp] theorem State.modEngine_dies : (s.modEngine e f).dies = s.dies := rfl
@[simp] theorem State.modEngine_mem : (s.modEngine e f).mem = s.mem := rfl
@[simp] theorem State.modEngine_hbm : (s.modEngine e f).hbm = s.hbm := rfl
@[simp] theorem State.modEngine_wq : (s.modEngine e f).wq = s.wq := rfl
@[simp] theorem State.modEngine_caches : (s.modEngine e f).caches = s.caches := rfl
@[simp] theorem State.modEngine_mus : (s.modEngine e f).mus = s.mus := rfl
@[simp] theorem State.modEngine_pairs : (s.modEngine e f).pairs = s.pairs := rfl
@[simp] theorem State.modEngine_moves : (s.modEngine e f).moves = s.moves := rfl
@[simp] theorem State.modEngine_ctxs : (s.modEngine e f).ctxs = s.ctxs := rfl
@[simp] theorem State.modEngine_queues : (s.modEngine e f).queues = s.queues := rfl
@[simp] theorem State.modEngine_lists : (s.modEngine e f).lists = s.lists := rfl
@[simp] theorem State.modEngine_sems : (s.modEngine e f).sems = s.sems := rfl
@[simp] theorem State.modEngine_launches : (s.modEngine e f).launches = s.launches := rfl
@[simp] theorem State.modEngine_nextLaunch : (s.modEngine e f).nextLaunch = s.nextLaunch := rfl
@[simp] theorem State.modEngine_nextItem : (s.modEngine e f).nextItem = s.nextItem := rfl
@[simp] theorem State.modEngine_nextMove : (s.modEngine e f).nextMove = s.nextMove := rfl
@[simp] theorem State.modEngine_nextDispatch : (s.modEngine e f).nextDispatch = s.nextDispatch := rfl
@[simp] theorem State.modEngine_disables : (s.modEngine e f).disables = s.disables := rfl
@[simp] theorem State.modEngine_nextDisable : (s.modEngine e f).nextDisable = s.nextDisable := rfl
@[simp] theorem State.modEngine_saved : (s.modEngine e f).saved = s.saved := rfl
@[simp] theorem State.modEngine_bias : (s.modEngine e f).bias = s.bias := rfl
@[simp] theorem State.modEngine_kv : (s.modEngine e f).kv = s.kv := rfl
@[simp] theorem State.modEngine_samples : (s.modEngine e f).samples = s.samples := rfl
@[simp] theorem State.modEngine_spin : (s.modEngine e f).spin = s.spin := rfl
@[simp] theorem State.modEngine_spinBuf : (s.modEngine e f).spinBuf = s.spinBuf := rfl
@[simp] theorem State.modEngine_ports : (s.modEngine e f).ports = s.ports := rfl
@[simp] theorem State.modEngine_log : (s.modEngine e f).log = s.log := rfl
@[simp] theorem State.modEngine_out : (s.modEngine e f).out = s.out := rfl
end

/-! ### modCtl -/

section
variable (c : Nat) (f : Ctl → Ctl)
@[simp] theorem State.modCtl_pending : (s.modCtl c f).pending = s.pending := rfl
@[simp] theorem State.modCtl_variant : (s.modCtl c f).variant = s.variant := rfl
@[simp] theorem State.modCtl_fresh : (s.modCtl c f).fresh = s.fresh := rfl
@[simp] theorem State.modCtl_clock : (s.modCtl c f).clock = s.clock := rfl
@[simp] theorem State.modCtl_start : (s.modCtl c f).start = s.start := rfl
@[simp] theorem State.modCtl_env : (s.modCtl c f).env = s.env := rfl
@[simp] theorem State.modCtl_dict : (s.modCtl c f).dict = s.dict := rfl
@[simp] theorem State.modCtl_ring : (s.modCtl c f).ring = s.ring := rfl
@[simp] theorem State.modCtl_own : (s.modCtl c f).own = s.own := rfl
@[simp] theorem State.modCtl_fw : (s.modCtl c f).fw = s.fw := rfl
@[simp] theorem State.modCtl_gov : (s.modCtl c f).gov = s.gov := rfl
@[simp] theorem State.modCtl_dies : (s.modCtl c f).dies = s.dies := rfl
@[simp] theorem State.modCtl_mem : (s.modCtl c f).mem = s.mem := rfl
@[simp] theorem State.modCtl_hbm : (s.modCtl c f).hbm = s.hbm := rfl
@[simp] theorem State.modCtl_wq : (s.modCtl c f).wq = s.wq := rfl
@[simp] theorem State.modCtl_caches : (s.modCtl c f).caches = s.caches := rfl
@[simp] theorem State.modCtl_mus : (s.modCtl c f).mus = s.mus := rfl
@[simp] theorem State.modCtl_pairs : (s.modCtl c f).pairs = s.pairs := rfl
@[simp] theorem State.modCtl_moves : (s.modCtl c f).moves = s.moves := rfl
@[simp] theorem State.modCtl_ctxs : (s.modCtl c f).ctxs = s.ctxs := rfl
@[simp] theorem State.modCtl_queues : (s.modCtl c f).queues = s.queues := rfl
@[simp] theorem State.modCtl_lists : (s.modCtl c f).lists = s.lists := rfl
@[simp] theorem State.modCtl_sems : (s.modCtl c f).sems = s.sems := rfl
@[simp] theorem State.modCtl_launches : (s.modCtl c f).launches = s.launches := rfl
@[simp] theorem State.modCtl_nextLaunch : (s.modCtl c f).nextLaunch = s.nextLaunch := rfl
@[simp] theorem State.modCtl_nextItem : (s.modCtl c f).nextItem = s.nextItem := rfl
@[simp] theorem State.modCtl_nextMove : (s.modCtl c f).nextMove = s.nextMove := rfl
@[simp] theorem State.modCtl_nextDispatch : (s.modCtl c f).nextDispatch = s.nextDispatch := rfl
@[simp] theorem State.modCtl_disables : (s.modCtl c f).disables = s.disables := rfl
@[simp] theorem State.modCtl_nextDisable : (s.modCtl c f).nextDisable = s.nextDisable := rfl
@[simp] theorem State.modCtl_saved : (s.modCtl c f).saved = s.saved := rfl
@[simp] theorem State.modCtl_bias : (s.modCtl c f).bias = s.bias := rfl
@[simp] theorem State.modCtl_kv : (s.modCtl c f).kv = s.kv := rfl
@[simp] theorem State.modCtl_samples : (s.modCtl c f).samples = s.samples := rfl
@[simp] theorem State.modCtl_spin : (s.modCtl c f).spin = s.spin := rfl
@[simp] theorem State.modCtl_spinBuf : (s.modCtl c f).spinBuf = s.spinBuf := rfl
@[simp] theorem State.modCtl_codecs : (s.modCtl c f).codecs = s.codecs := rfl
@[simp] theorem State.modCtl_ports : (s.modCtl c f).ports = s.ports := rfl
@[simp] theorem State.modCtl_log : (s.modCtl c f).log = s.log := rfl
@[simp] theorem State.modCtl_out : (s.modCtl c f).out = s.out := rfl
end

/-! ### modCtx -/

section
variable (c : Nat) (f : Ctx → Ctx)
@[simp] theorem State.modCtx_pending : (s.modCtx c f).pending = s.pending := rfl
@[simp] theorem State.modCtx_variant : (s.modCtx c f).variant = s.variant := rfl
@[simp] theorem State.modCtx_fresh : (s.modCtx c f).fresh = s.fresh := rfl
@[simp] theorem State.modCtx_clock : (s.modCtx c f).clock = s.clock := rfl
@[simp] theorem State.modCtx_start : (s.modCtx c f).start = s.start := rfl
@[simp] theorem State.modCtx_env : (s.modCtx c f).env = s.env := rfl
@[simp] theorem State.modCtx_dict : (s.modCtx c f).dict = s.dict := rfl
@[simp] theorem State.modCtx_ring : (s.modCtx c f).ring = s.ring := rfl
@[simp] theorem State.modCtx_own : (s.modCtx c f).own = s.own := rfl
@[simp] theorem State.modCtx_sec : (s.modCtx c f).sec = s.sec := rfl
@[simp] theorem State.modCtx_fw : (s.modCtx c f).fw = s.fw := rfl
@[simp] theorem State.modCtx_gov : (s.modCtx c f).gov = s.gov := rfl
@[simp] theorem State.modCtx_dies : (s.modCtx c f).dies = s.dies := rfl
@[simp] theorem State.modCtx_mem : (s.modCtx c f).mem = s.mem := rfl
@[simp] theorem State.modCtx_hbm : (s.modCtx c f).hbm = s.hbm := rfl
@[simp] theorem State.modCtx_wq : (s.modCtx c f).wq = s.wq := rfl
@[simp] theorem State.modCtx_caches : (s.modCtx c f).caches = s.caches := rfl
@[simp] theorem State.modCtx_mus : (s.modCtx c f).mus = s.mus := rfl
@[simp] theorem State.modCtx_pairs : (s.modCtx c f).pairs = s.pairs := rfl
@[simp] theorem State.modCtx_moves : (s.modCtx c f).moves = s.moves := rfl
@[simp] theorem State.modCtx_queues : (s.modCtx c f).queues = s.queues := rfl
@[simp] theorem State.modCtx_lists : (s.modCtx c f).lists = s.lists := rfl
@[simp] theorem State.modCtx_sems : (s.modCtx c f).sems = s.sems := rfl
@[simp] theorem State.modCtx_launches : (s.modCtx c f).launches = s.launches := rfl
@[simp] theorem State.modCtx_nextLaunch : (s.modCtx c f).nextLaunch = s.nextLaunch := rfl
@[simp] theorem State.modCtx_nextItem : (s.modCtx c f).nextItem = s.nextItem := rfl
@[simp] theorem State.modCtx_nextMove : (s.modCtx c f).nextMove = s.nextMove := rfl
@[simp] theorem State.modCtx_nextDispatch : (s.modCtx c f).nextDispatch = s.nextDispatch := rfl
@[simp] theorem State.modCtx_disables : (s.modCtx c f).disables = s.disables := rfl
@[simp] theorem State.modCtx_nextDisable : (s.modCtx c f).nextDisable = s.nextDisable := rfl
@[simp] theorem State.modCtx_saved : (s.modCtx c f).saved = s.saved := rfl
@[simp] theorem State.modCtx_bias : (s.modCtx c f).bias = s.bias := rfl
@[simp] theorem State.modCtx_kv : (s.modCtx c f).kv = s.kv := rfl
@[simp] theorem State.modCtx_samples : (s.modCtx c f).samples = s.samples := rfl
@[simp] theorem State.modCtx_spin : (s.modCtx c f).spin = s.spin := rfl
@[simp] theorem State.modCtx_spinBuf : (s.modCtx c f).spinBuf = s.spinBuf := rfl
@[simp] theorem State.modCtx_codecs : (s.modCtx c f).codecs = s.codecs := rfl
@[simp] theorem State.modCtx_ports : (s.modCtx c f).ports = s.ports := rfl
@[simp] theorem State.modCtx_log : (s.modCtx c f).log = s.log := rfl
@[simp] theorem State.modCtx_out : (s.modCtx c f).out = s.out := rfl
end

/-! ### modQueue -/

section
variable (q : Nat) (f : Queue → Queue)
@[simp] theorem State.modQueue_pending : (s.modQueue q f).pending = s.pending := rfl
@[simp] theorem State.modQueue_variant : (s.modQueue q f).variant = s.variant := rfl
@[simp] theorem State.modQueue_fresh : (s.modQueue q f).fresh = s.fresh := rfl
@[simp] theorem State.modQueue_clock : (s.modQueue q f).clock = s.clock := rfl
@[simp] theorem State.modQueue_start : (s.modQueue q f).start = s.start := rfl
@[simp] theorem State.modQueue_env : (s.modQueue q f).env = s.env := rfl
@[simp] theorem State.modQueue_dict : (s.modQueue q f).dict = s.dict := rfl
@[simp] theorem State.modQueue_ring : (s.modQueue q f).ring = s.ring := rfl
@[simp] theorem State.modQueue_own : (s.modQueue q f).own = s.own := rfl
@[simp] theorem State.modQueue_sec : (s.modQueue q f).sec = s.sec := rfl
@[simp] theorem State.modQueue_fw : (s.modQueue q f).fw = s.fw := rfl
@[simp] theorem State.modQueue_gov : (s.modQueue q f).gov = s.gov := rfl
@[simp] theorem State.modQueue_dies : (s.modQueue q f).dies = s.dies := rfl
@[simp] theorem State.modQueue_mem : (s.modQueue q f).mem = s.mem := rfl
@[simp] theorem State.modQueue_hbm : (s.modQueue q f).hbm = s.hbm := rfl
@[simp] theorem State.modQueue_wq : (s.modQueue q f).wq = s.wq := rfl
@[simp] theorem State.modQueue_caches : (s.modQueue q f).caches = s.caches := rfl
@[simp] theorem State.modQueue_mus : (s.modQueue q f).mus = s.mus := rfl
@[simp] theorem State.modQueue_pairs : (s.modQueue q f).pairs = s.pairs := rfl
@[simp] theorem State.modQueue_moves : (s.modQueue q f).moves = s.moves := rfl
@[simp] theorem State.modQueue_ctxs : (s.modQueue q f).ctxs = s.ctxs := rfl
@[simp] theorem State.modQueue_lists : (s.modQueue q f).lists = s.lists := rfl
@[simp] theorem State.modQueue_sems : (s.modQueue q f).sems = s.sems := rfl
@[simp] theorem State.modQueue_launches : (s.modQueue q f).launches = s.launches := rfl
@[simp] theorem State.modQueue_nextLaunch : (s.modQueue q f).nextLaunch = s.nextLaunch := rfl
@[simp] theorem State.modQueue_nextItem : (s.modQueue q f).nextItem = s.nextItem := rfl
@[simp] theorem State.modQueue_nextMove : (s.modQueue q f).nextMove = s.nextMove := rfl
@[simp] theorem State.modQueue_nextDispatch : (s.modQueue q f).nextDispatch = s.nextDispatch := rfl
@[simp] theorem State.modQueue_disables : (s.modQueue q f).disables = s.disables := rfl
@[simp] theorem State.modQueue_nextDisable : (s.modQueue q f).nextDisable = s.nextDisable := rfl
@[simp] theorem State.modQueue_saved : (s.modQueue q f).saved = s.saved := rfl
@[simp] theorem State.modQueue_bias : (s.modQueue q f).bias = s.bias := rfl
@[simp] theorem State.modQueue_kv : (s.modQueue q f).kv = s.kv := rfl
@[simp] theorem State.modQueue_samples : (s.modQueue q f).samples = s.samples := rfl
@[simp] theorem State.modQueue_spin : (s.modQueue q f).spin = s.spin := rfl
@[simp] theorem State.modQueue_spinBuf : (s.modQueue q f).spinBuf = s.spinBuf := rfl
@[simp] theorem State.modQueue_codecs : (s.modQueue q f).codecs = s.codecs := rfl
@[simp] theorem State.modQueue_ports : (s.modQueue q f).ports = s.ports := rfl
@[simp] theorem State.modQueue_log : (s.modQueue q f).log = s.log := rfl
@[simp] theorem State.modQueue_out : (s.modQueue q f).out = s.out := rfl
end

/-! ### modLaunch -/

section
variable (l : Nat) (f : Launch → Launch)
@[simp] theorem State.modLaunch_pending : (s.modLaunch l f).pending = s.pending := rfl
@[simp] theorem State.modLaunch_variant : (s.modLaunch l f).variant = s.variant := rfl
@[simp] theorem State.modLaunch_fresh : (s.modLaunch l f).fresh = s.fresh := rfl
@[simp] theorem State.modLaunch_clock : (s.modLaunch l f).clock = s.clock := rfl
@[simp] theorem State.modLaunch_start : (s.modLaunch l f).start = s.start := rfl
@[simp] theorem State.modLaunch_env : (s.modLaunch l f).env = s.env := rfl
@[simp] theorem State.modLaunch_dict : (s.modLaunch l f).dict = s.dict := rfl
@[simp] theorem State.modLaunch_ring : (s.modLaunch l f).ring = s.ring := rfl
@[simp] theorem State.modLaunch_own : (s.modLaunch l f).own = s.own := rfl
@[simp] theorem State.modLaunch_sec : (s.modLaunch l f).sec = s.sec := rfl
@[simp] theorem State.modLaunch_fw : (s.modLaunch l f).fw = s.fw := rfl
@[simp] theorem State.modLaunch_gov : (s.modLaunch l f).gov = s.gov := rfl
@[simp] theorem State.modLaunch_dies : (s.modLaunch l f).dies = s.dies := rfl
@[simp] theorem State.modLaunch_mem : (s.modLaunch l f).mem = s.mem := rfl
@[simp] theorem State.modLaunch_hbm : (s.modLaunch l f).hbm = s.hbm := rfl
@[simp] theorem State.modLaunch_wq : (s.modLaunch l f).wq = s.wq := rfl
@[simp] theorem State.modLaunch_caches : (s.modLaunch l f).caches = s.caches := rfl
@[simp] theorem State.modLaunch_mus : (s.modLaunch l f).mus = s.mus := rfl
@[simp] theorem State.modLaunch_pairs : (s.modLaunch l f).pairs = s.pairs := rfl
@[simp] theorem State.modLaunch_moves : (s.modLaunch l f).moves = s.moves := rfl
@[simp] theorem State.modLaunch_ctxs : (s.modLaunch l f).ctxs = s.ctxs := rfl
@[simp] theorem State.modLaunch_queues : (s.modLaunch l f).queues = s.queues := rfl
@[simp] theorem State.modLaunch_lists : (s.modLaunch l f).lists = s.lists := rfl
@[simp] theorem State.modLaunch_sems : (s.modLaunch l f).sems = s.sems := rfl
@[simp] theorem State.modLaunch_nextLaunch : (s.modLaunch l f).nextLaunch = s.nextLaunch := rfl
@[simp] theorem State.modLaunch_nextItem : (s.modLaunch l f).nextItem = s.nextItem := rfl
@[simp] theorem State.modLaunch_nextMove : (s.modLaunch l f).nextMove = s.nextMove := rfl
@[simp] theorem State.modLaunch_nextDispatch : (s.modLaunch l f).nextDispatch = s.nextDispatch := rfl
@[simp] theorem State.modLaunch_disables : (s.modLaunch l f).disables = s.disables := rfl
@[simp] theorem State.modLaunch_nextDisable : (s.modLaunch l f).nextDisable = s.nextDisable := rfl
@[simp] theorem State.modLaunch_saved : (s.modLaunch l f).saved = s.saved := rfl
@[simp] theorem State.modLaunch_bias : (s.modLaunch l f).bias = s.bias := rfl
@[simp] theorem State.modLaunch_kv : (s.modLaunch l f).kv = s.kv := rfl
@[simp] theorem State.modLaunch_samples : (s.modLaunch l f).samples = s.samples := rfl
@[simp] theorem State.modLaunch_spin : (s.modLaunch l f).spin = s.spin := rfl
@[simp] theorem State.modLaunch_spinBuf : (s.modLaunch l f).spinBuf = s.spinBuf := rfl
@[simp] theorem State.modLaunch_codecs : (s.modLaunch l f).codecs = s.codecs := rfl
@[simp] theorem State.modLaunch_ports : (s.modLaunch l f).ports = s.ports := rfl
@[simp] theorem State.modLaunch_log : (s.modLaunch l f).log = s.log := rfl
@[simp] theorem State.modLaunch_out : (s.modLaunch l f).out = s.out := rfl
end

/-! ### modSem -/

section
variable (k : Nat) (f : Sem → Sem)
@[simp] theorem State.modSem_pending : (s.modSem k f).pending = s.pending := rfl
@[simp] theorem State.modSem_variant : (s.modSem k f).variant = s.variant := rfl
@[simp] theorem State.modSem_fresh : (s.modSem k f).fresh = s.fresh := rfl
@[simp] theorem State.modSem_clock : (s.modSem k f).clock = s.clock := rfl
@[simp] theorem State.modSem_start : (s.modSem k f).start = s.start := rfl
@[simp] theorem State.modSem_env : (s.modSem k f).env = s.env := rfl
@[simp] theorem State.modSem_dict : (s.modSem k f).dict = s.dict := rfl
@[simp] theorem State.modSem_ring : (s.modSem k f).ring = s.ring := rfl
@[simp] theorem State.modSem_own : (s.modSem k f).own = s.own := rfl
@[simp] theorem State.modSem_sec : (s.modSem k f).sec = s.sec := rfl
@[simp] theorem State.modSem_fw : (s.modSem k f).fw = s.fw := rfl
@[simp] theorem State.modSem_gov : (s.modSem k f).gov = s.gov := rfl
@[simp] theorem State.modSem_dies : (s.modSem k f).dies = s.dies := rfl
@[simp] theorem State.modSem_mem : (s.modSem k f).mem = s.mem := rfl
@[simp] theorem State.modSem_hbm : (s.modSem k f).hbm = s.hbm := rfl
@[simp] theorem State.modSem_wq : (s.modSem k f).wq = s.wq := rfl
@[simp] theorem State.modSem_caches : (s.modSem k f).caches = s.caches := rfl
@[simp] theorem State.modSem_mus : (s.modSem k f).mus = s.mus := rfl
@[simp] theorem State.modSem_pairs : (s.modSem k f).pairs = s.pairs := rfl
@[simp] theorem State.modSem_moves : (s.modSem k f).moves = s.moves := rfl
@[simp] theorem State.modSem_ctxs : (s.modSem k f).ctxs = s.ctxs := rfl
@[simp] theorem State.modSem_queues : (s.modSem k f).queues = s.queues := rfl
@[simp] theorem State.modSem_lists : (s.modSem k f).lists = s.lists := rfl
@[simp] theorem State.modSem_launches : (s.modSem k f).launches = s.launches := rfl
@[simp] theorem State.modSem_nextLaunch : (s.modSem k f).nextLaunch = s.nextLaunch := rfl
@[simp] theorem State.modSem_nextItem : (s.modSem k f).nextItem = s.nextItem := rfl
@[simp] theorem State.modSem_nextMove : (s.modSem k f).nextMove = s.nextMove := rfl
@[simp] theorem State.modSem_nextDispatch : (s.modSem k f).nextDispatch = s.nextDispatch := rfl
@[simp] theorem State.modSem_disables : (s.modSem k f).disables = s.disables := rfl
@[simp] theorem State.modSem_nextDisable : (s.modSem k f).nextDisable = s.nextDisable := rfl
@[simp] theorem State.modSem_saved : (s.modSem k f).saved = s.saved := rfl
@[simp] theorem State.modSem_bias : (s.modSem k f).bias = s.bias := rfl
@[simp] theorem State.modSem_kv : (s.modSem k f).kv = s.kv := rfl
@[simp] theorem State.modSem_samples : (s.modSem k f).samples = s.samples := rfl
@[simp] theorem State.modSem_spin : (s.modSem k f).spin = s.spin := rfl
@[simp] theorem State.modSem_spinBuf : (s.modSem k f).spinBuf = s.spinBuf := rfl
@[simp] theorem State.modSem_codecs : (s.modSem k f).codecs = s.codecs := rfl
@[simp] theorem State.modSem_ports : (s.modSem k f).ports = s.ports := rfl
@[simp] theorem State.modSem_log : (s.modSem k f).log = s.log := rfl
@[simp] theorem State.modSem_out : (s.modSem k f).out = s.out := rfl
end

/-! ### send -/

section
variable (m : Msg)
@[simp] theorem State.send_pending : (s.send m).pending = s.pending := rfl
@[simp] theorem State.send_variant : (s.send m).variant = s.variant := rfl
@[simp] theorem State.send_fresh : (s.send m).fresh = s.fresh := rfl
@[simp] theorem State.send_clock : (s.send m).clock = s.clock := rfl
@[simp] theorem State.send_start : (s.send m).start = s.start := rfl
@[simp] theorem State.send_env : (s.send m).env = s.env := rfl
@[simp] theorem State.send_dict : (s.send m).dict = s.dict := rfl
@[simp] theorem State.send_ring : (s.send m).ring = s.ring := rfl
@[simp] theorem State.send_own : (s.send m).own = s.own := rfl
@[simp] theorem State.send_sec : (s.send m).sec = s.sec := rfl
@[simp] theorem State.send_fw : (s.send m).fw = s.fw := rfl
@[simp] theorem State.send_gov : (s.send m).gov = s.gov := rfl
@[simp] theorem State.send_dies : (s.send m).dies = s.dies := rfl
@[simp] theorem State.send_mem : (s.send m).mem = s.mem := rfl
@[simp] theorem State.send_hbm : (s.send m).hbm = s.hbm := rfl
@[simp] theorem State.send_wq : (s.send m).wq = s.wq := rfl
@[simp] theorem State.send_caches : (s.send m).caches = s.caches := rfl
@[simp] theorem State.send_mus : (s.send m).mus = s.mus := rfl
@[simp] theorem State.send_pairs : (s.send m).pairs = s.pairs := rfl
@[simp] theorem State.send_moves : (s.send m).moves = s.moves := rfl
@[simp] theorem State.send_ctxs : (s.send m).ctxs = s.ctxs := rfl
@[simp] theorem State.send_queues : (s.send m).queues = s.queues := rfl
@[simp] theorem State.send_lists : (s.send m).lists = s.lists := rfl
@[simp] theorem State.send_sems : (s.send m).sems = s.sems := rfl
@[simp] theorem State.send_launches : (s.send m).launches = s.launches := rfl
@[simp] theorem State.send_nextLaunch : (s.send m).nextLaunch = s.nextLaunch := rfl
@[simp] theorem State.send_nextItem : (s.send m).nextItem = s.nextItem := rfl
@[simp] theorem State.send_nextMove : (s.send m).nextMove = s.nextMove := rfl
@[simp] theorem State.send_nextDispatch : (s.send m).nextDispatch = s.nextDispatch := rfl
@[simp] theorem State.send_disables : (s.send m).disables = s.disables := rfl
@[simp] theorem State.send_nextDisable : (s.send m).nextDisable = s.nextDisable := rfl
@[simp] theorem State.send_saved : (s.send m).saved = s.saved := rfl
@[simp] theorem State.send_bias : (s.send m).bias = s.bias := rfl
@[simp] theorem State.send_kv : (s.send m).kv = s.kv := rfl
@[simp] theorem State.send_samples : (s.send m).samples = s.samples := rfl
@[simp] theorem State.send_spin : (s.send m).spin = s.spin := rfl
@[simp] theorem State.send_spinBuf : (s.send m).spinBuf = s.spinBuf := rfl
@[simp] theorem State.send_codecs : (s.send m).codecs = s.codecs := rfl
@[simp] theorem State.send_ports : (s.send m).ports = s.ports := rfl
@[simp] theorem State.send_log : (s.send m).log = s.log := rfl
@[simp] theorem State.send_out : (s.send m).out = s.out ++ [m] := rfl
end

/-! ### draw -/

@[simp] theorem State.draw_pending : s.draw.2.pending = s.pending := rfl
@[simp] theorem State.draw_variant : s.draw.2.variant = s.variant := rfl
@[simp] theorem State.draw_clock : s.draw.2.clock = s.clock := rfl
@[simp] theorem State.draw_start : s.draw.2.start = s.start := rfl
@[simp] theorem State.draw_env : s.draw.2.env = s.env := rfl
@[simp] theorem State.draw_dict : s.draw.2.dict = s.dict := rfl
@[simp] theorem State.draw_ring : s.draw.2.ring = s.ring := rfl
@[simp] theorem State.draw_own : s.draw.2.own = s.own := rfl
@[simp] theorem State.draw_sec : s.draw.2.sec = s.sec := rfl
@[simp] theorem State.draw_fw : s.draw.2.fw = s.fw := rfl
@[simp] theorem State.draw_gov : s.draw.2.gov = s.gov := rfl
@[simp] theorem State.draw_dies : s.draw.2.dies = s.dies := rfl
@[simp] theorem State.draw_mem : s.draw.2.mem = s.mem := rfl
@[simp] theorem State.draw_hbm : s.draw.2.hbm = s.hbm := rfl
@[simp] theorem State.draw_wq : s.draw.2.wq = s.wq := rfl
@[simp] theorem State.draw_caches : s.draw.2.caches = s.caches := rfl
@[simp] theorem State.draw_mus : s.draw.2.mus = s.mus := rfl
@[simp] theorem State.draw_pairs : s.draw.2.pairs = s.pairs := rfl
@[simp] theorem State.draw_moves : s.draw.2.moves = s.moves := rfl
@[simp] theorem State.draw_ctxs : s.draw.2.ctxs = s.ctxs := rfl
@[simp] theorem State.draw_queues : s.draw.2.queues = s.queues := rfl
@[simp] theorem State.draw_lists : s.draw.2.lists = s.lists := rfl
@[simp] theorem State.draw_sems : s.draw.2.sems = s.sems := rfl
@[simp] theorem State.draw_launches : s.draw.2.launches = s.launches := rfl
@[simp] theorem State.draw_nextLaunch : s.draw.2.nextLaunch = s.nextLaunch := rfl
@[simp] theorem State.draw_nextItem : s.draw.2.nextItem = s.nextItem := rfl
@[simp] theorem State.draw_nextMove : s.draw.2.nextMove = s.nextMove := rfl
@[simp] theorem State.draw_nextDispatch : s.draw.2.nextDispatch = s.nextDispatch := rfl
@[simp] theorem State.draw_disables : s.draw.2.disables = s.disables := rfl
@[simp] theorem State.draw_nextDisable : s.draw.2.nextDisable = s.nextDisable := rfl
@[simp] theorem State.draw_saved : s.draw.2.saved = s.saved := rfl
@[simp] theorem State.draw_bias : s.draw.2.bias = s.bias := rfl
@[simp] theorem State.draw_kv : s.draw.2.kv = s.kv := rfl
@[simp] theorem State.draw_samples : s.draw.2.samples = s.samples := rfl
@[simp] theorem State.draw_spin : s.draw.2.spin = s.spin := rfl
@[simp] theorem State.draw_spinBuf : s.draw.2.spinBuf = s.spinBuf := rfl
@[simp] theorem State.draw_codecs : s.draw.2.codecs = s.codecs := rfl
@[simp] theorem State.draw_ports : s.draw.2.ports = s.ports := rfl
@[simp] theorem State.draw_log : s.draw.2.log = s.log := rfl
@[simp] theorem State.draw_out : s.draw.2.out = s.out := rfl
@[simp] theorem State.draw_fresh : s.draw.2.fresh = s.fresh + 1 := rfl

/-! ### wake, rouse -/

@[simp] theorem State.wake_pending (n : Nat) : (s.wake n).pending = s.pending := rfl
@[simp] theorem State.rouse_pending : s.rouse.pending = s.pending := by unfold State.rouse; split <;> rfl
@[simp] theorem State.wake_variant (n : Nat) : (s.wake n).variant = s.variant := rfl
@[simp] theorem State.rouse_variant : s.rouse.variant = s.variant := by unfold State.rouse; split <;> rfl
@[simp] theorem State.wake_fresh (n : Nat) : (s.wake n).fresh = s.fresh := rfl
@[simp] theorem State.rouse_fresh : s.rouse.fresh = s.fresh := by unfold State.rouse; split <;> rfl
@[simp] theorem State.wake_clock (n : Nat) : (s.wake n).clock = s.clock := rfl
@[simp] theorem State.rouse_clock : s.rouse.clock = s.clock := by unfold State.rouse; split <;> rfl
@[simp] theorem State.wake_start (n : Nat) : (s.wake n).start = s.start := rfl
@[simp] theorem State.rouse_start : s.rouse.start = s.start := by unfold State.rouse; split <;> rfl
@[simp] theorem State.wake_env (n : Nat) : (s.wake n).env = s.env := rfl
@[simp] theorem State.rouse_env : s.rouse.env = s.env := by unfold State.rouse; split <;> rfl
@[simp] theorem State.wake_dict (n : Nat) : (s.wake n).dict = s.dict := rfl
@[simp] theorem State.rouse_dict : s.rouse.dict = s.dict := by unfold State.rouse; split <;> rfl
@[simp] theorem State.wake_ring (n : Nat) : (s.wake n).ring = s.ring := rfl
@[simp] theorem State.rouse_ring : s.rouse.ring = s.ring := by unfold State.rouse; split <;> rfl
@[simp] theorem State.wake_own (n : Nat) : (s.wake n).own = s.own := rfl
@[simp] theorem State.rouse_own : s.rouse.own = s.own := by unfold State.rouse; split <;> rfl
@[simp] theorem State.wake_sec (n : Nat) : (s.wake n).sec = s.sec := rfl
@[simp] theorem State.rouse_sec : s.rouse.sec = s.sec := by unfold State.rouse; split <;> rfl
@[simp] theorem State.wake_fw (n : Nat) : (s.wake n).fw = s.fw := rfl
@[simp] theorem State.rouse_fw : s.rouse.fw = s.fw := by unfold State.rouse; split <;> rfl
@[simp] theorem State.wake_dies (n : Nat) : (s.wake n).dies = s.dies := rfl
@[simp] theorem State.rouse_dies : s.rouse.dies = s.dies := by unfold State.rouse; split <;> rfl
@[simp] theorem State.wake_mem (n : Nat) : (s.wake n).mem = s.mem := rfl
@[simp] theorem State.rouse_mem : s.rouse.mem = s.mem := by unfold State.rouse; split <;> rfl
@[simp] theorem State.wake_hbm (n : Nat) : (s.wake n).hbm = s.hbm := rfl
@[simp] theorem State.rouse_hbm : s.rouse.hbm = s.hbm := by unfold State.rouse; split <;> rfl
@[simp] theorem State.wake_wq (n : Nat) : (s.wake n).wq = s.wq := rfl
@[simp] theorem State.rouse_wq : s.rouse.wq = s.wq := by unfold State.rouse; split <;> rfl
@[simp] theorem State.wake_caches (n : Nat) : (s.wake n).caches = s.caches := rfl
@[simp] theorem State.rouse_caches : s.rouse.caches = s.caches := by unfold State.rouse; split <;> rfl
@[simp] theorem State.wake_mus (n : Nat) : (s.wake n).mus = s.mus := rfl
@[simp] theorem State.rouse_mus : s.rouse.mus = s.mus := by unfold State.rouse; split <;> rfl
@[simp] theorem State.wake_pairs (n : Nat) : (s.wake n).pairs = s.pairs := rfl
@[simp] theorem State.rouse_pairs : s.rouse.pairs = s.pairs := by unfold State.rouse; split <;> rfl
@[simp] theorem State.wake_moves (n : Nat) : (s.wake n).moves = s.moves := rfl
@[simp] theorem State.rouse_moves : s.rouse.moves = s.moves := by unfold State.rouse; split <;> rfl
@[simp] theorem State.wake_ctxs (n : Nat) : (s.wake n).ctxs = s.ctxs := rfl
@[simp] theorem State.rouse_ctxs : s.rouse.ctxs = s.ctxs := by unfold State.rouse; split <;> rfl
@[simp] theorem State.wake_queues (n : Nat) : (s.wake n).queues = s.queues := rfl
@[simp] theorem State.rouse_queues : s.rouse.queues = s.queues := by unfold State.rouse; split <;> rfl
@[simp] theorem State.wake_lists (n : Nat) : (s.wake n).lists = s.lists := rfl
@[simp] theorem State.rouse_lists : s.rouse.lists = s.lists := by unfold State.rouse; split <;> rfl
@[simp] theorem State.wake_sems (n : Nat) : (s.wake n).sems = s.sems := rfl
@[simp] theorem State.rouse_sems : s.rouse.sems = s.sems := by unfold State.rouse; split <;> rfl
@[simp] theorem State.wake_launches (n : Nat) : (s.wake n).launches = s.launches := rfl
@[simp] theorem State.rouse_launches : s.rouse.launches = s.launches := by unfold State.rouse; split <;> rfl
@[simp] theorem State.wake_nextLaunch (n : Nat) : (s.wake n).nextLaunch = s.nextLaunch := rfl
@[simp] theorem State.rouse_nextLaunch : s.rouse.nextLaunch = s.nextLaunch := by unfold State.rouse; split <;> rfl
@[simp] theorem State.wake_nextItem (n : Nat) : (s.wake n).nextItem = s.nextItem := rfl
@[simp] theorem State.rouse_nextItem : s.rouse.nextItem = s.nextItem := by unfold State.rouse; split <;> rfl
@[simp] theorem State.wake_nextMove (n : Nat) : (s.wake n).nextMove = s.nextMove := rfl
@[simp] theorem State.rouse_nextMove : s.rouse.nextMove = s.nextMove := by unfold State.rouse; split <;> rfl
@[simp] theorem State.wake_nextDispatch (n : Nat) : (s.wake n).nextDispatch = s.nextDispatch := rfl
@[simp] theorem State.rouse_nextDispatch : s.rouse.nextDispatch = s.nextDispatch := by unfold State.rouse; split <;> rfl
@[simp] theorem State.wake_disables (n : Nat) : (s.wake n).disables = s.disables := rfl
@[simp] theorem State.rouse_disables : s.rouse.disables = s.disables := by unfold State.rouse; split <;> rfl
@[simp] theorem State.wake_nextDisable (n : Nat) : (s.wake n).nextDisable = s.nextDisable := rfl
@[simp] theorem State.rouse_nextDisable : s.rouse.nextDisable = s.nextDisable := by unfold State.rouse; split <;> rfl
@[simp] theorem State.wake_saved (n : Nat) : (s.wake n).saved = s.saved := rfl
@[simp] theorem State.rouse_saved : s.rouse.saved = s.saved := by unfold State.rouse; split <;> rfl
@[simp] theorem State.wake_bias (n : Nat) : (s.wake n).bias = s.bias := rfl
@[simp] theorem State.rouse_bias : s.rouse.bias = s.bias := by unfold State.rouse; split <;> rfl
@[simp] theorem State.wake_kv (n : Nat) : (s.wake n).kv = s.kv := rfl
@[simp] theorem State.rouse_kv : s.rouse.kv = s.kv := by unfold State.rouse; split <;> rfl
@[simp] theorem State.wake_samples (n : Nat) : (s.wake n).samples = s.samples := rfl
@[simp] theorem State.rouse_samples : s.rouse.samples = s.samples := by unfold State.rouse; split <;> rfl
@[simp] theorem State.wake_spin (n : Nat) : (s.wake n).spin = s.spin := rfl
@[simp] theorem State.rouse_spin : s.rouse.spin = s.spin := by unfold State.rouse; split <;> rfl
@[simp] theorem State.wake_spinBuf (n : Nat) : (s.wake n).spinBuf = s.spinBuf := rfl
@[simp] theorem State.rouse_spinBuf : s.rouse.spinBuf = s.spinBuf := by unfold State.rouse; split <;> rfl
@[simp] theorem State.wake_codecs (n : Nat) : (s.wake n).codecs = s.codecs := rfl
@[simp] theorem State.rouse_codecs : s.rouse.codecs = s.codecs := by unfold State.rouse; split <;> rfl
@[simp] theorem State.wake_ports (n : Nat) : (s.wake n).ports = s.ports := rfl
@[simp] theorem State.rouse_ports : s.rouse.ports = s.ports := by unfold State.rouse; split <;> rfl
@[simp] theorem State.wake_log (n : Nat) : (s.wake n).log = s.log := rfl
@[simp] theorem State.rouse_log : s.rouse.log = s.log := by unfold State.rouse; split <;> rfl
@[simp] theorem State.wake_out (n : Nat) : (s.wake n).out = s.out := rfl
@[simp] theorem State.rouse_out : s.rouse.out = s.out := by unfold State.rouse; split <;> rfl

end Sys2Proof.Machine
end

