-- ==== Sys2Proof/Laws/Tab.lean ====
section
/-! SUPPORT. Tables by number: what is found after a write, an update or a removal. -/
namespace Sys2Proof

variable {α : Type}

@[simp] theorem Tab.find_put_self (t : Tab α) (n : Nat) (v : α) : (t.put n v).find n = some v := by
  induction t with
  | nil => simp [Tab.put, Tab.find]
  | cons e t ih =>
    obtain ⟨k, w⟩ := e
    simp only [Tab.put]
    split
    · simp [Tab.find]
    · split
      · simp [Tab.find]
      · rename_i h _; simp [Tab.find, h, ih]

theorem Tab.find_put_ne (t : Tab α) {n k : Nat} (v : α) (h : k ≠ n) : (t.put n v).find k = t.find k := by
  induction t with
  | nil => simp [Tab.put, Tab.find, Ne.symm h]
  | cons e t ih =>
    obtain ⟨j, w⟩ := e
    simp only [Tab.put]
    split
    · rename_i e; subst e; simp [Tab.find, Ne.symm h]
    · split
      · simp [Tab.find, Ne.symm h]
      · simp only [Tab.find, ih]

@[simp] theorem Tab.get_put_self (t : Tab α) (d : α) (n : Nat) (v : α) : (t.put n v).get d n = v := by
  simp [Tab.get]

theorem Tab.get_put_ne (t : Tab α) (d : α) {n k : Nat} (v : α) (h : k ≠ n) : (t.put n v).get d k = t.get d k := by
  simp [Tab.get, Tab.find_put_ne t v h]

theorem Tab.find_upd_self (t : Tab α) (n : Nat) (f : α → α) : (t.upd n f).find n = (t.find n).map f := by
  unfold Tab.upd
  cases h : t.find n <;> simp [h]

theorem Tab.find_upd_ne (t : Tab α) {n k : Nat} (f : α → α) (h : k ≠ n) : (t.upd n f).find k = t.find k := by
  unfold Tab.upd
  cases t.find n with
  | none => rfl
  | some v => exact Tab.find_put_ne t _ h

theorem Tab.del_cons (k : Nat) (w : α) (t : Tab α) (n : Nat) :
    Tab.del ((k, w) :: t) n = if k = n then Tab.del t n else (k, w) :: Tab.del t n := by
  unfold Tab.del
  rw [List.filter_cons]
  by_cases h : k = n <;> simp [h]

theorem Tab.find_del_self (t : Tab α) (n : Nat) : (t.del n).find n = none := by
  induction t with
  | nil => rfl
  | cons e t ih =>
    obtain ⟨k, w⟩ := e
    rw [Tab.del_cons]
    split
    · exact ih
    · rename_i h; simp [Tab.find, h, ih]

theorem Tab.find_del_ne (t : Tab α) {n k : Nat} (h : k ≠ n) : (t.del n).find k = t.find k := by
  induction t with
  | nil => rfl
  | cons e t ih =>
    obtain ⟨j, w⟩ := e
    rw [Tab.del_cons]
    split
    · rename_i hj; subst hj; simp [Tab.find, Ne.symm h, ih]
    · simp [Tab.find, ih]

/-- A free key has no entry and lies in its range. -/
theorem Tab.freeFrom_spec (t : Tab α) : ∀ (fuel lo k : Nat), t.freeFrom lo fuel = some k → t.find k = none ∧ lo ≤ k := by
  intro fuel
  induction fuel with
  | zero => intro lo k h; simp [Tab.freeFrom] at h
  | succ n ih =>
    intro lo k h
    simp only [Tab.freeFrom] at h
    split at h
    · have := ih _ _ h; exact ⟨this.1, by omega⟩
    · rename_i hn
      cases h
      exact ⟨by simpa [Tab.has] using hn, Nat.le_refl _⟩

theorem Tab.free_spec (t : Tab α) {lo hi k : Nat} (h : t.free lo hi = some k) : t.find k = none ∧ lo ≤ k ∧ k ≤ hi := by
  simp only [Tab.free] at h
  cases hf : t.freeFrom lo (t.length + 1) with
  | none => simp [hf] at h
  | some j =>
    simp only [hf] at h
    split at h
    · cases h
      have := t.freeFrom_spec _ _ _ hf
      exact ⟨this.1, this.2, by assumption⟩
    · cases h

end Sys2Proof
end

