-- ==== Sys2Proof/Laws/Frame.lean ====
section
/-! SUPPORT. What the shared operations may change: an access to memory, the end of an item, an event record. Each relation
names the fields that may differ; all others are equal. -/
namespace Sys2Proof.Machine

/-! ### The relations -/

/-- The end of an item with the record of a deadline it missed: what `Ends` and `Records` name. -/
def Finishes (s t : State) : Prop :=
  ∃ mem hbm wq caches dies fresh ms queues sems gov lists log ring ports,
    t = { s with mem := mem, hbm := hbm, wq := wq, caches := caches, dies := dies, fresh := fresh, out := s.out ++ ms,
                 queues := queues, sems := sems, gov := gov, lists := lists, log := log, ring := ring, ports := ports }

theorem Touches.refl (s : State) : Touches s s := ⟨_, _, _, _, _, rfl⟩
theorem Touches.trans {s t u : State} (h : Touches s t) (k : Touches t u) : Touches s u := by
  obtain ⟨_, _, _, _, _, rfl⟩ := h
  obtain ⟨_, _, _, _, _, rfl⟩ := k
  exact ⟨_, _, _, _, _, rfl⟩
theorem Touches.reaches {s t : State} (h : Touches s t) : Reaches s t := by
  obtain ⟨_, _, _, _, _, rfl⟩ := h
  exact ⟨_, _, _, _, _, _, [], by rw [List.append_nil]⟩
theorem Touches.mem {s t : State} (h : Touches s t) : t.mem = s.mem := by
  obtain ⟨_, _, _, _, _, rfl⟩ := h
  rfl
theorem Reaches.refl (s : State) : Reaches s s := (Touches.refl s).reaches
theorem Reaches.trans {s t u : State} (h : Reaches s t) (k : Reaches t u) : Reaches s u := by
  obtain ⟨_, _, _, _, _, _, ms, rfl⟩ := h
  obtain ⟨_, _, _, _, _, _, ns, rfl⟩ := k
  exact ⟨_, _, _, _, _, _, ms ++ ns, by rw [← List.append_assoc]⟩
theorem Ends.refl (q : Nat) (s : State) : Ends q s s :=
  ⟨_, _, _, _, _, _, [], _, _, _, _, _, fun _ _ => rfl, by rw [List.append_nil]⟩
theorem Ends.trans {q : Nat} {s t u : State} (h : Ends q s t) (k : Ends q t u) : Ends q s u := by
  obtain ⟨_, _, _, _, _, _, ms, _, _, _, _, _, h, rfl⟩ := h
  obtain ⟨_, _, _, _, _, _, ns, _, _, _, _, _, k, rfl⟩ := k
  exact ⟨_, _, _, _, _, _, ms ++ ns, _, _, _, _, _, fun p hp => (k p hp).trans (h p hp), by rw [← List.append_assoc]⟩
theorem Reaches.ends {q : Nat} {s t : State} (h : Reaches s t) : Ends q s t := by
  obtain ⟨_, _, _, _, _, _, _, rfl⟩ := h
  exact ⟨_, _, _, _, _, _, _, _, _, _, _, _, fun _ _ => rfl, rfl⟩
theorem Finishes.refl (s : State) : Finishes s s := ⟨_, _, _, _, _, _, [], _, _, _, _, _, _, _, by rw [List.append_nil]⟩
theorem Finishes.trans {s t u : State} (h : Finishes s t) (k : Finishes t u) : Finishes s u := by
  obtain ⟨_, _, _, _, _, _, ms, _, _, _, _, _, _, _, rfl⟩ := h
  obtain ⟨_, _, _, _, _, _, ns, _, _, _, _, _, _, _, rfl⟩ := k
  exact ⟨_, _, _, _, _, _, ms ++ ns, _, _, _, _, _, _, _, by rw [← List.append_assoc]⟩
theorem Ends.finishes {q : Nat} {s t : State} (h : Ends q s t) : Finishes s t := by
  obtain ⟨_, _, _, _, _, _, _, _, _, _, _, _, _, rfl⟩ := h
  exact ⟨_, _, _, _, _, _, _, _, _, _, _, _, _, _, rfl⟩
theorem Records.finishes {s t : State} (h : Records s t) : Finishes s t := by
  obtain ⟨_, _, _, _, rfl⟩ := h
  exact ⟨_, _, _, _, _, _, _, _, _, _, _, _, _, _, rfl⟩
theorem Records.refl (s : State) : Records s s := ⟨_, _, _, [], by rw [List.append_nil]⟩
theorem Records.trans {s t u : State} (h : Records s t) (k : Records t u) : Records s u := by
  obtain ⟨_, _, _, ms, rfl⟩ := h
  obtain ⟨_, _, _, ns, rfl⟩ := k
  exact ⟨_, _, _, ms ++ ns, by rw [← List.append_assoc]⟩

/-- A fold of steps that each keep a relation keeps it. -/
theorem foldl_keeps {α : Type} {R : State → State → Prop} (refl : ∀ s, R s s) (trans : ∀ {s t u}, R s t → R t u → R s u)
    (f : State → α → State) (step : ∀ s x, R s (f s x)) (xs : List α) (s : State) : R s (xs.foldl f s) := by
  induction xs generalizing s with
  | nil => exact refl s
  | cons x xs ih => exact trans (step s x) (ih (f s x))

/-! ### Small steps -/

theorem touches_modStack (s : State) (n : Nat) (f : Stack → Stack) : Touches s (s.modStack n f) := ⟨_, _, _, _, _, rfl⟩
theorem touches_modDie (s : State) (n : Nat) (f : Die → Die) : Touches s (s.modDie n f) := ⟨_, _, _, _, _, rfl⟩
theorem touches_draw (s : State) : Touches s s.draw.2 := ⟨_, _, _, _, _, rfl⟩
theorem touches_transfer (s : State) (n : Nat) : Touches s (s.transfer n) := touches_modStack _ _ _
theorem touches_queueWrite (s : State) (a n : Nat) : Touches s (s.queueWrite a n) := by
  unfold State.queueWrite
  simp only
  split
  · exact (touches_modStack _ _ _).trans ⟨_, _, _, _, _, rfl⟩
  · exact ⟨_, _, _, _, _, rfl⟩
theorem touches_caches (s : State) (c : Tab Cache) : Touches s { s with caches := c } := ⟨_, _, _, _, _, rfl⟩
theorem reaches_send (s : State) (m : Msg) : Reaches s (s.send m) := ⟨_, _, _, _, _, _, [m], rfl⟩
theorem reaches_mem (s : State) (m : Mem) : Reaches s { s with mem := m } :=
  ⟨_, _, _, _, _, _, [], by rw [List.append_nil]⟩
theorem ends_modQueue (s : State) (q : Nat) (f : Queue → Queue) : Ends q s (s.modQueue q f) :=
  ⟨_, _, _, _, _, _, [], _, _, _, _, _, fun _ hp => Tab.find_upd_ne _ _ hp, by rw [List.append_nil]; rfl⟩
theorem ends_modSem (s : State) (q k : Nat) (f : Sem → Sem) : Ends q s (s.modSem k f) :=
  ⟨_, _, _, _, _, _, [], _, _, _, _, _, fun _ _ => rfl, by rw [List.append_nil]; rfl⟩

/-! ### Accesses -/

theorem touches_sramRead (s : State) (d b lo hi : Nat) : Touches s (s.sramRead d b lo hi).1 := by
  unfold State.sramRead
  simp only
  generalize List.find? _ _ = w
  cases w <;> dsimp only <;> split <;> exact ⟨_, _, _, _, _, rfl⟩

theorem touches_sramWrite (s : State) (d b lo hi : Nat) : Touches s (s.sramWrite d b lo hi) := by
  unfold State.sramWrite
  split
  · exact Touches.refl s
  · exact touches_modDie _ _ _

theorem touches_writeBack (s : State) (l : CLine) : Touches s (s.writeBack l) := by
  unfold State.writeBack
  split
  · exact Touches.refl s
  · exact (touches_modStack _ _ _).trans (touches_queueWrite _ _ _)

theorem touches_cacheFill (s : State) (d sl set line : Nat) (dirty : Bool) (p : Byte) :
    Touches s (s.cacheFill d sl set line dirty p) := by
  unfold State.cacheFill
  simp only
  split
  · exact (touches_writeBack _ _).trans (touches_caches _ _)
  · exact touches_caches _ _

theorem touches_stackTouch (s : State) (n off a len : Nat) (wr : Bool) : Touches s (s.stackTouch n off a len wr).1 := by
  unfold State.stackTouch
  simp only
  split
  · have h (b : Bool) : Touches s (if b = true then s else s.transfer n) := by
      cases b
      · exact touches_transfer s n
      · exact Touches.refl s
    specialize h (wr && (List.filter (fun i => !(covered a len).contains i) (touched a len)).isEmpty)
    revert h
    generalize (if (wr && (List.filter (fun i => !(covered a len).contains i) (touched a len)).isEmpty) = true
      then s else s.transfer n) = t
    intro h
    cases wr
    · simp only [Bool.false_eq_true, if_false]
      generalize List.find? _ _ = w
      cases w
      · exact h
      · exact h.trans ⟨_, _, _, _, _, rfl⟩
    · simp only [if_true]
      generalize List.find? _ _ = w
      cases w
      · exact (h.trans (touches_modStack t n (fun x => x.heal (off - off % 256) (covered a len)))).trans
          (touches_queueWrite _ _ _)
      · exact h.trans ⟨_, _, _, _, _, rfl⟩
  · generalize Cache.lookup _ _ _ _ = l
    cases l with
    | some l =>
      simp only
      generalize List.find? _ _ = w
      cases w <;> exact ⟨_, _, _, _, _, rfl⟩
    | none =>
      simp only
      split
      · exact touches_cacheFill _ _ _ _ _ _ _
      · generalize List.find? _ _ = w
        cases w
        · exact ((touches_transfer s n).trans (touches_cacheFill _ _ _ _ _ _ _)).trans (by exact ⟨_, _, _, _, _, rfl⟩)
        · exact ((touches_transfer s n).trans (touches_cacheFill _ _ _ _ _ _ _)).trans (by exact ⟨_, _, _, _, _, rfl⟩)

/-- A word rewritten in part is read first. -/
theorem touches_partRead (c : Bool) (s : State) (e : Option (Nat × Nat)) (d b w : Nat) :
    Touches s (if c then (s, e) else s.sramRead d b w w).1 := by
  cases c
  · exact touches_sramRead s d b w w
  · exact Touches.refl s

theorem touches_devTouch (s : State) (a len : Nat) (wr unit : Bool) : Touches s (s.devTouch a len wr unit).1 := by
  unfold State.devTouch
  generalize s.region a = x
  generalize s.region (a + len - 1) = y
  cases x <;> cases y <;> try exact Touches.refl s
  · simp only
    generalize s.hostBias a = p
    cases p with
    | none => exact touches_stackTouch _ _ _ _ _ _
    | some p =>
      simp only
      split
      · exact Touches.refl s
      · exact touches_stackTouch _ _ _ _ _ _
  · rename_i d i off _ _ _
    simp only
    cases wr
    · have h := touches_sramRead s d 26 (sliceWord i off) (sliceWord i (off + len - 1))
      simp only [Bool.false_eq_true, if_false]
      revert h
      generalize State.sramRead s d 26 (sliceWord i off) (sliceWord i (off + len - 1)) = r
      intro h
      obtain ⟨t, e⟩ := r
      cases e <;> exact h
    · simp only [if_true]
      have h1 := touches_partRead (decide (off % 4 = 0)) s none d 26 (sliceWord i off)
      simp only [decide_eq_true_eq] at h1
      revert h1
      generalize (if off % 4 = 0 then (s, none) else State.sramRead s d 26 (sliceWord i off) (sliceWord i off)) = r
      intro h1
      obtain ⟨t, e⟩ := r
      have h2 := touches_partRead (e.isSome || decide ((off + len) % 4 = 0)) t e d 26 (sliceWord i (off + len - 1))
      simp only at h1 ⊢
      revert h2
      generalize (if (e.isSome || decide ((off + len) % 4 = 0)) = true then (t, e) else
        State.sramRead t d 26 (sliceWord i (off + len - 1)) (sliceWord i (off + len - 1))) = q
      intro h2
      obtain ⟨u, e'⟩ := q
      cases e' with
      | none => exact (h1.trans h2).trans (touches_sramWrite u d 26 _ _)
      | some _ => exact h1.trans h2

theorem reaches_devReadF (unit : Bool) (ps : List (Nat × Nat)) (s : State) : Reaches s (s.devReadF unit ps).1 := by
  induction ps generalizing s with
  | nil => exact Reaches.refl s
  | cons p ps ih =>
    obtain ⟨a, n⟩ := p
    simp only [State.devReadF]
    have h := (touches_devTouch s a n false unit).reaches
    split
    · rename_i t heq
      rw [heq] at h
      exact h.trans (ih t)
    · rename_i t e _ heq
      rw [heq] at h
      exact h

theorem reaches_devRead (s : State) (a n : Nat) (unit : Bool) : Reaches s (s.devRead a n unit).1 := reaches_devReadF _ _ _

theorem reaches_devWriteF (unit : Bool) (ps : List (Nat × Nat)) (bs : List Byte) (s : State) :
    Reaches s (s.devWriteF unit ps bs).1 := by
  induction ps generalizing s bs with
  | nil => exact Reaches.refl s
  | cons p ps ih =>
    obtain ⟨a, n⟩ := p
    simp only [State.devWriteF]
    have h := (touches_devTouch s a n true unit).reaches
    split
    · rename_i t heq
      rw [heq] at h
      exact (h.trans (reaches_mem _ _)).trans (ih _ _)
    · rename_i t e _ heq
      rw [heq] at h
      exact h

theorem reaches_devWrite (s : State) (a : Nat) (bs : List Byte) (unit : Bool) : Reaches s (s.devWrite a bs unit).1 :=
  reaches_devWriteF _ _ _ _

theorem reaches_ctxReadF (c : Ctx) (ps : List (Nat × Nat)) (s : State) : Reaches s (s.ctxReadF c ps).1 := by
  induction ps generalizing s with
  | nil => exact Reaches.refl s
  | cons p ps ih =>
    obtain ⟨a, n⟩ := p
    simp only [State.ctxReadF]
    split
    · exact Reaches.refl s
    · split
      · exact Reaches.refl s
      · exact (touches_draw s).reaches.trans (ih _)
    · rename_i b _ _
      have h := reaches_devRead s b n true
      split
      · rename_i t bs heq
        rw [heq] at h
        exact h.trans (ih t)
      · rename_i t e _ _ heq
        rw [heq] at h
        exact h

theorem reaches_ctxRead (s : State) (c : Ctx) (a n : Nat) : Reaches s (s.ctxRead c a n).1 := reaches_ctxReadF _ _ _

theorem reaches_ctxWriteF (c : Ctx) (ps : List (Nat × Nat)) (bs : List Byte) (s : State) :
    Reaches s (s.ctxWriteF c ps bs).1 := by
  induction ps generalizing s bs with
  | nil => exact Reaches.refl s
  | cons p ps ih =>
    obtain ⟨a, n⟩ := p
    simp only [State.ctxWriteF]
    split
    · exact Reaches.refl s
    · split
      · exact Reaches.refl s
      · split
        · split
          · exact Reaches.refl s
          · exact (reaches_send _ _).trans (ih _ _)
        · rename_i b _
          have h := reaches_devWrite s b (bs.take n) true
          split
          · rename_i t heq
            rw [heq] at h
            exact h.trans (ih _ t)
          · rename_i t e _ heq
            rw [heq] at h
            exact h

theorem reaches_ctxWrite (s : State) (c : Ctx) (a : Nat) (bs : List Byte) : Reaches s (s.ctxWrite c a bs).1 :=
  reaches_ctxWriteF _ _ _ _

/-! ### Where an access stores -/

theorem spansF_inside (k a n : Nat) {p : Nat × Nat} (h : p ∈ spansF k a n) : a ≤ p.1 ∧ p.1 + p.2 ≤ a + n := by
  induction k generalizing a n with
  | zero => simp [spansF] at h
  | succ k ih =>
    unfold spansF at h
    split at h
    · simp at h
    · simp only [List.mem_cons] at h
      rcases h with rfl | h
      · exact ⟨Nat.le_refl _, Nat.add_le_add_left (Nat.min_le_left _ _) _⟩
      · obtain ⟨h1, h2⟩ := ih _ _ h
        have : min n (256 - a % 256) ≤ n := Nat.min_le_left _ _
        omega

theorem devWriteF_mem (unit : Bool) (ps : List (Nat × Nat)) (bs : List Byte) (s : State) (a : Nat)
    (h : ∀ p ∈ ps, a < p.1 ∨ p.1 + p.2 ≤ a) : (s.devWriteF unit ps bs).1.mem.get a = s.mem.get a := by
  induction ps generalizing s bs with
  | nil => rfl
  | cons p ps ih =>
    obtain ⟨b, n⟩ := p
    simp only [State.devWriteF]
    have ht := (touches_devTouch s b n true unit).mem
    have hp := h (b, n) (by simp)
    rcases hd : s.devTouch b n true unit with ⟨t, e⟩
    rw [hd] at ht
    cases e with
    | ok =>
      simp only at ht ⊢
      rw [ih _ _ (fun p hp => h p (by simp [hp]))]
      simp only
      rw [Mem.get_write_outside, ht]
      have : (bs.take n).length ≤ n := by rw [List.length_take]; omega
      simp only at hp
      omega
    | _ => simp only at ht ⊢; rw [ht]

theorem devWrite_mem (s : State) (b : Nat) (bs : List Byte) (unit : Bool) (a : Nat)
    (h : a < b ∨ b + bs.length ≤ a) : (s.devWrite b bs unit).1.mem.get a = s.mem.get a := by
  apply devWriteF_mem
  intro p hp
  obtain ⟨h1, h2⟩ := spansF_inside _ _ _ hp
  omega

theorem ctxWriteF_mem (c : Ctx) (ps : List (Nat × Nat)) (bs : List Byte) (s : State) (a : Nat)
    (h : ∀ p ∈ ps, ∀ b w, c.walk p.1 = some (.dev b, w) → a < b ∨ b + p.2 ≤ a) :
    (s.ctxWriteF c ps bs).1.mem.get a = s.mem.get a := by
  induction ps generalizing s bs with
  | nil => rfl
  | cons p ps ih =>
    obtain ⟨va, n⟩ := p
    simp only [State.ctxWriteF]
    have hp := h (va, n) (by simp)
    have ih' := fun bs s => ih bs s (fun p hp => h p (by simp [hp]))
    cases hw : c.walk va with
    | none => rfl
    | some x =>
      obtain ⟨l, w⟩ := x
      simp only
      cases w with
      | false => rfl
      | true =>
        simp only [Bool.not_true, Bool.false_eq_true, if_false]
        cases l with
        | host q b =>
          simp only
          split
          · rfl
          · rw [ih']; rfl
        | dev b =>
          simp only
          have hm := devWrite_mem s b (bs.take n) true a (by
            have h1 := hp b true hw
            simp only at h1
            have : (bs.take n).length ≤ n := by rw [List.length_take]; omega
            omega)
          rcases hd : s.devWrite b (bs.take n) true with ⟨t, e⟩
          rw [hd] at hm
          cases e with
          | ok => simp only at hm ⊢; rw [ih', hm]
          | _ => exact hm

/-- A write through a context changes no byte but those it stores to. -/
theorem ctxWrite_mem (s : State) (c : Ctx) (va : Nat) (bs : List Byte) (a : Nat) (h : ¬ c.stores va bs.length a) :
    (s.ctxWrite c va bs).1.mem.get a = s.mem.get a := by
  apply ctxWriteF_mem
  intro p hp b w hw
  by_cases h1 : a < b
  · exact .inl h1
  · by_cases h2 : b + p.2 ≤ a
    · exact .inr h2
    · exact absurd ⟨p, hp, b, w, hw, Nat.le_of_not_lt h1, Nat.lt_of_not_le h2⟩ h

/-! ### The end of an item -/

theorem ends_ringWrite (s : State) (q : Queue) (a : Nat) (bs : List Byte) : Reaches s (s.ringWrite q a bs) := by
  unfold State.ringWrite
  split
  · exact reaches_send _ _
  · split
    · exact reaches_ctxWrite _ _ _ _
    · exact Reaches.refl s

theorem ends_writeRecord (s : State) (q : Nat) (r : W32 × Nat × Nat × W64) : Ends q s (s.writeRecord q r) := by
  unfold State.writeRecord
  split
  · exact Ends.refl q s
  · rename_i qu _
    simp only
    have endStep (m : Msg) (a b : Nat) (x y : List Byte) (f : Queue → Queue) :
        Ends q s ((((s.send m).ringWrite qu a x).ringWrite qu b y).modQueue q f) :=
      (((reaches_send s m).trans (ends_ringWrite _ _ _ _)).trans (ends_ringWrite _ _ _ _)).ends.trans
        (ends_modQueue _ _ _)
    by_cases hq : (!qu.tr.set) = true
    · rw [if_pos hq]
      exact (reaches_send s _).ends.trans (ends_modQueue _ _ _)
    · rw [if_neg hq]
      by_cases hd : (qu.tr.vec != 0 && decide (qu.unsig + 1 ≥ qu.tr.ccnt)) = true
      · rw [if_pos hd]
        exact (endStep _ _ _ _ _ _).trans (reaches_send _ _).ends
      · rw [if_neg hd]
        exact endStep _ _ _ _ _ _

theorem ends_record (s : State) (q : Nat) (r : W32 × Nat × Nat × W64) : Ends q s (s.record q r) := by
  unfold State.record
  split
  · exact Ends.refl q s
  · split
    · exact ends_writeRecord _ _ _
    · exact ends_modQueue _ _ _

theorem ends_keepHistory (s : State) (q : Nat) (it : QItem) (st : Nat) : Ends q s (s.keepHistory q it st) := by
  unfold State.keepHistory
  split
  · split
    · exact ⟨_, _, _, _, _, _, [], _, _, _, _, _, fun _ _ => rfl, by rw [List.append_nil]⟩
    · exact Ends.refl q s
  · exact Ends.refl q s

theorem ends_signalEnd (s : State) (q : Nat) (p : Nat) (h : Header) (st : Nat) : Ends q s (s.signalEnd p h st) := by
  unfold State.signalEnd
  split
  · exact ends_modSem _ _ _ _
  · exact Ends.refl q s

theorem ends_endItem (s : State) (q id st code : Nat) (v : W64) : Ends q s (s.endItem q id st code v) := by
  unfold State.endItem
  split
  · exact Ends.refl q s
  · simp only
    have pre (it : QItem) (f : Queue → Queue) : Ends q s
        (match ((s.keepHistory q it st).modQueue q f).queues.find q with
        | some x => ((s.keepHistory q it st).modQueue q f).signalEnd x.part it.hdr st
        | none => (s.keepHistory q it st).modQueue q f) := by
      refine ((ends_keepHistory s q it st).trans (ends_modQueue _ _ f)).trans ?_
      split
      · exact ends_signalEnd _ _ _ _ _
      · exact Ends.refl _ _
    split
    · exact (pre _ _).trans (ends_record _ _ _)
    · split
      · exact pre _ _
      · exact (pre _ _).trans (ends_modQueue _ _ _)

theorem ends_closeReplay (s : State) (q id : Nat) : Ends q s (s.closeReplay q id) :=
  ⟨_, _, _, _, _, _, [], _, _, _, _, _, fun _ _ => rfl, by rw [List.append_nil]; rfl⟩

/-! ### Event records -/

theorem records_modPort (s : State) (p : Nat) (f : Port → Port) : Records s (s.modPort p f) :=
  ⟨_, _, _, [], by rw [List.append_nil]; rfl⟩
theorem records_send (s : State) (m : Msg) : Records s (s.send m) := ⟨_, _, _, [m], rfl⟩

theorem records_toRing (s : State) (p : Nat) (r : EvRec) : Records s (s.toRing p r) := by
  unfold State.toRing
  split
  · exact Records.refl s
  · simp only
    split
    · exact (records_modPort _ _ _).trans (records_send _ _)
    · have h (f : Port → Port) (m n : Msg) : Records s (((s.modPort p f).send m).send n) :=
        ((records_modPort s p _).trans (records_send _ _)).trans (records_send _ _)
      split
      · exact h _ _ _
      · exact (h _ _ _).trans (records_send _ _)

/-- Raising a record changes what `Records` names and nothing else. -/
theorem records_raise (s : State) (r : EvRec) (lost : Option Nat) : Records s (s.raise r lost) := by
  unfold State.raise
  generalize causeRoute r.cause = c
  obtain ⟨lg, host, rg⟩ := c
  simp only
  refine Records.trans ?_ (foldl_keeps Records.refl Records.trans _ (fun s p => records_toRing s p _) _ _)
  repeat' split
  all_goals exact ⟨_, _, _, [], by rw [List.append_nil]⟩

/-! ### Items that finish -/

theorem records_noteLate (s : State) (q id : Nat) : Records s (s.noteLate q id) := by
  unfold State.noteLate
  split
  · exact Records.refl s
  · split
    · split
      · exact records_raise _ _ _
      · exact Records.refl s
    · exact Records.refl s

theorem finishes_endReplays (s : State) (q : Nat) : Finishes s (s.endReplays q) := by
  unfold State.endReplays
  split
  · exact Finishes.refl s
  · split
    · exact Finishes.refl s
    · simp only
      have h (i : QItem) : Finishes s ((s.closeReplay q i.id).noteLate q i.id) :=
        (ends_closeReplay s q i.id).finishes.trans (records_noteLate _ _ _).finishes
      split
      · exact (h _).trans (ends_endItem _ _ _ _ _ _).finishes
      · exact (h _).trans (ends_endItem _ _ _ _ _ _).finishes

/-- Ending an item changes what `Finishes` names and nothing else. -/
theorem finishes_finishItem (s : State) (q id st code : Nat) (v : W64) : Finishes s (s.finishItem q id st code v) :=
  ((records_noteLate _ _ _).finishes.trans (ends_endItem _ _ _ _ _ _).finishes).trans (finishes_endReplays _ _)

theorem finishes_doneItem (s : State) (q id : Nat) (v : W64) : Finishes s (s.doneItem q id v) := by
  unfold State.doneItem
  split
  · exact Finishes.refl s
  · split
    · split <;> exact finishes_finishItem _ _ _ _ _ _
    · exact Finishes.refl s

end Sys2Proof.Machine
end

