-- ==== Sys2Proof/Laws/Issue.lean ====
section
/-! SUPPORT. An instruction that issues and retires: what `State.site`, `State.issue` and `State.retire` answer. -/
namespace Sys2Proof.Machine

/-- What a site says of the state. -/
theorem site_some {s : State} {i : Issue} {z : Instr} {a : Site} (h : s.site i z = some a) :
    a.u = i.unit.val ∧ a.p = s.pair a.u ∧ a.p.launch = some a.l ∧ s.launches.find a.l = some a.x ∧
      s.ctxs.find a.x.ctx = some a.c ∧ a.c.progs.find a.x.prog = some a.prog ∧ a.p.stopped = false ∧
      a.x.st = .running a.u ∧ (zdecode (a.prog.image.code.drop a.p.pc)).map (·.1) = some z := by
  revert h
  unfold State.site
  simp only
  cases hl : (s.pair i.unit.val).launch with
  | none => simp
  | some l =>
    simp only
    cases hx : s.launches.find l with
    | none => simp
    | some x =>
      simp only
      cases hc : s.ctxs.find x.ctx with
      | none => simp
      | some c =>
        simp only
        cases hg : c.progs.find x.prog with
        | none => simp
        | some g =>
          simp only
          intro h
          split at h
          · rename_i hb
            obtain rfl := Option.some.inj h
            simp only [Bool.and_eq_true, Bool.not_eq_true', beq_iff_eq] at hb
            exact ⟨rfl, rfl, hl, hx, hc, hg, hb.1.1, hb.1.2, hb.2⟩
          · exact absurd h (by simp)

/-- R132: where an instruction issues, it does what it does at its site. -/
theorem issue_of_issues {s : State} {i : Issue} {z : Instr} {a : Site} (h : s.issues i z a) (f : Site → State) :
    s.issue i z f = f a := by
  obtain ⟨h1, h2, h3⟩ := h
  unfold State.issue
  rw [h1]
  simp only [h2, Bool.false_eq_true, if_false]
  revert h3
  generalize s.sramRead a.die (a.u % 16) (istoreBase + a.word) (istoreBase + a.word) = r
  intro h3
  obtain ⟨t, e⟩ := r
  cases e with
  | none => rfl
  | some _ => exact absurd h3 (by simp)

/-- R132: while a register the instruction names is pending, nothing happens. -/
theorem issue_pending {s : State} {i : Issue} {z : Instr} {a : Site} (h : s.site i z = some a)
    (hp : (sUses z).any a.p.pend.contains = true) (f : Site → State) : s.issue i z f = s := by
  unfold State.issue
  rw [h]
  simp only [hp, if_true]

/-- The state a retirement hands to the instruction's own effect. -/
def State.moved (s : State) (a : Site) (tok : W64) (next : Nat) : State :=
  (s.advance a next).modPair a.u (fun p => { p with token := tok })

theorem retire_of_ok {s : State} {i : Issue} (h : i.upset = 0) (a : Site) (tok : W64) (next : Nat) (f : State → State) :
    s.retire a i tok next f = f (s.moved a tok next) := by
  unfold State.retire
  simp [h, State.moved]

/-- What holds after a retirement whose effect writes the bank of its pair and nothing else. -/
theorem retired_bank {s : State} {a : Site} (hp : a.p = s.pair a.u) (hx : s.launches.find a.l = some a.x) (tok : W64)
    (next : Nat) (b : Bank) :
    s.retired ((s.moved a tok next).modPair a.u (fun p => { p with bank := b })) a tok next b ∧
      s.pairsOnly ((s.moved a tok next).modPair a.u (fun p => { p with bank := b })) := by
  refine ⟨⟨?_, ?_, ?_, ?_⟩, rfl⟩
  · simp [State.moved, State.advance, State.modPair, State.modLaunch, State.pair, Tab.get, hp]
  · simp [State.moved, State.advance, State.modPair, State.modLaunch, Tab.find_upd_self, hx]
  · intro u hu
    simp [State.moved, State.advance, State.modPair, State.modLaunch, Tab.find_put_ne _ _ hu]
  · intro l hl
    simp [State.moved, State.advance, State.modPair, State.modLaunch, Tab.find_upd_ne _ _ hl]

/-- The same where the effect is none. -/
theorem retired_id {s : State} {a : Site} (hp : a.p = s.pair a.u) (hx : s.launches.find a.l = some a.x) (tok : W64)
    (next : Nat) :
    s.retired (s.moved a tok next) a tok next a.p.bank ∧ s.pairsOnly (s.moved a tok next) := by
  refine ⟨⟨?_, ?_, ?_, ?_⟩, rfl⟩
  · simp [State.moved, State.advance, State.modPair, State.modLaunch, State.pair, Tab.get, hp]
  · simp [State.moved, State.advance, State.modPair, State.modLaunch, Tab.find_upd_self, hx]
  · intro u hu
    simp [State.moved, State.advance, State.modPair, State.modLaunch, Tab.find_put_ne _ _ hu]
  · intro l hl
    simp [State.moved, State.advance, State.modPair, State.modLaunch, Tab.find_upd_ne _ _ hl]

end Sys2Proof.Machine
end

