-- ==== Sys2Proof/Laws/Lone.lean ====
section
/-! SUPPORT. An item alone in its queue: it starts at once, its effect runs in the state `State.begun`, and nothing else starts. -/
namespace Sys2Proof

theorem Tab.put_put {α : Type} (t : Tab α) (n : Nat) (v w : α) : (t.put n v).put n w = t.put n w := by
  induction t with
  | nil => simp [Tab.put]
  | cons e t ih =>
    obtain ⟨k, x⟩ := e
    by_cases h : k = n
    · simp [Tab.put, h]
    · by_cases h2 : n < k
      · simp [Tab.put, h, h2]
      · simp [Tab.put, h, h2, ih]

theorem Tab.upd_some {α : Type} {t : Tab α} {n : Nat} {v : α} (h : t.find n = some v) (f : α → α) :
    t.upd n f = t.put n (f v) := by
  simp [Tab.upd, h]

end Sys2Proof

namespace Sys2Proof.Machine

/-- No item of the queue waits to start. -/
def State.noWait (s : State) (q : Nat) : Prop :=
  ∀ qu, s.queues.find q = some qu → qu.items.find? (fun i => i.st == .waiting) = none

theorem pumpF_noWait {s : State} {q : Nat} (h : s.noWait q) (n : Nat) : s.pumpF q n = s := by
  cases n with
  | zero => rfl
  | succ n =>
    simp only [State.pumpF]
    cases hq : s.queues.find q with
    | none => rfl
    | some qu => simp only [h qu hq]

/-- The state in which a lone item waits. -/
def State.queued (s : State) (q : Nat) (h : Header) (b : ItemBody) (qu : Queue) : State :=
  { s with
    nextItem := s.nextItem + 1
    queues := s.queues.put q { qu with
      items := [{ id := s.nextItem, hdr := h, body := b }], head := (qu.head + headerUnits h) % 2 ^ (qu.tr.sqlog - 6) } }

theorem queued_begun (s : State) (q : Nat) (h : Header) (b : ItemBody) (qu : Queue) :
    { (s.queued q h b qu).modItem q s.nextItem (fun i => { i with
        st := .started, startedAt := s.clock.refc, attrs := some qu.attrs }) with
      gov := { s.gov with idleSince := none } } = s.begun q h b qu := by
  simp [State.queued, State.begun, State.modItem, State.modQueue, Tab.upd, Tab.put_put, State.loneItem]

theorem headerCode_queued (s : State) (q : Nat) (h : Header) (b : ItemBody) (qu : Queue) (x : Queue) (hp : x.part = qu.part)
    (hc : x.ctx = qu.ctx) (ha : x.attrs = qu.attrs) :
    (s.queued q h b qu).headerCode x h b = s.headerCode qu h b := by
  unfold State.headerCode State.semOf
  rw [hp, hc, ha]
  rfl

theorem begun_queue (s : State) (q : Nat) (h : Header) (b : ItemBody) (qu : Queue) :
    (s.begun q h b qu).queues.find q = some { qu with
      items := [s.loneItem h b qu], head := (qu.head + headerUnits h) % 2 ^ (qu.tr.sqlog - 6) } := by
  simp [State.begun]

/-- The deadline of a lone item has not come. -/
theorem late_lone {s t : State} {q : Nat} {h : Header} {b : ItemBody} {qu x : Queue} (hl : s.lone q h b qu)
    (hc : t.clock = s.clock) (i : QItem) (hi : i.hdr = h) : t.late x i = false := by
  obtain ⟨_, _, _, _, _, _, _, _, _, _, hd⟩ := hl
  unfold State.late
  rw [hi, hc]
  rcases hd with hd | hd
  · simp [hd]
  · simp only [Bool.and_eq_false_iff]
    right
    simpa using hd

/-- A lone item starts at once. -/
theorem startItem_lone {s : State} {q : Nat} {h : Header} {b : ItemBody} {qu : Queue} (hl : s.lone q h b qu) :
    (s.queued q h b qu).startItem q { id := s.nextItem, hdr := h, body := b } =
      ((s.begun q h b qu).effect q s.nextItem b).getD (s.begun q h b qu) := by
  have hq : (s.queued q h b qu).queues.find q = some { qu with
      items := [{ id := s.nextItem, hdr := h, body := b }], head := (qu.head + headerUnits h) % 2 ^ (qu.tr.sqlog - 6) } := by
    simp [State.queued]
  have hi : (s.begun q h b qu).item q s.nextItem = some (s.loneItem h b qu) := by
    simp [State.item, begun_queue, Queue.item, State.loneItem]
  have e := queued_begun s q h b qu
  unfold State.startItem
  rw [hq]
  have hlate (x : Queue) : (s.queued q h b qu).late x { id := s.nextItem, hdr := h, body := b } = false :=
    late_lone hl rfl _ rfl
  simp only [Option.map_some, Option.getD_some, hlate, Bool.false_and, Bool.false_eq_true, if_false]
  have hm (x : State) (hx : x = s.begun q h b qu) :
      (match x.item q s.nextItem with
      | none => x
      | some i =>
        if i.forced.isSome = true then x.doneItem q s.nextItem 0
        else if i.demoted = true then ((x.effect q s.nextItem b).getD x).demote q s.nextItem
          else (x.effect q s.nextItem b).getD x) = ((s.begun q h b qu).effect q s.nextItem b).getD (s.begun q h b qu) := by
    subst hx
    rw [hi]
    simp [State.loneItem]
  exact hm _ e

/-- What submitting a lone item does: its effect, begun in `State.begun`; where nothing then waits in the queue, that is all. -/
theorem submit_lone {s : State} {q : Nat} {h : Header} {b : ItemBody} {qu : Queue} (hl : s.lone q h b qu)
    (hr : s.replayHeld q b = false)
    (hn : (((s.begun q h b qu).effect q s.nextItem b).getD (s.begun q h b qu)).noWait q) :
    s.submit q h b = ((s.begun q h b qu).effect q s.nextItem b).getD (s.begun q h b qu) := by
  have hl' := hl
  obtain ⟨hq, hrun, hh, hi, hha, hdi, hw, hrec, hcode, hwait, hd⟩ := hl
  unfold State.submit
  rw [hq]
  simp only [hrun, hh, Bool.not_true, Bool.or_self, Bool.false_eq_true, if_false, hdi]
  have e : State.modQueue { s with nextItem := s.nextItem + 1 } q
      (fun x => { x with items := x.items ++ [{ id := s.nextItem, hdr := h, body := b }],
                         head := (qu.head + headerUnits h) % 2 ^ (qu.tr.sqlog - 6) }) = s.queued q h b qu := by
    simp [State.modQueue, State.queued, Tab.upd, hq, hi]
  rw [e]
  unfold State.pump
  obtain ⟨n, hn'⟩ : ∃ n, (200000 : Nat) = n + 1 := ⟨199999, rfl⟩
  rw [hn']
  simp only [State.pumpF]
  have hf : (s.queued q h b qu).queues.find q = some { qu with
      items := [{ id := s.nextItem, hdr := h, body := b }], head := (qu.head + headerUnits h) % 2 ^ (qu.tr.sqlog - 6) } := by
    simp [State.queued]
  rw [hf]
  simp only [List.find?]
  rw [show ((ItemSt.waiting == ItemSt.waiting) = true) from rfl]
  simp only
  have ht : (s.queued q h b qu).tryStart q { qu with
      items := [{ id := s.nextItem, hdr := h, body := b }], head := (qu.head + headerUnits h) % 2 ^ (qu.tr.sqlog - 6) }
      { id := s.nextItem, hdr := h, body := b } =
      some ((s.queued q h b qu).startItem q { id := s.nextItem, hdr := h, body := b }) := by
    unfold State.tryStart
    simp only [Option.isSome_none, Bool.or_false]
    have hc2 : (s.queued q h b qu).headerCode { qu with
        items := [{ id := s.nextItem, hdr := h, body := b }], head := (qu.head + headerUnits h) % 2 ^ (qu.tr.sqlog - 6) }
        h b = 0 := (headerCode_queued s q h b qu _ rfl rfl rfl).trans hcode
    have hclear : (if b.kind == .streaming then
        (List.takeWhile (fun i => i.id != s.nextItem) [({ id := s.nextItem, hdr := h, body := b } : QItem)]).all
          (fun i => i.body.kind == .streaming) else
        (List.takeWhile (fun i => i.id != s.nextItem) [({ id := s.nextItem, hdr := h, body := b } : QItem)]).isEmpty) = true := by
      simp [List.takeWhile]
    have hcase : qu.recording = none ∨ (∃ r, qu.recording = some r) ∧ b = .listEnd := by
      rcases hrec with hr | hb
      · exact .inl hr
      · cases hr : qu.recording with
        | none => exact .inl rfl
        | some r => exact .inr ⟨⟨r, rfl⟩, hb⟩
    have hrep : (s.queued q h b qu).replayHeld q b = false := hr
    rw [hc2, hha, hdi, hw, hclear]
    rcases hcase with hrc | ⟨⟨r, hrc⟩, rfl⟩
    all_goals
      rw [hrc]
      simp only [Bool.not_true, Bool.or_self, Bool.false_eq_true, if_false, List.isEmpty_nil, ne_eq,
        not_true_eq_false]
      cases hwv : h.wv with
      | false => simp [hrep]
      | true =>
        simp only [if_true]
        have hs (b : ItemBody) : (s.queued q h b qu).semOf qu.part h.wsem = s.semOf qu.part h.wsem := rfl
        rw [hs]
        have hex : (s.semOf qu.part h.wsem).isSome = true := by
          cases hx : s.semOf qu.part h.wsem with
          | some m => rfl
          | none =>
            unfold State.headerCode at hcode
            simp only [hwv, hx, Option.isNone_none, Bool.and_self, Bool.true_or, if_true] at hcode
            have no {p : Prop} [Decidable p] (h : (if p then 0x63 else 0x62) = 0) : False := by
              split at h <;> exact absurd h (by decide)
            exact (no hcode).elim
        obtain ⟨m, hm⟩ := Option.isSome_iff_exists.mp hex
        rw [hm]
        have hfind : s.sems.find h.wsem = some m := by
          unfold State.semOf at hm
          cases hx : s.sems.find h.wsem with
          | none => simp [hx] at hm
          | some k =>
            simp only [hx] at hm
            split at hm
            · exact hm
            · exact absurd hm (by simp)
        obtain ⟨h1, h2⟩ := hwait hwv m hfind
        have h1' : ¬ (m.value < h.wval) := by
          simpa using h1
        simp only [if_neg h1']
        cases hwf : h.wf with
        | false => simp [hrep]
        | true =>
          have := h2 hwf
          have h3 : ¬ (h.wval ≤ m.failed) := by simpa using this
          simp [h3, hrep]
  rw [ht, startItem_lone hl']
  exact pumpF_noWait hn _

/-! ### The end of a lone item -/

theorem natLe_length (n x : Nat) : (natLe n x).length = n := by
  induction n generalizing x with
  | zero => rfl
  | succ n ih => simp [natLe, ih]

/-- A write to a queue's rings stores nowhere but at its place. -/
theorem ringWrite_mem (s : State) (x : Queue) (b : Nat) (bs : List Byte) (a : Nat)
    (h : ∀ c cx, x.ctx = some c → s.ctxs.find c = some cx → ¬ cx.stores b bs.length a) :
    (s.ringWrite x b bs).mem.get a = s.mem.get a := by
  unfold State.ringWrite
  cases hc : x.ctx with
  | none => rfl
  | some c =>
    simp only
    cases hf : s.ctxs.find c with
    | none => rfl
    | some cx => exact ctxWrite_mem s cx b bs a (h c cx hc hf)

/-- The clauses of a record written. -/
theorem writeRecord_lone {s : State} {q : Nat} {x qu : Queue} (hx : s.queues.find q = some x) (ht : x.tr = qu.tr)
    (hc : x.ctx = qu.ctx) (hw : x.written = qu.written) (r : W32 × Nat × Nat × W64) :
    (∃ y, (s.writeRecord q r).queues.find q = some y ∧ y.items = x.items ∧ y.attrs = x.attrs ∧ y.halted = x.halted) ∧
    (∃ ms, (s.writeRecord q r).out = s.out ++ .completion q r.1 r.2.1 r.2.2.1 r.2.2.2 :: ms) ∧
    (s.writeRecord q r).sems = s.sems ∧
    (∀ a, ¬ s.recordStores qu a → (s.writeRecord q r).mem.get a = s.mem.get a) := by
  have upd (t : State) (f : Queue → Queue) (hq : t.queues = s.queues) (hi : ∀ z, (f z).items = z.items)
      (ha : ∀ z, (f z).attrs = z.attrs) (hh : ∀ z, (f z).halted = z.halted) :
      ∃ y, (t.modQueue q f).queues.find q = some y ∧ y.items = x.items ∧ y.attrs = x.attrs ∧ y.halted = x.halted := by
    refine ⟨f x, ?_, hi x, ha x, hh x⟩
    simp [State.modQueue, Tab.find_upd_self, hq, hx]
  unfold State.writeRecord
  rw [hx]
  simp only
  by_cases hq : (!x.tr.set) = true
  · rw [if_pos hq]
    exact ⟨upd _ _ rfl (fun _ => rfl) (fun _ => rfl) (fun _ => rfl), ⟨[], rfl⟩, rfl, fun _ _ => rfl⟩
  · rw [if_neg hq]
    generalize hrb : recordBytes r.1 r.2.1 r.2.2.1 r.2.2.2 = rb
    have lrb : rb.length = 16 := by subst hrb; simp [recordBytes, natLe_length]
    generalize hpb : natLe 4 (x.written + 1) ++ natLe 4 x.head = pb
    have lpb : pb.length = 8 := by subst hpb; simp [natLe_length]
    generalize hs1 : s.send (.completion q r.1 r.2.1 r.2.2.1 r.2.2.2) = s1
    have e1 : s1.queues = s.queues ∧ s1.sems = s.sems ∧ s1.ctxs = s.ctxs ∧ s1.mem = s.mem ∧
        s1.out = s.out ++ [.completion q r.1 r.2.1 r.2.2.1 r.2.2.2] := by subst hs1; exact ⟨rfl, rfl, rfl, rfl, rfl⟩
    obtain ⟨q1, m1, c1, g1, o1⟩ := e1
    have r2 := ends_ringWrite s1 x (x.tr.cqbase + 16 * (x.written % 2 ^ x.tr.cqlog)) rb
    have mem2 := ringWrite_mem s1 x (x.tr.cqbase + 16 * (x.written % 2 ^ x.tr.cqlog)) rb
    generalize hs2 : s1.ringWrite x (x.tr.cqbase + 16 * (x.written % 2 ^ x.tr.cqlog)) rb = s2 at r2 mem2 ⊢
    have e2 : s2.queues = s1.queues ∧ s2.sems = s1.sems ∧ s2.ctxs = s1.ctxs ∧ ∃ ms, s2.out = s1.out ++ ms := by
      obtain ⟨_, _, _, _, _, _, ms, rfl⟩ := r2
      exact ⟨rfl, rfl, rfl, ms, rfl⟩
    obtain ⟨q2, m2, c2, ns, o2⟩ := e2
    have r3 := ends_ringWrite s2 x x.tr.ptrs pb
    have mem3 := ringWrite_mem s2 x x.tr.ptrs pb
    generalize hs3 : s2.ringWrite x x.tr.ptrs pb = s3 at r3 mem3 ⊢
    have e3 : s3.queues = s2.queues ∧ s3.sems = s2.sems ∧ ∃ ms, s3.out = s2.out ++ ms := by
      obtain ⟨_, _, _, _, _, _, ms, rfl⟩ := r3
      exact ⟨rfl, rfl, ms, rfl⟩
    obtain ⟨q3, m3, ns3, o3⟩ := e3
    have outs : s3.out = s.out ++ .completion q r.1 r.2.1 r.2.2.1 r.2.2.2 :: (ns ++ ns3) := by
      rw [o3, o2, o1]; simp
    have mems (a : Nat) (h : ¬ s.recordStores qu a) : s3.mem.get a = s.mem.get a := by
      rw [mem3 a, mem2 a, g1]
      · intro c cx h1 h2 h3
        rw [c1] at h2
        rw [lrb] at h3
        exact h ⟨c, cx, hc ▸ h1, h2, .inl (ht ▸ hw ▸ h3)⟩
      · intro c cx h1 h2 h3
        rw [c2, c1] at h2
        rw [lpb] at h3
        exact h ⟨c, cx, hc ▸ h1, h2, .inr (ht ▸ h3)⟩
    have qs : s3.queues = s.queues := by rw [q3, q2, q1]
    have ss : s3.sems = s.sems := by rw [m3, m2, m1]
    by_cases hd : (x.tr.vec != 0 && decide (x.unsig + 1 ≥ x.tr.ccnt)) = true
    · rw [if_pos hd]
      refine ⟨upd s3 _ qs (fun _ => rfl) (fun _ => rfl) (fun _ => rfl), ⟨ns ++ ns3 ++ [.msix x.port x.tr.vec], ?_⟩, ss, mems⟩
      show s3.out ++ [_] = _
      rw [outs]; simp
    · rw [if_neg hd]
      exact ⟨upd s3 _ qs (fun _ => rfl) (fun _ => rfl) (fun _ => rfl), ⟨_, outs⟩, ss, mems⟩

/-- A lone item ends: what its end changes. -/
theorem finishItem_lone {s : State} {q hd : Nat} {it : QItem} {qu : Queue}
    (hx : s.queues.find q = some { qu with items := [it], head := hd }) (hw : qu.waitRecs = []) (hh : qu.halted = false)
    (hp : it.parent = none) (ha : it.attrsIn qu = qu.attrs) (hl : s.late { qu with items := [it], head := hd } it = false)
    (st code : Nat) (v : W64) :
    s.itemEnded (s.finishItem q it.id st code v) q it.hdr qu st code v := by
  have hitem : s.item q it.id = some it := by simp [State.item, hx, Queue.item]
  have hnote : s.noteLate q it.id = s := by
    unfold State.noteLate
    rw [hx]
    simp only
    split
    · rename_i i hi
      have : i = it := by
        simp only [Queue.item, List.find?, beq_self_eq_true] at hi
        exact (Option.some.inj hi).symm
      subst this
      rw [hl]
      rfl
    · rfl
  have hends := ends_endItem s q it.id st code v
  suffices h : s.itemEnded (s.endItem q it.id st code v) q it.hdr qu st code v by
    have h' := h
    obtain ⟨_, ⟨y, y1, y2, _⟩, _⟩ := h'
    have hend : (s.endItem q it.id st code v).endReplays q = s.endItem q it.id st code v := by
      unfold State.endReplays
      rw [y1]
      simp only [y2, List.find?_nil]
    unfold State.finishItem
    rw [hnote, hend]
    exact h
  refine ⟨hends, ?_⟩
  unfold State.endItem
  rw [hitem]
  simp only [hp]
  generalize hf : (fun x : Queue => { x with
      items := x.items.filter (fun i => i.id != it.id),
      halted := x.halted || ((st == 2 || st == 3 || st == 6 || st == 8) && (it.attrsIn x).fpol == 1) }) = f
  have hk : (s.keepHistory q it st).queues = s.queues ∧ (s.keepHistory q it st).sems = s.sems ∧
      (s.keepHistory q it st).mem = s.mem ∧ (s.keepHistory q it st).ctxs = s.ctxs ∧
      (s.keepHistory q it st).out = s.out := by
    unfold State.keepHistory
    rw [hx]
    simp only
    split <;> exact ⟨rfl, rfl, rfl, rfl, rfl⟩
  generalize s.keepHistory q it st = s1 at hk
  obtain ⟨q1, m1, g1, c1, o1⟩ := hk
  generalize hs2 : s1.modQueue q f = s2
  have q2 : s2.queues.find q = some (f { qu with items := [it], head := hd }) := by
    subst hs2; simp [State.modQueue, Tab.find_upd_self, q1, hx]
  have e2 : s2.sems = s.sems ∧ s2.mem = s.mem ∧ s2.ctxs = s.ctxs ∧ s2.out = s.out := by
    subst hs2; exact ⟨m1, g1, c1, o1⟩
  have hpart : (f { qu with items := [it], head := hd }).part = qu.part := by subst hf; rfl
  rw [q2]
  simp only [hpart]
  generalize hs3 : s2.signalEnd qu.part it.hdr st = s3
  have e3 : s3.queues = s2.queues ∧ s3.mem = s2.mem ∧ s3.ctxs = s2.ctxs ∧ s3.out = s2.out ∧
      (∀ k, (it.hdr.sv = true → k ≠ it.hdr.ssem) → s3.sems.find k = s2.sems.find k) ∧
      (it.hdr.sv = true → s3.sems.find it.hdr.ssem =
        (s2.sems.find it.hdr.ssem).map (fun k => if k.part = qu.part then k.raise it.hdr.sval (!completed st) else k)) := by
    subst hs3
    unfold State.signalEnd
    cases hsv : it.hdr.sv with
    | false => exact ⟨rfl, rfl, rfl, rfl, fun _ _ => rfl, fun h => absurd h (by decide)⟩
    | true =>
      simp only [if_true]
      exact ⟨rfl, rfl, rfl, rfl, fun k hk => Tab.find_upd_ne _ _ (hk trivial),
        fun _ => (Tab.find_upd_self _ _ _).trans (by simp only [beq_iff_eq])⟩
  obtain ⟨q3, g3, c3, o3, k3, k3'⟩ := e3
  obtain ⟨m2, g2, c2, o2⟩ := e2
  rw [m2] at k3 k3'
  have hfi : (f { qu with items := [it], head := hd }).items = [] := by subst hf; simp
  have hfa : (f { qu with items := [it], head := hd }).attrs = qu.attrs := by subst hf; rfl
  have hfh : (f { qu with items := [it], head := hd }).halted =
      ((st == 2 || st == 3 || st == 6 || st == 8) && qu.attrs.fpol == 1) := by
    subst hf
    show (qu.halted || (_ && (it.attrsIn qu).fpol == 1)) = _
    rw [hh, ha, Bool.false_or]
  have hft : (f { qu with items := [it], head := hd }).tr = qu.tr := by subst hf; rfl
  have hfc : (f { qu with items := [it], head := hd }).ctx = qu.ctx := by subst hf; rfl
  have hfw : (f { qu with items := [it], head := hd }).written = qu.written := by subst hf; rfl
  have hfr : (f { qu with items := [it], head := hd }).waitRecs = [] := by subst hf; exact hw
  have hfo : (f { qu with items := [it], head := hd }).roomy = qu.roomy := by subst hf; rfl
  generalize f { qu with items := [it], head := hd } = x at *
  have q4 : s3.queues.find q = some x := by rw [q3, q2]
  have stores (a : Nat) : s3.recordStores qu a ↔ s.recordStores qu a := by
    unfold State.recordStores; rw [c3, c2]
  -- the record
  have hrec : (∃ y, (s3.record q (it.hdr.tag, st, code, v)).queues.find q = some y ∧ y.items = [] ∧ y.attrs = qu.attrs ∧
        y.halted = x.halted) ∧
      (qu.roomy = true → ∃ ms, (s3.record q (it.hdr.tag, st, code, v)).out = s.out ++ .completion q it.hdr.tag st code v :: ms) ∧
      (s3.record q (it.hdr.tag, st, code, v)).sems = s3.sems ∧
      (∀ a, ¬ s.recordStores qu a → (s3.record q (it.hdr.tag, st, code, v)).mem.get a = s.mem.get a) := by
    unfold State.record
    rw [q4]
    simp only [hfr, List.isEmpty_nil, Bool.and_true, hfo]
    cases hr : qu.roomy with
    | true =>
      simp only [if_true]
      obtain ⟨⟨y, y1, y2, y3, y4⟩, ⟨ms, o⟩, e, g⟩ := writeRecord_lone (qu := qu) q4 hft hfc hfw (it.hdr.tag, st, code, v)
      refine ⟨⟨y, y1, by rw [y2, hfi], by rw [y3, hfa], y4⟩, fun _ => ⟨ms, by rw [o, o3, o2]⟩, e, fun a ha => ?_⟩
      rw [g a (fun h => ha ((stores a).mp h)), g3, g2]
    | false =>
      simp only [Bool.false_eq_true, if_false]
      refine ⟨⟨{ x with waitRecs := x.waitRecs ++ [(it.hdr.tag, st, code, v)] }, ?_, hfi, hfa, rfl⟩,
        fun h => absurd h (by decide), rfl, fun a _ => ?_⟩
      · simp [State.modQueue, Tab.find_upd_self, q4, hfr]
      · show s3.mem.get a = _
        rw [g3, g2]
  obtain ⟨⟨y, y1, y2, y3, y4⟩, o, e, g⟩ := hrec
  generalize s3.record q (it.hdr.tag, st, code, v) = t at *
  refine ⟨⟨y, y1, y2, y3, by rw [y4, hfh]⟩, o, fun k hk => ?_, fun h => ?_, g⟩
  · rw [e, k3 k hk]
  · rw [e, k3' h]

/-- What a state differs in from one with an item's effect before the item began. -/
theorem itemEnded_of {u s t : State} {q : Nat} {h : Header} {qu : Queue} {st code : Nat} {v : W64} (he : Ends q u s)
    (ho : s.out = u.out) (hs : s.sems = u.sems) (hm : s.mem = u.mem) (hc : s.ctxs = u.ctxs)
    (ht : s.itemEnded t q h qu st code v) : u.itemEnded t q h qu st code v := by
  obtain ⟨h1, h2, h3, h4, h5, h6⟩ := ht
  refine ⟨he.trans h1, h2, ?_, ?_, ?_, ?_⟩
  · rw [← ho]; exact h3
  · rw [← hs]; exact h4
  · rw [← hs]; exact h5
  · intro a ha
    rw [← hm]
    exact h6 a (fun k => ha (by unfold State.recordStores at k ⊢; rw [hc] at k; exact k))

theorem itemEnded_noWait {u t : State} {q : Nat} {h : Header} {qu : Queue} {st code : Nat} {v : W64}
    (ht : u.itemEnded t q h qu st code v) : t.noWait q := by
  obtain ⟨_, ⟨x, hx, hi, _⟩, _⟩ := ht
  intro y hy
  rw [hx] at hy
  obtain rfl := Option.some.inj hy
  simp [hi]

/-- A lone item whose effect is to end, with any status. -/
theorem submit_finish {s w : State} {q : Nat} {h : Header} {b : ItemBody} {qu : Queue} {st code : Nat} {v : W64}
    (hl : s.lone q h b qu) (hr : s.replayHeld q b = false) (hc : w.clock = s.clock)
    (he : (s.begun q h b qu).effect q s.nextItem b = some (w.finishItem q s.nextItem st code v))
    (hq : w.queues.find q = (s.begun q h b qu).queues.find q) :
    w.itemEnded (s.submit q h b) q h qu st code v := by
  rw [begun_queue] at hq
  have hl' := hl
  obtain ⟨_, _, _, _, hha, _, hw, _⟩ := hl'
  have ht := finishItem_lone hq hw hha (it := s.loneItem h b qu) rfl rfl (late_lone hl hc _ rfl) st code v
  rw [submit_lone hl hr (by rw [he]; exact itemEnded_noWait ht), he]
  exact ht

/-- A lone item whose effect is to be done. -/
theorem submit_done {s w : State} {q : Nat} {h : Header} {b : ItemBody} {qu : Queue} {v : W64}
    (hl : s.lone q h b qu) (hr : s.replayHeld q b = false) (hc : w.clock = s.clock)
    (he : (s.begun q h b qu).effect q s.nextItem b = some (w.doneItem q s.nextItem v))
    (hq : w.queues.find q = (s.begun q h b qu).queues.find q) :
    w.itemEnded (s.submit q h b) q h qu 0 0 v := by
  apply submit_finish hl hr hc _ hq
  rw [he]
  rw [begun_queue] at hq
  have hlate (x : Queue) : w.late x (s.loneItem h b qu) = false := late_lone hl hc _ rfl
  have hd (x : Queue) : w.doneStatus x (s.loneItem h b qu) = 0 := by
    unfold State.doneStatus
    rw [hlate]
    rfl
  unfold State.doneItem
  rw [hq]
  have hi : Queue.item { qu with items := [s.loneItem h b qu], head := (qu.head + headerUnits h) % 2 ^ (qu.tr.sqlog - 6) }
      s.nextItem = some (s.loneItem h b qu) := by
    simp [Queue.item, State.loneItem]
  simp only [hi, hd]
  rfl

end Sys2Proof.Machine
end

