-- ==== Sys2Proof/Laws/PerInstr.lean ====
section
/-! SUPPORT. A statement about every command as syntax: which commands are Zuhan instructions, and that the pair an instruction
issues on is no part of its words (06 R152: an image holds words, and no field of Tables 6.2 to 6.17 names a pair). -/
namespace Sys2Proof.Laws.Issue
open Sys2Proof

/-- A Zuhan instruction has the words and the well-formedness of the instruction an image holds, whatever pair it issues on; any
other command has no words. -/
def Statement (i : Instr) : Prop :=
  match i.issue? with
  | some (_, z) => zencode z = zencode i ∧ z.wf = i.wf
  | none => zencode i = none

theorem ialu (i : Issue) (rd : Fin 32) (ra rb : Src) (fn : IaluFn) : Statement (.ialu i rd ra rb fn) := ⟨rfl, rfl⟩
theorem falu (i : Issue) (rd : Fin 32) (ra rb : Src) (fn : FaluFn) : Statement (.falu i rd ra rb fn) := ⟨rfl, rfl⟩
theorem addi (i : Issue) (rd : Fin 32) (ra : Src) (imm : BitVec 12) : Statement (.addi i rd ra imm) := ⟨rfl, rfl⟩
theorem andi (i : Issue) (rd : Fin 32) (ra : Src) (imm : BitVec 12) : Statement (.andi i rd ra imm) := ⟨rfl, rfl⟩
theorem ori (i : Issue) (rd : Fin 32) (ra : Src) (imm : BitVec 12) : Statement (.ori i rd ra imm) := ⟨rfl, rfl⟩
theorem xori (i : Issue) (rd : Fin 32) (ra : Src) (imm : BitVec 12) : Statement (.xori i rd ra imm) := ⟨rfl, rfl⟩
theorem shli (i : Issue) (rd : Fin 32) (ra : Src) (sh : BitVec 6) : Statement (.shli i rd ra sh) := ⟨rfl, rfl⟩
theorem shri (i : Issue) (rd : Fin 32) (ra : Src) (sh : BitVec 6) : Statement (.shri i rd ra sh) := ⟨rfl, rfl⟩
theorem srai (i : Issue) (rd : Fin 32) (ra : Src) (sh : BitVec 6) : Statement (.srai i rd ra sh) := ⟨rfl, rfl⟩
theorem slti (i : Issue) (rd : Fin 32) (ra : Src) (imm : BitVec 12) : Statement (.slti i rd ra imm) := ⟨rfl, rfl⟩
theorem movz (i : Issue) (rd : Fin 32) (hw : Fin 4) (imm : W16) : Statement (.movz i rd hw imm) := ⟨rfl, rfl⟩
theorem movk (i : Issue) (rd : Fin 32) (hw : Fin 4) (imm : W16) : Statement (.movk i rd hw imm) := ⟨rfl, rfl⟩
theorem br (i : Issue) (cond : BrCond) (ra : Fin 32) (tgt : BitVec 15) : Statement (.br i cond ra tgt) := ⟨rfl, rfl⟩
theorem loop (i : Issue) (sc : Fin 32) (bound : LoopBound) (off : BitVec 11) : Statement (.loop i sc bound off) := ⟨rfl, rfl⟩
theorem endL (i : Issue) : Statement (.endL i) := ⟨rfl, rfl⟩
theorem part (i : Issue) : Statement (.part i) := ⟨rfl, rfl⟩
theorem signal (i : Issue) (kind : SyncKind) (so sv : Fin 32) (sc : Option (Fin 32)) : Statement (.signal i kind so sv sc) := ⟨rfl, rfl⟩
theorem waitfor (i : Issue) (kind : SyncKind) (so sv : Fin 32) : Statement (.waitfor i kind so sv) := ⟨rfl, rfl⟩
theorem ltld (i : Issue) (ln : Fin 16) (src : LtSrc) : Statement (.ltld i ln src) := ⟨rfl, rfl⟩
theorem tstat (i : Issue) (sd sh : Fin 32) (clr : Bool) : Statement (.tstat i sd sh clr) := ⟨rfl, rfl⟩
theorem vfalu (i : Issue) (vd va vb : Fin 32) (pred : Option (Fin 8)) (fn : VfaluFn) : Statement (.vfalu i vd va vb pred fn) := ⟨rfl, rfl⟩
theorem vialu (i : Issue) (vd va vb : Fin 32) (pred : Option (Fin 8)) (fn : VialuFn) : Statement (.vialu i vd va vb pred fn) := ⟨rfl, rfl⟩
theorem vcmp (i : Issue) (qd : Fin 8) (va vb : Fin 32) (pred : Option (Fin 8)) (fn : VcmpFn) : Statement (.vcmp i qd va vb pred fn) := ⟨rfl, rfl⟩
theorem vsel (i : Issue) (vd va vb : Fin 32) (q : Fin 8) : Statement (.vsel i vd va vb q) := ⟨rfl, rfl⟩
theorem vbcast (i : Issue) (vd : Fin 32) (ra : Src) : Statement (.vbcast i vd ra) := ⟨rfl, rfl⟩
theorem vextr (i : Issue) (sd : Fin 32) (va : Fin 32) (lane : Fin 512) : Statement (.vextr i sd va lane) := ⟨rfl, rfl⟩
theorem vidx (i : Issue) (vd : Fin 32) : Statement (.vidx i vd) := ⟨rfl, rfl⟩
theorem vred (i : Issue) (sd : Fin 32) (va : Fin 32) (pred : Option (Fin 8)) (fn : VredFn) : Statement (.vred i sd va pred fn) := ⟨rfl, rfl⟩
theorem vld (i : Issue) (vd : Fin 32) (sa : Fin 32) (et : BitVec 4) (rl : Bool) : Statement (.vld i vd sa et rl) := ⟨rfl, rfl⟩
theorem vst (i : Issue) (va sa vb : Fin 32) (et : BitVec 4) (rm : BitVec 2) (ovf mk : Bool) : Statement (.vst i va sa vb et rm ovf mk) := ⟨rfl, rfl⟩
theorem vrand (i : Issue) (vd va sk sn : Fin 32) (w : Fin 4) : Statement (.vrand i vd va sk sn w) := ⟨rfl, rfl⟩
theorem vrandj (i : Issue) (vd : Fin 32) : Statement (.vrandj i vd) := ⟨rfl, rfl⟩
theorem qop (i : Issue) (qd qa qb : Fin 8) (fn : QopFn) : Statement (.qop i qd qa qb fn) := ⟨rfl, rfl⟩
theorem mpass (i : Issue) (f : MpassF) : Statement (.mpass i f) := ⟨rfl, rfl⟩
theorem mpreload (i : Issue) (ax : Bool) (slot : BitVec 9) (rel : Bool) : Statement (.mpreload i ax slot rel) := ⟨rfl, rfl⟩
theorem mdrain (i : Issue) (ax : Bool) (slot : BitVec 9) (fent : Byte) (sd : Fin 32) : Statement (.mdrain i ax slot fent sd) := ⟨rfl, rfl⟩
theorem tmove (i : Issue) (f : TmoveF) : Statement (.tmove i f) := ⟨rfl, rfl⟩
theorem tgather (i : Issue) (hd hs hi : Fin 32) (axis : Fin 8) (sc : Fin 32) : Statement (.tgather i hd hs hi axis sc) := ⟨rfl, rfl⟩
theorem tscatter (i : Issue) (hd hs hi : Fin 32) (axis : Fin 8) (sc : Fin 32) (sop : ScatterOp) : Statement (.tscatter i hd hs hi axis sc sop) := ⟨rfl, rfl⟩
theorem moveComplete (m : Nat) (up : Upset) : Statement (.moveComplete m up) := rfl
theorem passIssue (u : Fin 64) : Statement (.passIssue u) := rfl
theorem passBoundary (u : Fin 64) (ups : List CellUpset) : Statement (.passBoundary u ups) := rfl
theorem preloadFill (u : Fin 64) : Statement (.preloadFill u) := rfl
theorem tileCheck (u : Fin 64) : Statement (.tileCheck u) := rfl
theorem finishingRun (u : Fin 64) (upset : W64) : Statement (.finishingRun u upset) := rfl
theorem roughingRun (u : Fin 64) (upset : W64) : Statement (.roughingRun u upset) := rfl
theorem closingPass (u : Fin 64) (upset : W64) : Statement (.closingPass u upset) := rfl
theorem sequencerSelfTest (u : Fin 64) (passed : Bool) : Statement (.sequencerSelfTest u passed) := rfl
theorem stallMonitor (die block : Nat) (chan : Request) : Statement (.stallMonitor die block chan) := rfl
theorem dispatch (d : Fin 4) (temps : List Int) : Statement (.dispatch d temps) := rfl
theorem urgentPromotion (l : Nat) : Statement (.urgentPromotion l) := rfl
theorem batchMemberArrival (q : Nat) (member : BatchMember) (rows : BatchRows) : Statement (.batchMemberArrival q member rows) := rfl
theorem gatePulse (rest : Nat) (reports : List (Option DieReport)) : Statement (.gatePulse rest reports) := rfl
theorem ladderDescend : Statement .ladderDescend := rfl
theorem ladderWake (why : Wake) : Statement (.ladderWake why) := rfl
theorem scrubBurstWake : Statement .scrubBurstWake := rfl
theorem l4Exit (stages : List (List Byte)) : Statement (.l4Exit stages) := rfl
theorem itemStart (q : Nat) (raw : Option (List Byte)) : Statement (.itemStart q raw) := rfl
theorem deadlineMiss (q : Nat) (item : Nat) : Statement (.deadlineMiss q item) := rfl
theorem launch (q : Nat) (h : Header) (p : LaunchPl) : Statement (.launch q h p) := rfl
theorem replay (q : Nat) (h : Header) (list : Nat) (patch : Option Patch) : Statement (.replay q h list patch) := rfl
theorem listBegin (q : Nat) (h : Header) : Statement (.listBegin q h) := rfl
theorem listEnd (q : Nat) (h : Header) : Statement (.listEnd q h) := rfl
theorem spindleRun (q : Nat) (h : Header) (rec : BitVec 512) : Statement (.spindleRun q h rec) := rfl
theorem spindleRow (d : Met (Fin 4)) : Statement (.spindleRow d) := rfl
theorem nop (q : Nat) (h : Header) : Statement (.nop q h) := rfl
theorem descCreate (q : Nat) (h : Header) (image : BitVec 1024) : Statement (.descCreate q h image) := rfl
theorem descDestroy (q : Nat) (h : Header) (d : Nat) : Statement (.descDestroy q h d) := rfl
theorem descStatus (q : Nat) (h : Header) (d : Nat) (clear : Bool) : Statement (.descStatus q h d clear) := rfl
theorem load (q : Nat) (h : Header) (im : Image) : Statement (.load q h im) := rfl
theorem unload (q : Nat) (h : Header) (p : Nat) : Statement (.unload q h p) := rfl
theorem kvOpen (q : Nat) (h : Header) (p : KvOpenPl) : Statement (.kvOpen q h p) := rfl
theorem kvExtend (q : Nat) (h : Header) (r oldlen newlen : Nat) (entries repl : List (W64 × W64)) : Statement (.kvExtend q h r oldlen newlen entries repl) := rfl
theorem kvMatch (q : Nat) (h : Header) (r tokens count : Nat) : Statement (.kvMatch q h r tokens count) := rfl
theorem kvPublish (q : Nat) (h : Header) (r tokens : Nat) : Statement (.kvPublish q h r tokens) := rfl
theorem kvClose (q : Nat) (h : Header) (r : Nat) : Statement (.kvClose q h r) := rfl
theorem kvRelease (r : Nat) : Statement (.kvRelease r) := rfl
theorem skimBegin (q : Nat) (h : Header) (base adj : List Byte) : Statement (.skimBegin q h base adj) := rfl
theorem skimRec (q : Nat) (h : Header) (image : BitVec 256) : Statement (.skimRec q h image) := rfl
theorem skimStep (q : Nat) (h : Header) (slot : Nat) : Statement (.skimStep q h slot) := rfl
theorem skimQuery (q : Nat) (h : Header) (r : Nat) : Statement (.skimQuery q h r) := rfl
theorem skimEnd (q : Nat) (h : Header) (slot : Nat) : Statement (.skimEnd q h slot) := rfl
theorem rngSeed (q : Nat) (h : Header) (slot : Nat) (value : BitVec 96) (rsv : Nat) : Statement (.rngSeed q h slot value rsv) := rfl
theorem rngJump (q : Nat) (h : Header) (slot : Nat) (stream : W32) (mask : W64) (rsv : Nat) : Statement (.rngJump q h slot stream mask rsv) := rfl
theorem ctxCreate (q : Nat) (h : Header) (fsr : List Nat) (slices : List W16) : Statement (.ctxCreate q h fsr slices) := rfl
theorem ctxDestroy (q : Nat) (h : Header) (c : Nat) : Statement (.ctxDestroy q h c) := rfl
theorem ctxSave (q : Nat) (h : Header) (c alloc : Nat) : Statement (.ctxSave q h c alloc) := rfl
theorem ctxRestore (q : Nat) (h : Header) (alloc allocCtx : Nat) : Statement (.ctxRestore q h alloc allocCtx) := rfl
theorem ctxDisable (q : Nat) (h : Header) (c fence : Nat) (value : W64) : Statement (.ctxDisable q h c fence value) := rfl
theorem qCreate (q : Nat) (h : Header) (c : Nat) (a : QAttrs) (t : Transport) : Statement (.qCreate q h c a t) := rfl
theorem qSet (q : Nat) (h : Header) (target : Nat) (a : QAttrs) (clearHalt : Bool) : Statement (.qSet q h target a clearHalt) := rfl
theorem qDisable (q : Nat) (h : Header) (target fence : Nat) (value : W64) : Statement (.qDisable q h target fence value) := rfl
theorem qDestroy (q : Nat) (h : Header) (target : Nat) : Statement (.qDestroy q h target) := rfl
theorem memAlloc (q : Nat) (h : Header) (c va size page : Nat) (kind : AllocKind) (wr : Bool) : Statement (.memAlloc q h c va size page kind wr) := rfl
theorem memFree (q : Nat) (h : Header) (c alloc : Nat) : Statement (.memFree q h c alloc) := rfl
theorem semCreate (q : Nat) (h : Header) (v : W64) : Statement (.semCreate q h v) := rfl
theorem semDestroy (q : Nat) (h : Header) (k : Nat) : Statement (.semDestroy q h k) := rfl
theorem disableComplete (n : Nat) : Statement (.disableComplete n) := rfl
theorem disableTimeout (n : Nat) : Statement (.disableTimeout n) := rfl
theorem codecOpen (q : Nat) (h : Header) (rec : BitVec 512) (pool : List (W64 × W64)) : Statement (.codecOpen q h rec pool) := rfl
theorem codecFrame (q : Nat) (h : Header) (p : BitVec 512) : Statement (.codecFrame q h p) := rfl
theorem codecRelease (q : Nat) (h : Header) (s : Nat) (mask : W16) : Statement (.codecRelease q h s mask) := rfl
theorem codecClose (q : Nat) (h : Header) (s : Nat) : Statement (.codecClose q h s) := rfl
theorem frameSchedule (e : Fin 4) : Statement (.frameSchedule e) := rfl
theorem frameEnd (e : Met (Fin 4)) : Statement (.frameEnd e) := rfl
theorem decodeTimeBound (e : Fin 4) (rows : Nat) : Statement (.decodeTimeBound e rows) := rfl
theorem doorbell (port : Fin 8) (off : Nat) (len : Nat) (val : W64) : Statement (.doorbell port off len val) := rfl
theorem interruptDelay (q : Nat) : Statement (.interruptDelay q) := rfl
theorem hostMemRead (port : Fin 8) (hpa : Met Nat) : Statement (.hostMemRead port hpa) := rfl
theorem hostMemWrite (port : Fin 8) (hpa : Met Nat) (data : List (Option Byte)) : Statement (.hostMemWrite port hpa data) := rfl
theorem snoop (port : Fin 8) (addr : Nat) : Statement (.snoop port addr) := rfl
theorem hdmDecoderCommit (port : Fin 8) (n : Fin 2) (base size skip ways : Nat) : Statement (.hdmDecoderCommit port n base size skip ways) := rfl
theorem dictRead (port : Fin 8) (a : Access) : Statement (.dictRead port a) := rfl
theorem dictWrite (port : Fin 8) (a : Access) : Statement (.dictWrite port a) := rfl
theorem dictWriteAuth (port : Fin 8) (a : AuthCmd) : Statement (.dictWriteAuth port a) := rfl
theorem control (port : Fin 8) (a : AuthCmd) : Statement (.control port a) := rfl
theorem adminSetup (port : Fin 8) (t : Transport) : Statement (.adminSetup port t) := rfl
theorem eventSetup (port : Fin 8) (base : W64) (log2n : Nat) (ptr : W64) (vec : Nat) : Statement (.eventSetup port base log2n ptr vec) := rfl
theorem biasSet (port : Fin 8) (first count : Nat) (toHost : Bool) : Statement (.biasSet port first count toHost) := rfl
theorem portQuiesce (port : Fin 8) : Statement (.portQuiesce port) := rfl
theorem surpriseLoss (port : Fin 8) (why : LossWhy) : Statement (.surpriseLoss port why) := rfl
theorem recoveryTimeout (port : Fin 8) : Statement (.recoveryTimeout port) := rfl
theorem hotReset (port : Fin 8) : Statement (.hotReset port) := rfl
theorem functionLevelReset (port : Fin 8) : Statement (.functionLevelReset port) := rfl
theorem getIdentity (port : Fin 8) : Statement (.getIdentity port) := rfl
theorem attest (port : Fin 8) (nonce : List Byte) : Statement (.attest port nonce) := rfl
theorem sessionOpen (port : Fin 8) (ctrl : Nat) (ct : List Byte) (nonce : List Byte) : Statement (.sessionOpen port ctrl ct nonce) := rfl
theorem sessionFinish (port : Fin 8) (mac : List Byte) : Statement (.sessionFinish port mac) := rfl
theorem secured (port : Fin 8) (seq : W64) (ct tag : List Byte) : Statement (.secured port seq ct tag) := rfl
theorem sessionClose (port : Fin 8) : Statement (.sessionClose port) := rfl
theorem enum (f : Frame) : Statement (.enum f) := rfl
theorem cycle (f : Frame) : Statement (.cycle f) := rfl
theorem cycleTimeout : Statement .cycleTimeout := rfl
theorem read (f : Frame) : Statement (.read f) := rfl
theorem write (f : Frame) : Statement (.write f) := rfl
theorem writeAuth (f : Frame) : Statement (.writeAuth f) := rfl
theorem sweep (f : Frame) : Statement (.sweep f) := rfl
theorem event (f : Frame) : Statement (.event f) := rfl
theorem objectWrite : Statement .objectWrite := rfl
theorem claim : Statement .claim := rfl
theorem releaseTo : Statement .releaseTo := rfl
theorem heartbeat : Statement .heartbeat := rfl
theorem activate : Statement .activate := rfl
theorem stageClear : Statement .stageClear := rfl
theorem activationDone : Statement .activationDone := rfl
theorem sliceMaskChange (d : Fin 4) : Statement (.sliceMaskChange d) := rfl
theorem leaseExpiry : Statement .leaseExpiry := rfl
theorem claimLapse (c : Fin 9) : Statement (.claimLapse c) := rfl
theorem lockoutExpiry (c : Fin 9) : Statement (.lockoutExpiry c) := rfl
theorem preferredOwnerWindowEnd : Statement .preferredOwnerWindowEnd := rfl
theorem dictionaryWrite (c : Fin 9) (a : Access) : Statement (.dictionaryWrite c a) := rfl
theorem firmwareUpdateWrite (c : Fin 9) : Statement (.firmwareUpdateWrite c) := rfl
theorem firmwareUpdateVerify (c : Fin 9) : Statement (.firmwareUpdateVerify c) := rfl
theorem updateComplete (flashOk : Bool) : Statement (.updateComplete flashOk) := rfl
theorem moduleResetRequest (c : Fin 9) : Statement (.moduleResetRequest c) := rfl
theorem moduleReset : Statement .moduleReset := rfl
theorem logClear (c : Fin 9) : Statement (.logClear c) := rfl
theorem ladderRequest (c : Fin 9) : Statement (.ladderRequest c) := rfl
theorem ownerKeyEnrolment (c : Fin 9) (pkg : List Byte) : Statement (.ownerKeyEnrolment c pkg) := rfl
theorem commandKeyEnrolment (c : Fin 9) (pkg : List Byte) : Statement (.commandKeyEnrolment c pkg) := rfl
theorem attestationNonce (c : Fin 9) (nonce : List Byte) : Statement (.attestationNonce c nonce) := rfl
theorem bringUpMode (c : Fin 9) (mode : Nat) : Statement (.bringUpMode c mode) := rfl
theorem memorySelfTest (c : Fin 9) (stack : Nat) (arg : Nat) : Statement (.memorySelfTest c stack arg) := rfl
theorem softRepair (c : Fin 9) (stack : Nat) (arg : Nat) : Statement (.softRepair c stack arg) := rfl
theorem hardRepair (c : Fin 9) (stack : Nat) (arg : Nat) : Statement (.hardRepair c stack arg) := rfl
theorem fullTraining (c : Fin 9) (stack : Nat) (arg : Nat) : Statement (.fullTraining c stack arg) := rfl
theorem stackActionDone (outcome : Nat) (count : Nat) (entries : List W64) : Statement (.stackActionDone outcome count entries) := rfl
theorem proposedRepairWrite (c : Fin 9) (u : Fin 64) (word : W32) : Statement (.proposedRepairWrite c u word) := rfl
theorem marginSweep (c : Fin 9) (arg : W64) (points : List (Nat × Nat)) (held : Bool) : Statement (.marginSweep c arg points held) := rfl
theorem buildBundle (c : Fin 9) : Statement (.buildBundle c) := rfl
theorem coldStart (r : ColdReport) : Statement (.coldStart r) := rfl
theorem trialBankTimeout : Statement .trialBankTimeout := rfl
theorem inputLoss : Statement .inputLoss := rfl
theorem watchdogExpiry : Statement .watchdogExpiry := rfl
theorem watchdogRestart : Statement .watchdogRestart := rfl
theorem moduleStop (die block cause : Nat) : Statement (.moduleStop die block cause) := rfl
theorem hbmPatrolRead (stack : Nat) (sev : Severity) : Statement (.hbmPatrolRead stack sev) := rfl
theorem sramScrubRead (die block word : Nat) (mask : BitVec 39) (raced : Bool) : Statement (.sramScrubRead die block word mask raced) := rfl
theorem bankRefresh (stack pc : Nat) : Statement (.bankRefresh stack pc) := rfl
theorem stackTemperatureRead (stack : Nat) (temp : Int) : Statement (.stackTemperatureRead stack temp) := rfl
theorem writeBatch (stack pc : Nat) : Statement (.writeBatch stack pc) := rfl
theorem correctionRateSecond (die : Nat) : Statement (.correctionRateSecond die) := rfl
theorem linkUp (port : Fin 8) (width rate : Nat) (cxl : Bool) : Statement (.linkUp port width rate cxl) := rfl
theorem plannedLinkDown (port : Fin 8) : Statement (.plannedLinkDown port) := rfl
theorem environmentalReading (r : EnvReading) : Statement (.environmentalReading r) := rfl
theorem bundleBuilt (flashOk : Bool) : Statement (.bundleBuilt flashOk) := rfl
theorem otherTypeFrame (type : Byte) (f : Frame) : Statement (.otherTypeFrame type f) := rfl

end Sys2Proof.Laws.Issue
end

