-- ==== Sys2Proof/Laws/Reads.lean ====
section
/-! SUPPORT. Reads of device memory past the last listed cell: every byte is 0. -/
namespace Sys2Proof.Machine
open Sys2Proof

theorem spans_ge (f : Nat) : ∀ a n, ∀ e ∈ spansF f a n, a ≤ e.1 := by
  induction f with
  | zero => intro a n e h; simp [spansF] at h
  | succ f ih =>
    intro a n e h
    unfold spansF at h
    split at h
    · simp at h
    · rcases List.mem_cons.mp h with h | h
      · subst h; exact Nat.le_refl _
      · exact Nat.le_trans (Nat.le_add_right _ _) (ih _ _ e h)

/-- Past the last listed cell of a memory without regions of undefined contents, every byte reads 0. -/
theorem read_past (m : Mem) (hj : m.junk = []) : ∀ n a, (∀ c ∈ m.cells, c.1 < a) → ∀ b ∈ m.read a n, b = 0 := by
  intro n
  induction n with
  | zero => intro a _ b hb; simp [Mem.read] at hb
  | succ n ih =>
    intro a ha b hb
    rcases List.mem_cons.mp hb with h | h
    · subst h
      simp only [Mem.get, cellAt_none_of_above a m.cells (fun c hc => Nat.ne_of_lt (ha c hc)), Mem.unlisted, hj, List.find?_nil]
    · exact ih (a + 1) (fun c hc => Nat.lt_succ_of_lt (ha c hc)) b h

theorem devReadF_past (unit : Bool) : ∀ (ps : List (Nat × Nat)) (s : State), s.mem.junk = [] →
    (∀ p ∈ ps, ∀ c ∈ s.mem.cells, c.1 < p.1) → ∀ b ∈ (s.devReadF unit ps).2.2, b = 0 := by
  intro ps
  induction ps with
  | nil => intro s _ _ b hb; simp [State.devReadF] at hb
  | cons p t ih =>
    obtain ⟨a, n⟩ := p
    intro s hj hc b hb
    have hm := (touches_devTouch s a n false unit).mem
    simp only [State.devReadF] at hb
    revert hb
    rcases hd : s.devTouch a n false unit with ⟨u, e⟩
    rw [hd] at hm
    have hm : u.mem = s.mem := hm
    cases e <;> simp only [List.not_mem_nil, false_imp_iff]
    intro hb
    rcases List.mem_append.mp hb with h | h
    · rw [hm] at h
      exact read_past s.mem hj n a (hc (a, n) (by simp)) b h
    · exact ih u (by rw [hm]; exact hj) (fun p hp => by rw [hm]; exact hc p (List.mem_cons_of_mem _ hp)) b h

theorem devReadF_mem (unit : Bool) : ∀ (ps : List (Nat × Nat)) (s : State), (s.devReadF unit ps).1.mem = s.mem := by
  intro ps
  induction ps with
  | nil => intro s; rfl
  | cons p t ih =>
    obtain ⟨a, n⟩ := p
    intro s
    have hm := (touches_devTouch s a n false unit).mem
    simp only [State.devReadF]
    rcases hd : s.devTouch a n false unit with ⟨u, e⟩
    rw [hd] at hm
    cases e <;> first | exact hm | exact (ih u).trans hm

/-- A read through a context, all of it past the listed cells of device memory. -/
theorem ctxReadF_past (c : Ctx) : ∀ (ps : List (Nat × Nat)) (s : State), s.mem.junk = [] →
    (∀ p ∈ ps, match c.walk p.1 with
      | some (.dev x, _) => ∀ e ∈ s.mem.cells, e.1 < x
      | some (.host _ _, _) => False
      | none => True) → ∀ b ∈ (s.ctxReadF c ps).2.2, b = 0 := by
  intro ps
  induction ps with
  | nil => intro s _ _ b hb; simp [State.ctxReadF] at hb
  | cons p t ih =>
    obtain ⟨va, n⟩ := p
    intro s hj hc b hb
    have h0 := hc (va, n) (by simp)
    simp only [State.ctxReadF] at hb
    revert hb h0
    rcases hw : c.walk va with _ | ⟨l, w⟩
    · simp
    · cases l with
      | host p a => intro h; exact h.elim
      | dev x =>
        intro hx hb
        have hx : ∀ e ∈ s.mem.cells, e.1 < x := hx
        have hm := devReadF_mem true (spans x n) s
        have hp := devReadF_past true (spans x n) s hj
          (fun p hp e he => Nat.lt_of_lt_of_le (hx e he) (spans_ge _ _ _ p hp))
        revert hb
        show b ∈ (match s.devReadF true (spans x n) with
          | (s, .ok, bs) => let (s, r, rest) := State.ctxReadF s c t; (s, r, bs ++ rest)
          | (s, e, _) => (s, e, [])).2.2 → b = 0
        rcases hd : s.devReadF true (spans x n) with ⟨u, e, bs⟩
        rw [hd] at hm hp
        have hm : u.mem = s.mem := hm
        cases e <;> simp only [List.not_mem_nil, false_imp_iff]
        intro hb
        rcases List.mem_append.mp hb with h | h
        · exact hp b h
        · exact ih u (by rw [hm]; exact hj) (fun p hp => by rw [hm]; exact hc p (List.mem_cons_of_mem _ hp)) b h

end Sys2Proof.Machine
end

