-- ==== Sys2Proof/Machine/Indicators.lean ====
section
/-! DEFINITION. The indicators of the front face as functions of the state (22 R495, R496, Table 22.4). -/
namespace Sys2Proof.Machine

inductive StatusLight where
  | off | amber | amberBlinking | green | greenFlashing
deriving DecidableEq, Repr

/-- `coded`: long flashes for the upper hexadecimal digit of the code, short ones for the lower. -/
inductive FaultLight where
  | coded (long short : Nat) | red | amber | off
deriving DecidableEq, Repr

inductive PortLight where
  | green | greenBlinking | amber | off
deriving DecidableEq, Repr

/-- STATUS. A module whose input is applied and whose start-up has not begun shows start-up (log 76). -/
def State.statusLight (s : State) : StatusLight :=
  if s.start.power == .off || s.start.tripped then .off
  else if s.start.phase < 8 && !s.start.held then .amber
  else if s.start.held || s.start.bringUp = 1 then .amberBlinking
  else if s.gov.ladder ≤ 1 then .green
  else .greenFlashing

/-- FAULT. A module stop is in progress until the start-up that enters its record (20 R465). -/
def State.faultLight (s : State) : FaultLight :=
  if s.start.power == .off then .off
  else if s.start.fail ≠ 0 then .coded (s.start.fail / 16) (s.start.fail % 16)
  else if s.start.tripped || s.start.carried.isSome then .red
  else if s.promise ≠ 0 || s.dies.any (fun e => e.2.hold) then .amber
  else .off

/-- The link light of a port. -/
def State.portLight (s : State) (i : Nat) : PortLight :=
  let p := s.port i
  match p.state with
  | 3 | 4 => .green
  | 2 | 7 => .greenBlinking
  | 5 => .amber
  | _ => if p.lossSince3 then .amber else .off

end Sys2Proof.Machine
end

