-- ==== Sys2Proof/Tests/Slice0.lean ====
section
/-! SUPPORT. Tests of the model: what WellFormed refuses, Zuhan words written out from the manual's tables, single steps on
small states, and for every statement with hypotheses a concrete state and operands that meet them. -/
namespace Sys2Proof.Tests
set_option Elab.async false
open Sys2Proof Sys2Proof.Machine

/-! ### Small states -/

def i0 : Issue := ⟨0, 0⟩

/-- A launch of context 0 that runs program 1 on unit 0. -/
def launch0 : Launch :=
  { queue := 1, item := 0, ctx := 0, prog := 1, idx := 0, params := [(5, 7)], dies := [0], pin := none, st := .running 0
    lc := false, level := 0, startedAt := 0, age := 0 }

/-- A context resident on die 0, with one program of 32 slots. -/
def ctx0 (code : List W32) : Ctx :=
  { part := 0, fsr := [32, 32, 32, 32], slices := [0, 0, 0, 0], slotBase := [0, 0, 0, 0], saveAreas := [[], [], [], []]
    resident := [0], progs := [(1, { image := { slots := 32, code }, base := 0, ibase := 0, lanes := false })] }

/-- A running module in which unit 0 stands at the first word of the code, with a register bank. -/
def st (code : List W32) (b : Bank) : State :=
  { start := { power := .running, phase := 8 }, dies := [(0, { present := true })], ctxs := [(0, ctx0 code)]
    launches := [(0, launch0)], nextLaunch := 1, nextItem := 1
    pairs := [(0, { launch := some 0, bank := b })] }

def wordsOf (z : Instr) : List W32 := (zencode z).getD []

/-- The state in which unit 0 stands at an instruction. -/
def stAt (z : Instr) (b : Bank := {}) : State := st (wordsOf z) b

/-- `State.issues` with a condition on the site, as a test. -/
def issuesIf (s : State) (i : Issue) (z : Instr) (p : Site → Bool) : Bool :=
  match s.site i z with
  | some a =>
    !((sUses z).any a.p.pend.contains) &&
      (s.sramRead a.die (a.u % 16) (istoreBase + a.word) (istoreBase + a.word)).2.isNone && p a
  | none => false

theorem issuesIf_sound {s : State} {i : Issue} {z : Instr} {p : Site → Bool} (h : issuesIf s i z p = true) :
    ∃ a, s.issues i z a ∧ p a = true := by
  unfold issuesIf at h
  split at h
  · rename_i a e
    simp only [Bool.and_eq_true, Bool.not_eq_true', Option.isNone_iff_eq_none] at h
    exact ⟨a, ⟨e, h.1.1, h.1.2⟩, h.2⟩
  · cases h

/-! ### Well-formedness: one ill-formed command for each check -/

theorem test_wf_refuses : ∀ i ∈ [Instr.falu i0 1 (.s 2) (.s 3) .fsqrt, .vfalu i0 1 2 3 none .fabs, .br i0 .always 1 0,
    .loop i0 1 (.imm 0) 0, .vld i0 1 2 12 false, .vst i0 1 2 0 12 0 false false, .vst i0 1 2 0 0 1 false false,
    .vst i0 1 2 0 5 0 true false, .vst i0 1 2 3 4 0 false false, .qop i0 1 0 2 .not, .qop i0 1 1 0 .ones,
    .mpass i0 ⟨0, 0, false, false, false, false, false, false, false, 0, 1⟩,
    .tmove i0 ⟨.memMem, 1, 2, 3, 4, 5, 6, 1, false⟩, .tmove i0 ⟨.memMem, 1, 2, 3, 4, 5, 6, 0, true⟩,
    .tmove i0 ⟨.memSlot, 1, 2, 3, 0, 5, 6, 1, false⟩, .tmove i0 ⟨.memSlot, 0, 2, 3, 4, 5, 6, 1, false⟩,
    .tmove i0 ⟨.slotMem, 1, 2, 0, 4, 5, 6, 1, false⟩, .tmove i0 ⟨.slotMem, 1, 0, 3, 4, 5, 6, 1, false⟩,
    .dispatch 0 [], .batchMemberArrival 0 ⟨0, { tab := 0 }⟩ ⟨0, []⟩, .hostMemWrite 0 ⟨0, .none⟩ [], .attest 0 [], .attestationNonce 0 [], .gatePulse 0 [],
    .hardRepair 0 20 0, .softRepair 0 20 0, .memorySelfTest 0 20 0, .fullTraining 0 20 0], i.wf = false := by decide

theorem test_wf_takes : ∀ i ∈ [Instr.falu i0 1 (.s 2) (.s 0) .fsqrt, .vst i0 1 2 0 0 0 false true, .vst i0 1 2 3 4 2 true false,
    .br i0 .eq0 1 0, .loop i0 1 (.imm 0) 1, .tmove i0 ⟨.slotMem, 1, 0, 0, 4, 5, 6, 1, true⟩, .fullTraining 0 19 0,
    .gatePulse 0 [none, none, none, none, none, none]], i.wf = true := by decide

/-! ### Words written out from the tables of chapter 06 -/

-- 06 Table 6.2: MOVK s4, 0xBEEF at bits 47 to 32; Table 6.1 opcode 0x0C.
theorem test_word_movk : zdecode [0b00001100_00100_10_0_1011111011101111#32] = some (.movk noIssue 4 2 0xBEEF#16, 1) := by decide
-- 06 Table 6.7: LOOP s2, parameter 9, back 5 words: BK 1.
theorem test_word_loop_param :
    zdecode [0b00010001_00010_1_0001001_00000000101#32] = some (.loop noIssue 2 (.param 9) 5#11, 1) := by decide
-- 06 Table 6.10: QOP q1 = not q2.
theorem test_word_qop : zdecode [0b00101100_00_001_00_010_00_000_000000_100#32] = some (.qop noIssue 1 2 0 .not, 1) := by decide
-- 06 R163: VRED s3 = integer sum of v4 where q2.
theorem test_word_vred :
    zdecode [0b00100111_00011_00100_00000_1_010_00011#32] = some (.vred noIssue 3 4 (some 2) .isum, 1) := by decide
-- 06 Table 6.16: LTLD L3 from the image's table 0x155.
theorem test_word_ltld : zdecode [0b00010110_0011_0_00000_0000_0101010101#32] = some (.ltld noIssue 3 (.image 0x155#10), 1) := by decide
-- 06 Table 6.15: TGATHER s1 from s2 by the indices s3 along axis 5, completion s6.
theorem test_word_tgather :
    zdecode [0b01001001_00001_00010_00011_101_00110_0#32, 0#32] = some (.tgather noIssue 1 2 3 5 6, 2) := by decide
-- 06 R152: the second word of a two-word instruction is part of it.
theorem test_word_cut : zdecode [0b01001001_00001_00010_00011_101_00110_0#32] = none := by decide

/-- O3, O4: a well-formed instruction of one word and one of two, with their encodings. -/
theorem wit_encode : ∀ z ∈ [Instr.movk i0 4 2 0xBEEF#16, .tgather i0 1 2 3 5 6],
    z.issue?.isSome = true ∧ z.wf = true ∧ ((zencode z).map List.length == some (zlen z)) = true ∧
      ((zencode z).bind zdecode).isSome = true := by decide +kernel

/-! ### Instructions: states and operands that meet the hypotheses of the statements -/

/-- Every one-word instruction of the scalar, vector and predicate families issues on a free pair (O6 to O17). -/
theorem wit_plain : ∀ z ∈ [Instr.ialu noIssue 3 (.s 1) (.p 5) .add, .addi noIssue 1 (.s 2) 0xFFF, .andi noIssue 1 (.p 63) 0,
    .ori noIssue 31 (.s 31) 1, .xori noIssue 0 (.s 0) 0x800, .slti noIssue 1 (.s 2) 0x7FF, .shli noIssue 1 (.s 2) 63,
    .shri noIssue 1 (.s 2) 0, .srai noIssue 1 (.p 2) 63, .movz noIssue 4 3 0xFFFF, .movk noIssue 4 0 0,
    .falu noIssue 1 (.s 2) (.s 3) .feq, .falu noIssue 1 (.s 2) (.s 0) .cvtfi, .falu noIssue 1 (.s 2) (.s 3) .fmac,
    .falu noIssue 1 (.s 2) (.s 0) .cvtif, .br noIssue .always 0 0, .br noIssue .lt0 7 0x7FFF, .endL noIssue, .part noIssue,
    .ltld noIssue 3 (.image 0), .vfalu noIssue 1 2 3 none .fma, .vfalu noIssue 1 2 3 (some 7) .fadd, .vialu noIssue 1 2 3 none .add,
    .vialu noIssue 1 2 3 (some 0) .sra, .vcmp noIssue 1 2 3 none .flt, .vcmp noIssue 1 2 3 (some 1) .ult, .vsel noIssue 1 2 3 4,
    .vbcast noIssue 1 (.p 5), .vextr noIssue 1 2 511, .vidx noIssue 31, .vred noIssue 1 2 none .fsum, .vred noIssue 1 2 (some 3) .imin,
    .qop noIssue 1 2 3 .andn, .vrandj noIssue 5],
    issuesIf (stAt z) i0 z (fun _ => true) = true := by decide +kernel

/-- FALU: each of its functions issues undisturbed; operands at the ends of the clauses: NaNs, infinities, the largest finite FP32,
both zeros, opposite and equal numbers, the powers of two at the ends of FEXP2 and FLOG2. -/
theorem wit_falu : (∀ fn ∈ [FaluFn.feq, .flt, .fle, .cvtfi, .cvtif, .fmin, .fmax, .fadd, .fsub, .fmul, .fmac, .fdiv, .fsqrt, .fexp2, .flog2],
      let z := Instr.falu noIssue 1 (.s 2) (.s 0) fn
      issuesIf (stAt z { s := [(2, 0x7F800001)] }) i0 z (fun _ => i0.upset == 0) = true) ∧
    (nan32 0x7F800001#32 ∧ nan32 0xFFFFFFFF#32 ∧ inf32 0xFF800000#32 ∧ neg32 0xFF800000#32 ∧ inf32 0x7F800000#32 ∧ ¬ neg32 0x7F800000#32) ∧
    (fin32 0x7F7FFFFF#32 ∧ ord32 0x80000000#32 = 0 ∧ fin32 0x80000000#32 ∧ ord32 0#32 = 0 ∧ ord32 0x80000001#32 < 0) ∧
    (num32 0x3F800000#32 + num32 0xBF800000#32 = 0 ∧ num32 0x3F800000#32 - num32 0x3F800000#32 = 0 ∧ 0 < num32 0x00000001#32) ∧
    (num32 0xC3150000#32 = (((0 : Nat) : Int) - 149) * 2 ^ 149 ∧ num32 0x42FE0000#32 = (((276 : Nat) : Int) - 149) * 2 ^ 149 ∧
      128 * 2 ^ 149 ≤ num32 0x43000000#32 ∧ fin32 0x43000000#32) ∧
    (num32 0x00000001#32 = 2 ^ 0 ∧ num32 0x7F000000#32 = 2 ^ 276) := by
  refine ⟨by decide +kernel, ?_, ?_, ?_, ?_, ?_⟩
  all_goals
    try simp only [nan32, inf32, fin32, neg32]
    decide +kernel

/-- The lengths that O14 to O16 ask of the registers: those of registers never written. -/
theorem wit_lanes : ∀ n, (Bank.vget {} n).length = 512 ∧ (Bank.qget {} n).length = 512 := by
  intro n
  exact ⟨List.length_replicate, List.length_replicate⟩

/-- O10: a LOOP whose count stays below its bound, and one at 2^64 - 1, whose count of 65 bits does not. -/
theorem wit_loop :
    issuesIf (stAt (.loop noIssue 2 (.imm 9) 1) { s := [(2, 8)] }) i0 (.loop noIssue 2 (.imm 9) 1)
      (fun a => (a.p.bank.sget 2).toNat + 1 < 10) = true ∧
    issuesIf (stAt (.loop noIssue 2 (.param 5) 1) { s := [(2, 0xFFFFFFFFFFFFFFFF#64)] }) i0 (.loop noIssue 2 (.param 5) 1)
      (fun a => 7 ≤ (a.p.bank.sget 2).toNat + 1) = true := by decide +kernel

/-- O11: an END that ends its launch and one that a pending completion holds; a PART without a request, one with a request that waits,
and one that hands over. -/
theorem wit_end_part :
    issuesIf (stAt (.endL noIssue)) i0 (.endL noIssue) (fun a => (stAt (.endL noIssue)).quiet a.u a.l) = true ∧
    (let s := { stAt (.endL noIssue) with pairs := [(0, { launch := some 0, pend := [4] })] }
     issuesIf s i0 (.endL noIssue) (fun a => !s.quiet a.u a.l) = true) ∧
    issuesIf (stAt (.part noIssue)) i0 (.part noIssue) (fun a => a.x.why == []) = true ∧
    (let s := { stAt (.part noIssue) with launches := [(0, { launch0 with why := [.preempt] })] }
     issuesIf s i0 (.part noIssue) (fun a => a.x.why == [.preempt] && s.quiet a.u a.l) = true ∧
     issuesIf { s with pairs := [(0, { launch := some 0, pend := [4] })] } i0 (.part noIssue)
       (fun a => a.x.why == [.preempt] &&
         !({ s with pairs := [(0, { launch := some 0, pend := [4] })] } : State).quiet a.u a.l) = true) := by
  decide +kernel

/-- O12: fences 63 and 64, an object of the context's partition, one of another and a missing one; waits met and not met. -/
theorem wit_sync :
    (∀ z ∈ [Instr.signal noIssue .fence 1 2 none, .waitfor noIssue .fence 1 2],
      issuesIf (stAt z { s := [(1, 63), (2, 0)] }) i0 z (fun a => (a.p.bank.sget 1).toNat ≤ 63 && (a.p.bank.sget 2).toNat == 0) = true ∧
      issuesIf (stAt z { s := [(1, 64)] }) i0 z (fun a => 63 < (a.p.bank.sget 1).toNat) = true) ∧
    issuesIf (stAt (.waitfor noIssue .fence 1 2) { s := [(1, 0), (2, 1)] }) i0 (.waitfor noIssue .fence 1 2)
      (fun a => (a.c.fences.get 0 (fenceKey a.die 0)).toNat < (a.p.bank.sget 2).toNat && a.x.why == []) = true ∧
    (∀ z ∈ [Instr.signal noIssue .sem 1 2 none, .waitfor noIssue .sem 1 2],
      (let s := { stAt z { s := [(1, 4)] } with sems := [(4, { part := 0, value := 5, failed := 0 })] }
       issuesIf s i0 z (fun a => s.sems.find (a.p.bank.sget 1).toNat == some { part := 0, value := 5, failed := 0 } && a.c.part == 0) =
         true) ∧
      (let s := { stAt z { s := [(1, 4)] } with sems := [(4, { part := 1, value := 5, failed := 0 })] }
       issuesIf s i0 z (fun a => (s.sems.find (a.p.bank.sget 1).toNat).any (fun m => m.part != a.c.part)) = true) ∧
      issuesIf (stAt z { s := [(1, 4)] }) i0 z (fun a => ((stAt z).sems.find (a.p.bank.sget 1).toNat).isNone) = true) := by
  decide +kernel

/-- A loop table: 128 x 512 x 1, BF16, A in slot 0 and B in slot 1 of the image. -/
def tab0 : BitVec 1024 :=
  let level (role pos mark bnd sa sb : Nat) := role * 2 ^ 6 + pos * 2 ^ 3 + mark * 2 ^ 8 + (bnd - 1) * 2 ^ 16 + sa * 2 ^ 32 + sb * 2 ^ 56
  BitVec.ofNat 1024 (2 ^ 20 + 2 ^ 24 + 0x4000 * 2 ^ 128 + level 1 0 0 128 1 0 * 2 ^ 256 + level 2 1 0 512 0 1 * 2 ^ 384 +
    level 3 2 1 1 0 0 * 2 ^ 512)

theorem test_tab : (ltabOf tab0).ok = true ∧ (ltabOf tab0).slots = [0, 1] := by decide +kernel

/-- A module with feed-store bytes and tokens on unit 0. -/
def withFeed (s : State) (bs : List Byte) (toks : Tab Bool) : State :=
  { s with mus := [(0, { feed := ({} : Mem).write 0 bs, toks })] }

/-- An access whose result is `ok`. -/
theorem read_ok (s : State) (u a n : Nat) (h : (s.feedRead u a n).2.1 = .ok) :
    ∃ s1 bs, s.feedRead u a n = (s1, .ok, bs) := ⟨_, _, by rw [← h]⟩

/-- O13: a table in the feed store, present and good; a status word. -/
theorem wit_table :
    (let z := Instr.ltld noIssue 3 (.feed 1)
     let s := withFeed (stAt z) (natLe 128 tab0.toNat) [(0, true)]
     issuesIf s i0 z (fun a => a.feedAddr (a.p.bank.sget 1) 128 == some (0, 0) && (s.mu a.u).tok 0 &&
       (s.feedRead a.u 0 128).2.1 == .ok && (let t := ltabOf (BitVec.ofNat 1024 (leNat (s.feedRead a.u 0 128).2.2))
         t.ok && t.slots.all (· < a.prog.image.slots))) = true) ∧
    (∀ clr ∈ [true, false], let z := Instr.tstat noIssue 1 2 clr
     issuesIf { stAt z { s := [(2, 9)] } with ctxs := [(0, { ctx0 (wordsOf z) with descs := [(9, { image := 0, status := 5 })] })] } i0 z
       (fun a => (a.p.bank.sget 2).toNat < 2 ^ 16 && (a.c.desc (a.p.bank.sget 2).toNat).isSome) = true) := by
  decide +kernel

/-- O16: an aligned address in the image's last slot, its token present for VLD and absent for VST. -/
theorem wit_vld_vst :
    (∀ tok ∈ [true, false], ∀ z ∈ [Instr.vld noIssue 3 1 8 true, .vst noIssue 3 1 0 8 0 false true],
      let s := { stAt z { s := [(1, 31 * 0x4000 + 0x3E00)] } with mus := [(0, { toks := [(31, tok)] })] }
      issuesIf s i0 z (fun a => a.feedAddr (a.p.bank.sget 1) (bytesOf 8 512) == some (31 * 0x4000 + 0x3E00, 31) &&
        ((s.mu a.u).tok 31 == tok) && (s.feedRead a.u (31 * 0x4000 + 0x3E00) (bytesOf 8 512)).2.1 == .ok) = true) := by
  decide +kernel

/-- O17: the largest key and a draw number with nothing between. -/
theorem wit_vrand :
    issuesIf (stAt (.vrand noIssue 1 2 3 4 3) { s := [(3, 0xFFFFFFFFF#64), (4, 0xFFFFFFFF0000FFFF#64)] }) i0 (.vrand noIssue 1 2 3 4 3)
      (fun a => (a.p.bank.sget 3).toNat < 2 ^ 36 && (a.p.bank.sget 4).toNat / 2 ^ 16 % 2 ^ 16 == 0) = true := by decide +kernel

/-- O18: the image's last sixteen slots and the first slot past them; a queue with room and a full one; a landing slot in use. -/
theorem wit_drain_preload :
    (∀ z ∈ [Instr.mpreload noIssue true 16 true, .mdrain noIssue false 16 0 5],
      issuesIf (stAt z) i0 z (fun a => (16#9).toNat + 16 ≤ a.prog.image.slots && ((stAt z).mu a.u).preQ.length < 2) = true) ∧
    issuesIf (stAt (.mpreload noIssue true 17 true)) i0 (.mpreload noIssue true 17 true)
      (fun a => a.prog.image.slots < (17#9).toNat + 16) = true ∧
    (let z := Instr.mpreload noIssue true 0 true
     let p : PreEntry := { launch := 0, ax := false, slot := 0, rel := false }
     issuesIf { stAt z with mus := [(0, { preQ := [p, p] })] } i0 z (fun _ => true) = true) ∧
    (let z := Instr.mdrain noIssue false 0 0 5
     let s := { stAt z with mus := [(0, { toks := [(15, true)] })] }
     issuesIf s i0 z (fun a => (s.mu a.u).tok (a.prog.base + 15) && (imgStage a.prog.image 0).isNone) = true) := by decide +kernel

def drain0 : DrainEntry := { launch := 0, iaddr := 0, ax := false, slot := 16, fent := 0, sd := 5 }

/-- O19: an MPASS that closes a run with a drain queued, one with a full queue, one without its drain and one whose extent is above
its bound; and a skimmed one, whose record is live. -/
theorem wit_mpass :
    let z := Instr.mpass noIssue ⟨3, 0, false, false, false, false, false, false, false, 0, 0⟩
    let on (q : List PassEntry) (d : List DrainEntry) : State :=
      { stAt z with pairs := [(0, { launch := some 0, l := [(3, tab0)] })], mus := [(0, { passQ := q, drainQ := d })] }
    let f : MpassF := ⟨3, 0, false, false, false, false, false, false, false, 0, 0⟩
    let e : PassEntry := { launch := 0, iaddr := 0, tab := tab0, params := [], slotBase := 0, prog := 1, cls := 0, cont := false,
                           pre := false, first := true, skim := none, relA := false, relB := false, relSA := false, relSB := false,
                           rent := 0, latch := {} }
    let good (s : State) (a : Site) : Bool := a.passFormatOk s f (ltabOf (a.p.l.get 0 3)) none
    let fits (a : Site) : Bool := (ltabOf (a.p.l.get 0 3)).extentsOk a.x.params
    issuesIf (on [] [drain0]) i0 z (fun a => good (on [] [drain0]) a && fits a && (imgStage a.prog.image 0).isNone) = true ∧
    issuesIf (on [e, e] [drain0]) i0 z (fun a => good (on [e, e] [drain0]) a && fits a) = true ∧
    issuesIf (on [] []) i0 z (fun a => !good (on [] []) a) = true ∧
    (let t1 := tab0 + BitVec.ofNat 1024 ((2 ^ 9 + 5 * 2 ^ 10) * 2 ^ 512)
     let s := { on [] [drain0] with pairs := [(0, { launch := some 0, l := [(3, t1)] })] }
     issuesIf s i0 z (fun a => a.passFormatOk s f (ltabOf t1) none && !(ltabOf t1).extentsOk a.x.params) = true) := by decide +kernel
/-- `State.runsOn` as a test. -/
def runsOnIf (s : State) (l u : Nat) : Bool :=
  (s.pair u).launch == some l && match s.launches.find l with
    | some x => x.st == .running u
    | none => true

theorem runsOnIf_sound {s : State} {l u : Nat} (h : runsOnIf s l u = true) : s.runsOn l u := by
  simp only [runsOnIf, Bool.and_eq_true, beq_iff_eq] at h
  refine ⟨h.1, fun x e => ?_⟩
  have := h.2
  rw [e] at this
  exact eq_of_beq this

/-- O19: the record a skimmed MPASS names is live. -/
theorem wit_mpass_skim :
    let z := Instr.mpass noIssue ⟨3, 0, false, false, true, false, false, false, false, 0, 9⟩
    let r : SkimRec := { image := 0 }
    let s : State := { stAt z { s := [(9, 1)] } with ctxs := [(0, { ctx0 (wordsOf z) with skims := [(1, r)] })] }
    issuesIf s i0 z (fun a => (a.c.skimOperand a.x.ctx (a.p.bank.sget 9)).isSome && a.c.skims.find 1 == some r) = true := by
  decide +kernel

/-- A descriptor image: type, rank, USE, base, allocation, sizes and strides; the other fields 0. -/
def descIm (et use base al : Nat) (sizes strides : List Nat) : BitVec 1024 :=
  let lay (w at' : Nat) (xs : List Nat) := sumN ((List.range xs.length).map (fun d => xs.getD d 0 * 2 ^ (8 * (at' + w * d))))
  BitVec.ofNat 1024 (et + sizes.length * 2 ^ 4 + use * 2 ^ 20 + base * 2 ^ 64 + al * 2 ^ 128 + lay 4 0x20 sizes + lay 8 0x40 strides)

/-- An allocation of slice 8 of die 0. -/
def alloc0 : Alloc := { va := 0x10000, size := 0x10000, page := 0x10000, kind := .slice 0 8, wr := true, runs := [] }

/-- The context with two FP32 rows of four elements (handles 1 and 2), an index row of two INT32 elements (3) and a row of two (4). -/
def ctxT (code : List W32) : Ctx :=
  { ctx0 code with
    allocs := [(1, alloc0)]
    descs := [(1, { image := descIm 0 3 0x10000 1 [4] [1] }), (2, { image := descIm 0 3 0x10100 1 [4] [1] }),
      (3, { image := descIm 10 1 0x10200 1 [2] [1] }), (4, { image := descIm 0 3 0x10300 1 [2] [1] })] }

def stT (z : Instr) (b : Bank) (toks : Tab Bool := []) : State :=
  { stAt z b with ctxs := [(0, ctxT (wordsOf z))], mus := [(0, { toks })] }

/-- O20: a room for a move, and the three directions: between tensors; into free slots and into one with a token; from slots that
hold tokens and from one that does not. -/
theorem wit_tmove :
    let b : Bank := { s := [(1, 1), (2, 2), (3, 0), (4, 0), (5, 4)] }
    let box (d : Dir) (slot : BitVec 9) (hs os hd od : Fin 32) : TmoveF := ⟨d, hd, hs, os, od, 5, 6, slot, false⟩
    let room (s : State) (a : Site) : Bool := s.outstanding a.u < 8 && (List.range 8).any (fun k => !(s.die a.die).tmuOut.contains k)
    (let f := box .memMem 0 2 4 1 3
     let s := stT (.tmove noIssue f) b
     issuesIf s i0 (.tmove noIssue f) (fun a => room s a && !a.blockPends [f.os, f.od, f.ex] 1 &&
       match a.c.descUse 1 1, a.c.descUse 2 0 with
       | some d, some e => d.rank == e.rank && pairOk d e && !overlaps d e && (regBlock a.p.bank f.os d.rank).isSome &&
         (regBlock a.p.bank f.od d.rank).isSome && regBlock a.p.bank f.ex d.rank == some [4]
       | _, _ => false) = true) ∧
    (∀ tok ∈ [true, false], ∀ dir ∈ [Dir.memSlot, .slotMem],
     let f := if dir = .memSlot then box dir 31 1 3 0 0 else box dir 31 0 0 1 3
     let s := stT (.tmove noIssue f) b [(31, tok)]
     issuesIf s i0 (.tmove noIssue f) (fun a => room s a && match a.c.descUse 1 (if dir = .memSlot then 0 else 1) with
       | some d => boxPackedOk d [4] && (boxSlots d 31 [4]).map (a.prog.base + ·) == [31] && 31 + 1 ≤ a.prog.image.slots &&
         regBlock a.p.bank f.ex d.rank == some [4] && (s.mu a.u).tok 31 == tok
       | none => false) = true) := by decide +kernel

/-- O20: a gather and a scatter of two rows; a gather whose shape disagrees; one that overlaps its source. -/
theorem wit_gather :
    let on (d e : W64) : Bank := { s := [(1, d), (2, e), (3, 3)] }
    let ok (z : Instr) (d e : W64) (p : DescF → DescF → DescF → Bool) : Bool :=
      issuesIf (stT z (on d e)) i0 z (fun a =>
        match a.c.descUse d.toNat 1, a.c.descUse e.toNat 0, a.c.indexDesc 3 with
        | some fd, some fe, some fx => pairOk fd fe && p fd fe fx
        | _, _, _ => false)
    let g := Instr.tgather noIssue 1 2 3 0 6
    let c := Instr.tscatter noIssue 1 2 3 0 6 .add
    ok g 4 1 (fun d e x => 0 < e.rank && d.sizes == e.sizes.set 0 (x.sizes.getD 0 0) && !overlaps d e) = true ∧
    ok g 2 1 (fun d e x => d.sizes != e.sizes.set 0 (x.sizes.getD 0 0)) = true ∧
    ok g 4 4 (fun d e x => d.sizes == e.sizes.set 0 (x.sizes.getD 0 0)) = true ∧
    ok c 1 4 (fun d e x => 0 < d.rank && e.sizes == d.sizes.set 0 (x.sizes.getD 0 0) && !overlaps d e && d.kind == 0 && d.etype == 0) =
      true := by decide +kernel

/-- The triple of an evaluation that ended well. -/
theorem triple_of {α β γ : Type} (x : α × β × γ) (b : β) (h : x.2.1 = b) : ∃ a c, x = (a, b, c) := ⟨_, _, by rw [← h]⟩

theorem triple_with {α β γ : Type} (x : α × β × γ) (b : β) (h : x.2.1 = b) (p : α → γ → Prop) (hp : p x.1 x.2.2) :
    ∃ a c, x = (a, b, c) ∧ p a c := ⟨_, _, by rw [← h], hp⟩

/-- O21: a move of two elements between tensors that completes. -/
def move0 : Move :=
  { unit := 0, tmu := 0, launch := 0, iaddr := 0, sc := 6, kind := .box .memMem 2 1 [0] [0] [2] 0 false, seed := 0 }
def sMove : State := { stT (.endL noIssue) {} with moves := [(0, move0)] }

theorem pair_of {α β : Type} (x : α × β) (p : β → Prop) (h : p x.2) : ∃ a b, x = (a, b) ∧ p b := ⟨_, _, rfl, h⟩

theorem wit_move : (∃ u o, sMove.performMove (ctxT (wordsOf (.endL noIssue))) move0 = (u, o) ∧ o.acc = .ok) ∧
    sMove.moves.find 0 = some move0 ∧ sMove.launches.find 0 = some launch0 ∧ sMove.runsOn 0 0 ∧
    sMove.ctxs.find 0 = some (ctxT (wordsOf (.endL noIssue))) :=
  ⟨pair_of _ (fun o : MoveOut => o.acc = .ok) (by decide +kernel), by decide +kernel, by decide +kernel, runsOnIf_sound (by decide +kernel),
    by decide +kernel⟩

def pass0 : PassEntry :=
  { launch := 0, iaddr := 0, tab := tab0, params := [], slotBase := 0, prog := 1, cls := 0, cont := false, pre := false
    first := true, skim := none, relA := true, relB := true, relSA := false, relSB := false, rent := 0, latch := {} }

/-- O22: a queued pass whose slots hold tokens, with its drain; one with a token missing. -/
theorem wit_pass_issue :
    (let s := { stT (.endL noIssue) {} with mus := [(0, { passQ := [pass0], drainQ := [drain0], toks := [(0, true), (1, true)] })] }
     let m := s.mu 0
     m.passQ = [pass0] ∧ (∀ k ∈ pass0.reads (s.roffOf pass0) none, m.tok k = true) ∧ m.earlierTile 0 1 = false ∧ m.drainQ ≠ [] ∧
       takeFault (s.imageOf 0 1) pass0.t drain0 = none) ∧
    (let s := { stT (.endL noIssue) {} with mus := [(0, { passQ := [pass0], drainQ := [drain0], toks := [(0, true)] })] }
     (s.mu 0).passQ = [pass0] ∧ ∃ k ∈ pass0.reads (s.roffOf pass0) none, (s.mu 0).tok k = false) := by decide +kernel

/-- O23: a preload into free registers. -/
def pre0 : PreEntry := { launch := 0, ax := true, slot := 16, rel := true }
def passP : PassEntry := { pass0 with pre := true, preload := some pre0 }
def sPre : State := { stT (.endL noIssue) {} with mus := [(0, { arr := [passP] })] }

theorem wit_preload : (sPre.mu 0).preReg = none ∧ nextPreload (sPre.mu 0).arr = some (passP, pre0) ∧
    ∃ s1 bs, sPre.feedRead 0 (pre0.slot * 2 ^ 14) (2 ^ 18) = (s1, .ok, bs) :=
  ⟨by decide +kernel, by decide +kernel, triple_of _ _ (by decide +kernel)⟩

/-- O23: a pass that ends with its drain and free shadow registers, and one that they hold back. -/
def passD : PassEntry := { pass0 with drain := some drain0 }
def run0 : Run :=
  { fold := 0, int := false, vals := [], iovf := false, skipped := false, wr := [], wra := [], wc := [], wca := []
    wk := 0, wka := 0, nb := 0, preloaded := false, skip := none, steps := 0 }
def sHeld : State := { stT (.endL noIssue) {} with mus := [(0, { arr := [passD], shadow := some ⟨run0, passD, drain0, [], [], 0, false⟩ })] }
def sEnds : State := { stT (.endL noIssue) {} with mus := [(0, { arr := [passD], toks := [(0, true), (1, true)] })] }

theorem wit_pass_end :
    ((sHeld.mu 0).arr = [passD] ∧ passD.cont = false ∧ (sHeld.mu 0).shadow.isSome = true) ∧
    (sEnds.mu 0).arr = [passD] ∧ sEnds.runsOn passD.launch 0 ∧ (passD.cont = true ↔ passD.drain = none) ∧ (sEnds.mu 0).shadow = none ∧
      passD.truing = false ∧ ∃ s1 r, sEnds.streamErr 0 passD (sEnds.roffOf passD) = (s1, r) ∧ r = .ok :=
  ⟨by decide +kernel, by decide +kernel, runsOnIf_sound (by decide +kernel), by decide +kernel, by decide +kernel, by decide +kernel,
    pair_of _ _ (by decide +kernel)⟩

/-- O24: a tile whose lines all agree is committed; one whose corner witness differs (WRES 1) is refused while a move of its launch is
under way. -/
def tileOf' (wk : W32) : Tile :=
  { run := { fold := 0, int := true, vals := [], iovf := false, skipped := false, wr := [], wra := [], wc := [], wca := []
             wk, wka := 0, nb := 0, preloaded := false, skip := none, steps := 0 }
    pass := pass0, drain := drain0, inRow := [], inCol := [] }
def sTile (t : Tile) : State :=
  { stT (.endL noIssue) {} with mus := [(0, { shadow := some t })], moves := [(0, move0)] }

theorem rowLine_nil (n a : Nat) : rowLine n [] a = List.replicate 512 0 := by
  show List.map (fun _ => (0 : W32)) (List.range 512) = _
  rw [List.map_const', List.length_range]
theorem colLine_nil (n a : Nat) : colLine n [] a = List.replicate 128 0 := by
  show List.map (fun _ => (0 : W32)) (List.range 128) = _
  rw [List.map_const', List.length_range]
theorem wsum_zero : wsum true (List.replicate 512 0) = 0 ∧ wsum true (List.replicate 128 0) = 0 := by decide +kernel
theorem getD_zero (n a : Nat) : (List.replicate n (0 : W32)).getD a 0 = 0 := by
  rw [List.getD_eq_getElem?_getD, List.getElem?_replicate]
  split <;> rfl

theorem wit_lines (wk : W32) : (tileOf' wk).run.lines =
    (List.replicate 128 .pass, List.replicate 512 .pass, if (0 : W32) == wk then .pass else .fail) := by
  have nil (a : Nat) : ([] : List W32).getD a 0 = 0 := by cases a <;> rfl
  unfold Run.lines
  simp only [tileOf', rowLine_nil, colLine_nil, wsum_zero.1, wsum_zero.2, List.map_const', List.length_range, getD_zero, nil]
  simp only [lineCheck, if_true, BEq.rfl]

theorem no_fail (n : Nat) : (List.range (List.replicate n LineR.pass).length).filter
    (fun i => (List.replicate n LineR.pass)[i]? == some LineR.fail) = [] := by
  rw [List.filter_eq_nil_iff]
  intro i _
  rw [List.getElem?_replicate]
  split <;> decide

theorem no_unchecked (n : Nat) : (List.replicate n LineR.pass).filter (fun x => x == LineR.unchecked) = [] := by
  rw [List.filter_replicate]; rfl

theorem status_of (r : Run) (rows cols : List LineR) (corner : LineR) (h : r.lines = (rows, cols, corner))
    (hr : (List.range rows.length).filter (fun i => rows[i]? == some LineR.fail) = [])
    (hc : (List.range cols.length).filter (fun i => cols[i]? == some LineR.fail) = [])
    (hu : (rows ++ cols ++ [corner]).filter (fun x => x == LineR.unchecked) = []) (hi : r.iovf = false) (hs : r.skipped = false) :
    wres (r.statusWord 0) = if corner = .fail then 1 else 0 := by
  unfold Run.statusWord
  rw [h]
  simp only [hr, hc, hu, hi, hs]
  cases corner <;> decide

theorem wit_wres (wk : W32) : wres ((tileOf' wk).run.statusWord 0) = if wk = 0 then 0 else 1 := by
  rw [status_of _ _ _ _ (wit_lines wk) (no_fail 128) (no_fail 512) ?_ rfl rfl]
  · by_cases h : wk = 0
    · subst h; rfl
    · rw [if_neg h, if_pos]
      rw [if_neg]
      intro e
      exact h (eq_of_beq e).symm
  · rw [List.filter_append, List.filter_append, no_unchecked, no_unchecked]
    split <;> rfl

theorem wit_commit : (sTile (tileOf' 0)).runsOn 0 0 ∧ ((sTile (tileOf' 0)).mu 0).shadow = some (tileOf' 0) ∧ pass0.skim = none ∧
    wres ((tileOf' 0).run.statusWord 0) = 0 :=
  ⟨runsOnIf_sound (by decide +kernel), rfl, rfl, wit_wres 0⟩

theorem wit_refuse : (sTile (tileOf' 1)).runsOn 0 0 ∧ ((sTile (tileOf' 1)).mu 0).shadow = some (tileOf' 1) ∧
    (sTile (tileOf' 1)).launches.find 0 = some launch0 ∧ launch0.cause = none ∧ (sTile (tileOf' 1)).moves.find 0 = some move0 ∧
    move0.launch = 0 ∧ wres ((tileOf' 1).run.statusWord 0) = 1 :=
  ⟨runsOnIf_sound (by decide +kernel), rfl, rfl, rfl, rfl, rfl, wit_wres 1⟩
/-- A context whose program has a stage: handle 1 an FP32 matrix of one row, handle 2 an INT32 record of one row. -/
def progS (e : BitVec 256) (code : List W32 := []) : Program :=
  { image := { slots := 32, code, stages := [e] }, base := 0, ibase := 0, lanes := false }
def ctxS (e : BitVec 256) (code : List W32 := []) : Ctx :=
  { ctx0 [] with
    allocs := [(1, alloc0)]
    descs := [(1, { image := descIm 0 3 0x10000 1 [1, 512] [512, 1] }), (2, { image := descIm 10 3 0x11000 1 [1, 16] [16, 1] })]
    progs := [(1, progS e code)] }

def drainS : DrainEntry := { drain0 with fent := 1, latch := { dst := 1, recH := 2 } }
/-- A tile none of whose rows lies inside the real extents. -/
def tileS : Tile := { tileOf' 0 with drain := drainS }
def sStage (e : BitVec 256) (m : MUnit) (code : List W32 := []) : State :=
  { stT (.endL noIssue) {} with ctxs := [(0, ctxS e code)], mus := [(0, m)] }

/-- VLD v1 from the address in s1. -/
def vldCode : List W32 := wordsOf (.vld noIssue 1 1 0 false)

/-- O25: a run of a tile at the head of the finishing queue: at its last strip without a push and with one (bit 35), at a VLD of a
slot without a token, and at a VLD of an address that is not aligned. -/
def finWits : List (BitVec 256 × List W32 × StageRun × (StripR → Bool)) :=
  [(0, [], { on := true, done := 127, left := some 0 }, fun q => match q with | .done _ => true | _ => false),
   (0x800000000, [], { on := true, done := 127, left := some 0 }, fun q => match q with | .done _ => true | _ => false),
   (0x20000000000, vldCode, { on := true, done := 127, left := some 1 }, fun q => match q with | .wait _ => true | _ => false),
   (0x20000000000, vldCode, { on := true, done := 127, left := some 1, bank := { s := [(1, 1)] } },
    fun q => match q with | .code (.fault _) => true | _ => false)]

theorem wit_finishing : ∀ w ∈ finWits, ∃ s3 q,
    (sStage w.1 { fin := [tileS], stage := w.2.2.1 } w.2.1).stageRan 0 tileS launch0 (ctxS w.1 w.2.1) (progS w.1 w.2.1)
      (stageOf w.1) q s3 ∧
    (sStage w.1 { fin := [tileS], stage := w.2.2.1 } w.2.1).runsOn 0 0 ∧ w.2.2.2 q = true := by
  have h : ∀ w ∈ finWits, (stageOf w.1).stat = 0 ∧ w.2.2.2
      ((sStage w.1 { fin := [tileS], stage := w.2.2.1 } w.2.1).finStrips 0 0 (ctxS w.1 w.2.1)
        (tileS.env 0 (ctxS w.1 w.2.1) (progS w.1 w.2.1)) (tileS.finTile (stageOf w.1)) (tileS.pushTo (ctxS w.1 w.2.1) (stageOf w.1))
        (((stageOf w.1).body ((zprog w.2.1).getD [])).getD []) (w.2.2.1.begin tileS.drain.latch)).2 = true := by
    decide +kernel
  intro w hw
  obtain ⟨h1, h2⟩ := h w hw
  exact ⟨_, _, ⟨rfl, rfl, rfl, rfl, h1, rfl⟩, runsOnIf_sound rfl, h2⟩

/-- O26: a pass with a roughing stage of one strip of FP32 values in slot 8 for A in slot 0: its source missing, its output in the way,
ready to run, and at a VLD of a slot without a token. -/
def roughE : BitVec 256 := BitVec.ofNat 256 (2 ^ 40 + 8 * 2 ^ 163 + 2 ^ 143)
def roughV : BitVec 256 := BitVec.ofNat 256 (2 ^ 40 + 2 ^ 41 + 8 * 2 ^ 163 + 2 ^ 143)
def passR : PassEntry := { pass0 with rent := 1 }

theorem wit_roughing :
    let s (toks : Tab Bool) := sStage roughE { passQ := [passR], toks }
    let j := roughJob (stageOf roughE) passR.t 0
    (∀ toks, ((s toks).mu 0).passQ.find? (fun p => p.rent ≠ 0 && !p.roughed) = some passR ∧ (s toks).launches.find 0 = some launch0 ∧
      (s toks).ctxs.find 0 = some (ctxS roughE) ∧ (ctxS roughE).progs.find 1 = some (progS roughE) ∧
      imgStage (progS roughE).image 1 = some (stageOf roughE) ∧ ((s toks).mu 0).rough.on = false) ∧
    (j.srcSlots = [8] ∧ j.outSlots = [0] ∧ j.t.scaled = false) ∧
    ((s []).mu 0).tok 8 = false ∧ ((s [(0, true)]).mu 0).tok 0 = true ∧ ((s [(8, true)]).mu 0).tok 8 = true ∧
      ((s [(8, true)]).mu 0).tok 0 = false ∧
    (∃ s1 q, (s [(8, true)]).roughStrips 0 { u := 0, base := 0, slots := 32, src := { params := [], seed := (ctxS roughE).seed } } j []
      (StageRun.begin {} {}) = (s1, q) ∧ (match q with | .done _ => true | _ => false) = true) ∧
    (∃ s1 q, (sStage roughV { passQ := [passR] } vldCode).roughStrips 0
      { u := 0, base := 0, slots := 32, src := { params := [], seed := (ctxS roughV).seed } }
      (roughJob (stageOf roughV) passR.t 0) [.vld noIssue 1 1 0 false] (StageRun.begin { on := true, left := some 1 } {}) = (s1, q) ∧
      (match q with | .wait _ => true | _ => false) = true) := by
  refine ⟨fun toks => ⟨rfl, rfl, rfl, rfl, rfl, rfl⟩, by decide +kernel, by decide +kernel, by decide +kernel, by decide +kernel,
    by decide +kernel, ?_, ?_⟩
  · exact pair_of _ (fun q : StripR => (match q with | .done _ => true | _ => false) = true) (by decide +kernel)
  · exact pair_of _ (fun q : StripR => (match q with | .wait _ => true | _ => false) = true) (by decide +kernel)

/-- O27: a closing pass of a block whose last part is to begin: a tensor move unit serves it, or none is in service, and its counter
lies in the record. -/
def closeE : BitVec 256 := BitVec.ofNat 256 (2 ^ 36 + 2 ^ 35)

theorem wit_closing :
    let s := sStage closeE { closing := some tileS, closeTmu := some 0 }
    let s0 : State := { sStage closeE { closing := some tileS } with dies := [(0, { present := true, tmuOut := [0, 1, 2, 3, 4, 5, 6, 7] })] }
    (s0.mu 0).closeTmu = none ∧ s0.moveUnit 0 = none ∧
    (s.mu 0).closing = some tileS ∧ s.tileSite tileS = some (launch0, ctxS closeE, progS closeE) ∧
      imgStage (progS closeE).image tileS.drain.fent = some (stageOf closeE) ∧ s.runsOn 0 0 ∧ (s.mu 0).closeTmu.isSome = true ∧
      (∃ s1 q, s.closeStrips 0 (ctxS closeE) (tileS.env 0 (ctxS closeE) (progS closeE)) (tileS.finTile (stageOf closeE))
        (descOf (descIm 0 3 0x10000 1 [1, 512] [512, 1])) (descOf (descIm 10 3 0x11000 1 [1, 16] [16, 1])) [] []
        (StageRun.begin { on := true, done := 127 } tileS.drain.latch) = (s1, q) ∧
          (match q with | .done _ => true | _ => false) = true) ∧
      ∃ s2 r, s.putWords (ctxS closeE) (descOf (descIm 10 3 0x11000 1 [1, 16] [16, 1]))
        [((tileS.finTile (stageOf closeE)).counterAt, 0)] = (s2, r) ∧ r = .ok := by
  refine ⟨rfl, by decide +kernel, rfl, rfl, rfl, runsOnIf_sound (by decide +kernel), rfl,
    pair_of _ (fun q : StripR => (match q with | .done _ => true | _ => false) = true) (by decide +kernel),
    pair_of _ _ (by decide +kernel)⟩

/-! ### Engines, dispatch, the governor -/

def up (s : State) : State := { s with start := { s.start with power := .running, phase := 8 } }
/-- A running module with die 0 present. -/
def base : State := up { dies := [(0, { present := true })] }

/-- O28: a stopped pair with a sequencer fault; a pair in service; a matrix unit, a tensor move unit, the Spindle engine and a block
whose loss stops the module; a request raised 5,000 counts ago, and one count less. -/
theorem wit_selftests :
    (let s : State := { base with pairs := [(5, { stopped := true, seqFaults := 1 })] }
     s.runs = true ∧ (s.pair 5).stopped = true ∧ 1 ≤ (s.pair 5).seqFaults ∧ (s.mu 5).state = 0) ∧
    (base.pair 5).stopped = false ∧
    (∀ b ∈ [0, 15, 16, 23, 24], base.dualRail 0 b = true ∧ stopsModule 0 b = false ∧ base.blockUsers 0 b = [] ∧
      base.spin.get [] 0 = []) ∧
    base.runs = true ∧ base.dualRail 0 25 = true ∧ stopsModule 0 25 = true ∧ base.mus = [] ∧
    (let at' (n : W64) : State := { base with clock := { localc := [(0, n)] } }
     ((at' 4999).clock.localc.get 0 0).toNat < (0 : W64).toNat + 5000 ∧ (0 : W64).toNat + 5000 ≤ ((at' 5000).clock.localc.get 0 0).toNat) := by
  decide +kernel

def sDisp (x : Launch) : State := { stT (.endL noIssue) {} with launches := [(0, x)], pairs := [] }

/-- O29: a launch that has never run, one handed over on the die, and no launch at all. -/
theorem wit_dispatch :
    (∀ x ∈ [{ launch0 with st := .fresh, lc := true }, { launch0 with st := .parked 0 [(3, 4)] [] [] 1, lc := true }],
      let s := sDisp x
      s.dieDispatches 0 = true ∧ (∃ e, s.choice 0 = some e ∧ e.1.key = 0) ∧ s.launches.find 0 = some x ∧
      (∃ c, s.ctxs.find 0 = some c ∧ c.resident.contains 0 = true) ∧ s.inWay 0 0 = [] ∧
      ∃ u, u ∈ s.mayUse 0 x ∧ u ∈ s.freePairs 0) ∧
    base.dieDispatches 0 = true ∧ base.choice 0 = none ∧ (base.die 0).chosen = none ∧
    (let x : Launch := { launch0 with st := .fresh, lc := true }
     let s : State := { sDisp x with
       ctxs := [(0, { ctxT [] with resident := [] }), (1, ctxT [])]
       launches := [(0, x), (1, { launch0 with ctx := 1, st := .running 3 })] }
     (s.choice 0).map (fun e => e.1.key) = some 0 ∧ (s.clearWay 0 0 true).2 = false ∧
       (s.dispatchOne 0 []).choice 0 = some (s.candOf 0 (0, x), 7, false) ∧
       ((s.dispatchOne 0 []).die 0).chosen = some (0, false)) := by
  refine ⟨?_, by decide +kernel, by decide +kernel, by decide +kernel, by decide +kernel⟩
  intro x hx
  simp only [List.mem_cons, List.not_mem_nil, or_false] at hx
  rcases hx with h | h <;> subst h <;>
    exact ⟨by decide +kernel, ⟨⟨⟨0, true, 0, false, 0, 0, 0⟩, 7, false⟩, by decide +kernel, rfl⟩, by decide +kernel,
      ⟨_, rfl, by decide +kernel⟩, by decide +kernel, 0, by decide +kernel, by decide +kernel⟩

/-- O30: a latency-critical launch while lcrun is 7 and nothing urgent waits, with urgent work while it is 6, and 7. -/
theorem wit_pick :
    let lc : Cand := ⟨0, true, 3, false, 5, 0, 0⟩
    let ur : Cand := ⟨1, false, 0, true, 4, 0, 0⟩
    let six : State := { base with dies := [(0, { present := true, lcrun := 6 })] }
    (∃ l ∈ [lc], l.lc = true) ∧ (∀ u ∈ [lc], u.lc = false → u.urgent = false) ∧ (six.die 0).lcrun < 7 ∧
    (base.die 0).sensorFault = false ∧ (∃ u ∈ [lc, ur], u.lc = false ∧ u.urgent = true) ∧ 7 ≤ (base.die 0).lcrun ∧
    (∀ l ∈ [ur], l.lc = false) ∧ ∃ e, base.pick 0 [lc, ur] = some e := by
  exact ⟨by decide, by decide, by decide, by decide, by decide, by decide, by decide, _, rfl⟩

/-- O31: a best-effort launch that has waited its AGE, one that has waited a count longer, and no launch. -/
theorem wit_promote :
    let s (n : W64) : State := { stT (.endL noIssue) {} with clock := { refc := n } }
    (s 0).launches.find 0 = some launch0 ∧ launch0.lc = false ∧ launch0.st ≠ .ending ∧ launch0.st ≠ .done ∧
      ¬ launch0.startedAt.toNat + launch0.age < (s 0).now ∧ launch0.startedAt.toNat + launch0.age < (s 1).now ∧
      (s 0).launches.find 1 = none := by decide +kernel

/-- O32: members of one row and of 128 that arrive at a batching queue: alone with a wait and without, behind one of 128 rows that
they do not fit with, and behind one with another operand. -/
theorem wit_batch :
    let op : BatchOp := { tab := tab0 }
    let old (o : BatchOp) (rows : Nat) : Member := { id := 1, rows, op := o, pulses := 0 }
    (∀ rows ∈ [1, 128], memberOk rows op = true) ∧
    ∀ bw ∈ [0, 2], ∀ ms ∈ [[], [old op 1], [old op 128], [old { op with params := [1] } 1]],
      let s : State := { base with queues := [(3, { ctx := some 0, part := 0, port := 0, members := ms, attrs := { bw, bt := 128 } })] }
      ∃ x, s.queues.find 3 = some x ∧ (∀ m ∈ x.members, 1 ≤ m.rows ∧ m.rows ≤ 128) ∧ (2 :: x.members.map (·.id)).Nodup := by
  refine ⟨by decide +kernel, ?_⟩
  intro bw hb ms hm
  simp only [List.mem_cons, List.not_mem_nil, or_false] at hb hm
  rcases hb with h | h <;> rcases hm with k | k | k | k <;> subst h <;> subst k <;>
    exact ⟨_, rfl, by decide, by decide⟩

/-- O33: a gate period in which die 0 reports, at the hottest reading below the trip and with one dissenting channel, having been
power-gated or not, and one in which it does not, for the second time. -/
theorem wit_gate :
    let r : DieReport := { sensors := List.replicate 64 ⟨(100, 100, 100), (880, 880, 1000)⟩, paces := List.replicate 16 1500 }
    (∀ gated ∈ [true, false],
      let s : State := { base with dies := [(0, { present := true, missed := 1, gated, rail := 55000, vtarget := 560 })] }
      s.runs = true ∧ s.gov.ladder ≤ 1 ∧ s.now < 2 ^ 63 ∧ s.gov.lastGate.toNat < 2 ^ 63 ∧ s.gov.lastGate.toNat % 1000 = 0 ∧
        (∃ d ∈ [0], d < 6 ∧ (s.die d).present = true) ∧ (s.die 0).hot ≤ 880 ∧ 1 ≤ (s.die 0).missed) ∧
    r.hot ≤ 880 ∧ r.energy = 6400 ∧ r.pace 0 = 1500 := by decide +kernel

/-- O34: thermal factors of at most 1 and a cap above what the rest of the module takes. -/
theorem wit_budget : (∀ d, (base.die d).f ≤ 64) ∧
    (0 : Rat) ≤ ((base.cfg 0x3010 1 : Nat) : Rat) - (sumN (base.gov.restWin.take 10) : Rat) / 100 := by
  refine ⟨fun d => ?_, by decide +kernel⟩
  simp only [State.die, base, up, Tab.get, Tab.find]
  split <;> decide

/-- O35: idle past the dwell of L1, idle before it, on the way back from a scrub burst; each cause of a wake, there and not; L3 with a
link back; L4 with measurements that agree and that do not. -/
theorem wit_ladder :
    (let s : State := { base with gov := { idleSince := some 0 }, clock := { refc := 0x10000000000 } }
     s.runs = true ∧ s.start.held = false ∧ s.idle = true ∧ s.mayEnter 1 = true ∧ 100 * s.cfg 0x3020 2 ≤ s.now) ∧
    (let s : State := { base with gov := { idleSince := some 0 } }
     s.idle = true ∧ s.now < 100 * s.cfg 0x3020 2) ∧
    (let s : State := { base with
       gov := { ladder := 3 }, queues := [(1, { ctx := some 0, part := 0, port := 0, head := 1 })], ports := [(0, { state := 3, lossSince3 := true })]
       sec := { queue := [{ path := 0, broadcast := false, cmd := { ctrl := 0, kind := 1, counter := 1, body := [], check := [] } }] } }
     (∀ w ∈ [Wake.doorbell, .ringWrite, .linkLoss], s.wakeCause w = true ∧ base.wakeCause w = false) ∧ s.linkBack = true) ∧
    (let s : State := { base with
       gov := { ladder := 2 }, queues := [(1, { ctx := some 0, part := 0, port := 0, items :=
         [{ id := 1, hdr := { wv := true, wsem := 2, wval := 5, dline := 1 }, body := .nop }] })]
       clock := { refc := 1 }, sems := [(2, { part := 0, value := 5, failed := 0 })]
       codecs := [(0, { streams := [(0, { ctx := 0, queue := 1, srec := 0, ready := [(1, 1, 0)], pool := [] })] })] }
     ∀ w ∈ [Wake.metWait, .deadline, .codecInput], s.wakeCause w = true ∧ base.wakeCause w = false) ∧
    (let s : State := { base with gov := { ladder := 4, l4Wake := true } }
     s.runs = true ∧ s.gov.ladder = 4 ∧ s.gov.l4Wake = true ∧ ([] : List (List Byte)).map sha3_256 = s.start.stageIsland ∧
      [[0], [1]].map sha3_256 ≠ s.start.stageIsland) := by decide +kernel
/-! ### Items -/

/-- A transport block: rings of 1024 units and 1024 records. -/
def tr0 : Transport := { w0 := 0x20000, w1 := 0x40000, w2 := 0x50000, w3 := BitVec.ofNat 64 (16 * 2 ^ 59 + 10 * 2 ^ 54 + 2 ^ 35) }
/-- Queue 0 is an admin queue, queue 1 one of context 0; both rings hold 1,000 units. -/
def qadm : Queue := { ctx := none, part := 0, port := 0, tr := tr0, tail := 1000 }
def qctx : Queue := { qadm with ctx := some 0 }

/-- The header of a payload: its length, and nothing else. -/
def hdrOf (b : ItemBody) : Header :=
  { plen := match b with
      | .replay _ none => 1
      | .replay _ (some p) => 2 + p.entries.length
      | _ => b.fixedLen.getD (cdiv b.declared 16) }

/-- `State.lone` of an item of this header, as a test. -/
def soloIf (s : State) (q : Nat) (qu : Queue) (b : ItemBody) : Bool :=
  s.queues.find q == some qu && s.runs && qu.holdsItem (hdrOf b) && qu.items.isEmpty && !qu.halted && !qu.disabled &&
    qu.waitRecs.isEmpty && (qu.recording.isNone || b == .listEnd) && s.headerCode qu (hdrOf b) b == 0

theorem solo {s : State} {q : Nat} {qu : Queue} {b : ItemBody} (h : soloIf s q qu b = true) : s.lone q (hdrOf b) b qu := by
  simp only [soloIf, Bool.and_eq_true, beq_iff_eq, Bool.not_eq_true', List.isEmpty_iff, Bool.or_eq_true, Option.isNone_iff_eq_none] at h
  obtain ⟨⟨⟨⟨⟨⟨⟨⟨a, b⟩, c⟩, d⟩, e⟩, f⟩, g⟩, i⟩, j⟩ := h
  exact ⟨a, b, c, d, e, f, g, i, j, fun k => (by cases k), Or.inl rfl⟩

/-- An item of context 0 alone in queue 1, with a condition on the context. -/
def inCtx (s : State) (b : ItemBody) (p : Ctx → Bool := fun _ => true) (qu : Queue := qctx) : Bool :=
  soloIf s 1 qu b && qu.ctx == some 0 && match s.ctxs.find 0 with
    | some c => p c
    | none => false

theorem inCtx_sound {s : State} {b : ItemBody} {p : Ctx → Bool} {qu : Queue} (h : inCtx s b p qu = true) :
    ∃ c, s.loneIn 1 (hdrOf b) b qu 0 c ∧ p c = true := by
  unfold inCtx at h
  rw [Bool.and_eq_true, Bool.and_eq_true, beq_iff_eq] at h
  obtain ⟨⟨a, b⟩, e⟩ := h
  split at e
  · rename_i c hc; exact ⟨c, ⟨solo a, b, hc⟩, e⟩
  · cases e

/-- An admin item alone in queue 0, with a condition. -/
def inAdm (s : State) (b : ItemBody) (p : Bool := true) : Bool := soloIf s 0 qadm b && p

theorem inAdm_sound {s : State} {b : ItemBody} {p : Bool} (h : inAdm s b p = true) : s.loneAdmin 0 (hdrOf b) b qadm ∧ p = true := by
  rw [inAdm, Bool.and_eq_true] at h
  exact ⟨⟨solo h.1, rfl⟩, h.2⟩

/-- A running module with context 0 and the two queues. -/
def sQ (c : Ctx := ctxT []) : State := { base with ctxs := [(0, c)], queues := [(0, qadm), (1, qctx)] }

def noLaunch (s : State) : State := { s with launches := [] }

/-- O36: descriptors created, refused for a reserved bit, destroyed, named by a scaled one, missing; status words; an image that loads, one
that fails a check, and one that finds no place; a program that no launch runs and one that a launch does. -/
theorem wit_desc_items :
    soloIf (sQ) 1 qctx .nop = true ∧
    inCtx sQ (.descCreate (descIm 0 3 0x10000 1 [4] [1]))
      (fun c => descCode { c with descs := State.keptDescs sQ 0 c } (descIm 0 3 0x10000 1 [4] [1]) == 0 &&
        (Tab.free (State.keptDescs sQ 0 c) 1 65535).isSome) = true ∧
    inCtx sQ (.descCreate (descIm 0 3 0x10000 1 [4] [1] + BitVec.ofNat 1024 (2 ^ 27)))
      (fun c => descCode { c with descs := State.keptDescs sQ 0 c } (descIm 0 3 0x10000 1 [4] [1] + BitVec.ofNat 1024 (2 ^ 27)) != 0) =
      true ∧
    inCtx sQ (.descDestroy 1) (fun c => (c.desc 1).isSome && !c.scaleNamed 1) = true ∧
    (let s := sQ { ctxT [] with descs := [(1, { image := descIm 0 3 0x10000 1 [4] [1] }),
       (2, { image := descIm 3 3 0x10100 1 [4] [1] + BitVec.ofNat 1024 (2 ^ 14 + 2 ^ 160) })] }
     inCtx s (.descDestroy 1) (fun c => (c.desc 1).isSome && c.scaleNamed 1) = true) ∧
    inCtx sQ (.descDestroy 9) (fun c => (c.desc 9).isNone) = true ∧
    (∀ clr ∈ [true, false], inCtx sQ (.descStatus 4 clr) (fun c => (c.desc 4).isSome) = true) := by decide +kernel
/-- An image of one word, END. -/
def imG : Image := { isa := 2, slots := 1, est := [(0, 0)], code := wordsOf (.endL noIssue) }
/-- The context with room for it. -/
def ctxR : Ctx := { ctxT [] with fsr := [64, 64, 64, 64] }

/-- O36: an image that loads, one that fails a check, one that finds no place; a program that no launch runs, and one that one does. -/
theorem wit_load_items :
    inCtx (sQ ctxR) (.load imG) (fun c => loadCode imG == 0 && (sQ ctxR).imagePlace 0 c imG == some (32, 0) && c.progs.free 1 65535 == some 2) =
      true ∧
    inCtx (sQ ctxR) (.load { imG with isa := 3 }) (fun _ => loadCode { imG with isa := 3 } != 0) = true ∧
    inCtx sQ (.load imG) (fun c => loadCode imG == 0 && (sQ.imagePlace 0 c imG).isNone) = true ∧
    inCtx (noLaunch sQ) (.unload 1) (fun c => c.progs.has 1) = true ∧
    (∀ e ∈ (noLaunch sQ).launches, e.2.ctx = 0 → e.2.prog = 1 → e.2.st = .done) ∧
    (let s : State := { sQ with launches := [(0, launch0)] }
     inCtx s (.unload 1) (fun c => c.progs.has 1) = true ∧ ∃ e ∈ s.launches, e.2.ctx = 0 ∧ e.2.prog = 1 ∧ e.2.st ≠ .done) := by
  decide +kernel
/-! ### Key-value records -/

theorem find_range {α : Type} (v : α) (n k : Nat) (h : k < n) : Tab.find ((List.range n).map (fun j => (j, v))) k = some v := by
  suffices ∀ (l : List Nat), k ∈ l → Tab.find (l.map (fun j => (j, v))) k = some v from this _ (List.mem_range.mpr h)
  intro l
  induction l with
  | nil => intro h; cases h
  | cons a l ih =>
    intro hm
    by_cases e : a = k
    · subst e; simp [Tab.find]
    · have : k ∈ l := by
        rcases List.mem_cons.mp hm with h | h
        · exact absurd h.symm e
        · exact h
      simpa [Tab.find, e] using ih this

/-- A table whose keys up to `hi` are all taken has no free one. -/
theorem full {α : Type} (v : α) (hi : Nat) (lo : Nat) : Tab.free ((List.range (hi + 1)).map (fun j => (j, v))) lo hi = none := by
  cases h : Tab.free ((List.range (hi + 1)).map (fun j => (j, v))) lo hi with
  | none => rfl
  | some k =>
    have := Tab.free_spec _ h
    rw [find_range v (hi + 1) k (by omega)] at this
    exact absurd this.1 (by simp)

/-- A private entry of 16 positions. -/
def entryW (base start : Nat) : W64 × W64 := (BitVec.ofNat 64 (2 ^ 62 + base), BitVec.ofNat 64 (start * 2 ^ 32))
/-- One layer, one head of 16 INT8 elements: 512 bytes for 16 positions. -/
def kvP : KvOpenPl :=
  { alloc := 1, off := 0, limit := 64, ring := 0, model := 7, domain := 0, layers := 1, heads := 1, hdim := 16, et := 4, entries := [] }
def kvR : KvRec := kvP.record 0 0 []
def kvR16 : KvRec := { kvR with len := 16, entries := [{ shared := false, sz := 0, base := 0x10800, start := 0 }] }
/-- Context 0 with a buffer of 32 tokens (handle 5). -/
def ctxK : Ctx := { ctxT [] with descs := (ctxT []).descs.put 5 { image := descIm 10 1 0x10400 1 [32] [1] } }
def sK (k : KvRec) : State := { sQ ctxK with kv := { recs := [(0, k)] } }

/-- O37: a record that opens, with none and with a ring of 16 positions; one against a full table; one with a bad field. -/
theorem wit_kv_open :
    inCtx (sQ ctxK) (.kvOpen kvP) (fun c => entriesOf kvP.entries == some [] && kvR.fieldsOk && kvR.fits c && kvR.covered 0 &&
      ({} : KvSt).recs.free 0 8191 == some 0) = true ∧
    (let p := { kvP with ring := 16, entries := [entryW 0x10800 0] }
     inCtx (sQ ctxK) (.kvOpen p) (fun c => match entriesOf p.entries with
       | some es => let k := p.record 0 c.part es; k.fieldsOk && k.fits c && k.covered 0 && es.all (k.entryOk c)
       | none => false) = true) ∧
    inCtx (sQ ctxK) (.kvOpen { kvP with limit := 15 }) (fun c => !({ kvP with limit := 15 }.record 0 c.part []).fieldsOk) = true := by
  decide +kernel

def sFull (n : Nat) : State := { sQ ctxK with kv := { recs := (List.range (n + 1)).map (fun j => (j, kvR)) } }

theorem sFull_free (n : Nat) : (sFull n).kv.recs.free 0 n = none := full kvR n 0

/-- O37: a record against a full table. -/
theorem wit_kv_full : (sFull 8191).kv.recs.free 0 8191 = none ∧ inCtx (sFull 8191) (.kvOpen kvP)
    (fun c => kvR.fieldsOk && kvR.fits c && kvR.covered 0) = true :=
  ⟨sFull_free 8191, by decide +kernel⟩

/-- O37: extended by a page up to LIMIT; a stale length; a shorter one; a cover too short; a shared entry touched; a ring. -/
theorem wit_kv_extend :
    (let k' : KvRec := { kvR16 with entries := kvR16.entries ++ [{ shared := false, sz := 0, base := 0x10A00, start := 16 }], len := 32 }
     inCtx (sK kvR16) (.kvExtend 0 16 32 [entryW 0x10A00 16] []) (fun c => (sK kvR16).kvRec 0 0 == some kvR16 &&
       entriesOf [entryW 0x10A00 16] == some [{ shared := false, sz := 0, base := 0x10A00, start := 16 }] &&
       (kvR16.touchedShared 32).isNone && kvR16.ring == 0 && k'.covered 32 && k'.entries.all (k'.entryOk c) && k'.fits c) = true) ∧
    inCtx (sK kvR16) (.kvExtend 0 15 16 [] []) = true ∧ inCtx (sK kvR16) (.kvExtend 0 16 15 [] []) = true ∧
    inCtx (sK kvR16) (.kvExtend 0 16 64 [] []) (fun _ => (kvR16.touchedShared 64).isNone && !({ kvR16 with len := 64 }.covered 64)) = true ∧
    (let k : KvRec := { kvR16 with entries := [{ shared := true, sz := 0, base := 0x10800, start := 0 }], len := 8 }
     inCtx (sK k) (.kvExtend 0 8 9 [] []) (fun _ => (k.touchedShared 9).isSome && (sK k).kvRec 0 0 == some k) = true) ∧
    (let k : KvRec := { kvR16 with ring := 32 }
     inCtx (sK k) (.kvExtend 0 16 32 [] []) (fun _ => k.ring != 0 && 32 - k.len ≤ k.ring - 16 && (sK k).kvRec 0 0 == some k) = true) := by
  decide +kernel

/-- O37: a match of two blocks whose first is in no node; a publication of one block; a record closed with and without a live launch; a
closing record whose launch has ended, and one whose launch lives. -/
theorem wit_kv_share :
    inCtx (sK kvR) (.kvMatch 0 5 32) (fun c => (sK kvR).kvRec 0 0 == some kvR && (match c.tokenBuf 5 32 with
      | some f =>
        let r := ((sK kvR).begun 1 (hdrOf (.kvMatch 0 5 32)) (.kvMatch 0 5 32) qctx).readTokens c f 0 32
        r.2.1 == .ok && ((sK kvR).kvHit kvR c (blockKey kvR.rootKey (r.2.2.take 16)) noNode (r.2.2.take 16)).isNone
      | none => false)) = true ∧
    inCtx (sK kvR16) (.kvPublish 0 5) (fun c => (match c.tokenBuf 5 16 with
      | some f => (((sK kvR16).begun 1 (hdrOf (.kvPublish 0 5)) (.kvPublish 0 5) qctx).readTokens c f 0 16).2.1 == .ok
      | none => false)) = true ∧
    inCtx (sK kvR) (.kvClose 0) (fun _ => (sK kvR).liveLaunches 0 == []) = true ∧
    (let s : State := { sK kvR with launches := [(0, launch0)] }
     inCtx s (.kvClose 0) (fun _ => s.liveLaunches 0 != []) = true) ∧
    (∀ x ∈ [{ launch0 with st := .done }, launch0],
      let s : State := { sK { kvR with closing := true, waits := [0] } with launches := [(0, x)] }
      (∃ k, s.kv.recs.find 0 = some k ∧ k.closing = true ∧ k.waits = [0]) ∧ s.launches.find 0 = some x) := by
  refine ⟨by decide +kernel, by decide +kernel, by decide +kernel, by decide +kernel, ?_⟩
  intro x hx
  simp only [List.mem_cons, List.not_mem_nil, or_false] at hx
  rcases hx with h | h <;> subst h <;> exact ⟨⟨_, rfl, rfl, rfl⟩, rfl⟩
/-! ### Skim, random, work -/

def qctx2 : Queue := { qctx with attrs := { skmode := 2 } }
def samp (a : QAttrs := {}) : Sample := { queue := 1, ctx := 0, part := 0, attrs := a }
/-- Two reference descriptors: 6 for X (two halves of 4 by 4) and 7 for Y (4 by 4). -/
def ctxM : Ctx :=
  { ctxT [] with
    descs := (ctxT []).descs ++ [(6, { image := descCopy (descIm 0 3 0x10800 1 [2, 4, 4] [16, 4, 1]) }),
      (7, { image := descCopy (descIm 0 3 0x10A00 1 [4, 4] [4, 1]) })]
    skims := [(1, { image := 0 })] }
def skimIm (x y slot : Nat) : BitVec 256 := BitVec.ofNat 256 (x * 2 ^ 48 + y * 2 ^ 32 + slot * 2 ^ 25)
def quota (n : Nat) : DictSt := { eff := [(okey 0x4014 1, .num n)] }
def sS (a : QAttrs := {}) : State := { sQ ctxM with samples := [(0, samp a)], dict := quota 2 }

/-- O38: samples begun with and without a schedule, at the quota, and past it; records good and with a bad reference; a step that trues and
one that does not; a query; an end. -/
theorem wit_skim_items :
    inCtx sS (.skimBegin [] []) (fun c => sS.samples.free 0 127 == some 1 && sS.cfg 0x4014 (c.part + 1) == 2) = true ∧
    (let s : State := { sS with queues := [(1, qctx2)] }
     let base := List.replicate 1023 127 ++ [255]
     inCtx s (.skimBegin base (List.replicate 64 0)) (fun _ => base.all (fun b => b.toNat ≤ 127 || b.toNat = 255) && base.length = 1024)
       qctx2 = true) ∧
    (let s : State := { sS with dict := quota 1 }
     inCtx s (.skimBegin [] []) (fun c => s.samples.free 0 127 == some 1 && s.cfg 0x4014 (c.part + 1) ≤ 1) = true) ∧
    inCtx sS (.skimRec (skimIm 6 7 0)) (fun c => skimImageOk (skimIm 6 7 0) && refsOk c 6 7 && sS.slotOf 0 0 == some (samp) &&
      (sS.keptSkims 0 c).free 1 65535 == some 2) = true ∧
    inCtx sS (.skimRec (skimIm 7 6 0)) (fun c => !refsOk c 7 6 && (sS.slotOf 0 0).isSome) = true ∧
    (∀ m ∈ [0, 1], inCtx (sS { skmode := m }) (.skimStep 0) (fun _ => ((sS { skmode := m }).slotOf 0 0).isSome) = true) ∧
    inCtx sS (.skimQuery 1) (fun c => c.skims.find 1 == some { image := 0 } && (sS.slotOf 0 0).isSome) = true ∧
    inCtx sS (.skimEnd 0) (fun _ => (sS.slotOf 0 0).isSome) = true := by decide +kernel

/-- O36: seeds at slot 15 and 16; a jump of unit 63, one that waits, one of a slot past 15, one that names no unit. -/
theorem wit_rng_items :
    (let s : State := { base with ctxs := [(0, ctxT [])], queues := [(1, qctx)], dies := [(0, { present := true }), (3, { present := true })] }
     (∀ k ∈ [15, 16], inCtx s (.rngSeed k 5 0) = true) ∧ inCtx s (.rngSeed 0 5 1) = true ∧
     inCtx s (.rngJump 15 3 (2 ^ 63) 0) (fun _ => (List.range 64).filter (fun u => flag (2 ^ 63 : W64) u && s.unitInService u) == [63]) =
       true ∧ inCtx s (.rngJump 16 3 1 0) = true ∧
     inCtx s (.rngJump 0 3 0 0) = true) ∧
    (let s : State := { sQ with launches := [(0, launch0)] }
     inCtx s (.rngJump 0 3 1 0) = true ∧ (∃ e ∈ s.launches, e.2.ctx = 0 ∧ ∃ u ∈ [0], e.2.st = .running u) ∧
       (List.range 64).filter (fun u => flag (1 : W64) u && s.unitInService u) = [0]) := by decide +kernel

def launchP : LaunchPl := { prog := 1, count := 1, ireg := 5, iv := true, dies := 1, pv := false, pin := 0, params := [7] }
def listOf (n : Nat) : CmdList := { queue := 1, entries := (List.replicate n (hdrOf .nop, .nop)), closed := true }
def sL (l : CmdList) (r : Option Nat := none) : State :=
  { sQ with lists := [(1, l)], queues := [(0, qadm), (1, { qctx with recording := r })] }

/-- O39: two launches by a die set, one on a unit by pin, one on a die that does not serve, one of no program; lists begun, ended with an
entry and with none, replayed once and while they run, with and without a patch. -/
theorem wit_work_items :
    (∀ p ∈ [launchP, { launchP with count := 0, pv := true, pin := 15, iv := false }],
      inCtx sQ (.launch p) (fun c => sQ.launchCode c p == 0 && (List.range (p.count + 1)).all (fun i => (p.diesOf i).any sQ.dieServes)) =
        true) ∧
    inCtx sQ (.launch { launchP with dies := 2 }) (fun c => sQ.launchCode c { launchP with dies := 2 } == 0 &&
      !(LaunchPl.diesOf { launchP with dies := 2 } 0).any sQ.dieServes) = true ∧
    inCtx sQ (.launch { launchP with prog := 9 }) (fun c => sQ.launchCode c { launchP with prog := 9 } != 0) = true ∧
    (soloIf sQ 1 qctx .listBegin = true ∧ sQ.lists.free 1 0xFFFFFFFF = some 1) ∧
    (∀ n ∈ [0, 1], soloIf (sL (listOf n) (some 1)) 1 { qctx with recording := some 1 } .listEnd = true ∧
      (sL (listOf n)).lists.find 1 = some (listOf n)) ∧
    inCtx (sL (listOf 1)) (.replay 1 none) (fun _ => (sL (listOf 1)).lists.find 1 == some (listOf 1)) = true ∧
    inCtx (sL { listOf 1 with running := some 3 }) (.replay 1 none) = true ∧
    (let l : CmdList := { queue := 1, entries := [(hdrOf (.launch launchP), .launch launchP)], closed := true }
     let p : Patch := { h0 := 2 ^ 32 + 2 ^ 16 + 1, h1 := 0, entries := [(63, 9)] }
     inCtx (sL l) (.replay 1 (some p)) (fun c => c.patchOk 1 l p) = true) := by decide +kernel

/-- A 1x1 convolution of a 1x1x4 image: source 6, destination 7, weight 8. -/
def ctxJ : Ctx :=
  { ctxT [] with
    descs := (ctxT []).descs ++ [(6, { image := descIm 1 3 0x10800 1 [1, 1, 4] [4, 4, 1] }),
      (7, { image := descCopy (descIm 1 3 0x10A00 1 [1, 1, 4] [4, 4, 1]) }), (8, { image := descIm 1 3 0x10C00 1 [1, 1, 1, 1] [1, 1, 1, 1] })] }
def jobW : BitVec 512 := BitVec.ofNat 512 (6 * 2 ^ 48 + 7 * 2 ^ 32 + 8 * 2 ^ 16)
def spin0 : SpinJob := { part := 0, queue := 1, item := 5, ctx := 0, job := jobW, seed := 0, lc := false, level := 0, startedAt := 0, stop := true }

/-- O39: a job that is accepted, one on a disabled die, one whose kernel does not fit. -/
theorem wit_spindle_run :
    inCtx (sQ ctxJ) (.spindleRun jobW) (fun c => (sQ ctxJ).jobCode c (jobOf jobW) == 0 && ((jobOf jobW).descs c).isSome) = true ∧
    (let s : State := { sQ ctxJ with dies := [(0, { present := true, disabled := true })] }
     inCtx s (.spindleRun jobW) (fun c => s.jobCode c (jobOf jobW) == 0 && (s.die 0).disabled) = true) ∧
    inCtx (sQ ctxJ) (.spindleRun (jobW + BitVec.ofNat 512 (2 ^ 125))) (fun c => (sQ ctxJ).jobCode c (jobOf (jobW + BitVec.ofNat 512
      (2 ^ 125))) != 0) = true := by decide +kernel

def sem5 : Sem := { part := 0, value := 5, failed := 0 }
def nop0 (h : Header) : QItem := { id := 4, hdr := h, body := .nop }
def sStart (h : Header) (cls : Nat := 1) : State :=
  { sQ with sems := [(2, sem5)], queues := [(1, { qctx with items := [nop0 h], attrs := { cls } })] }

/-- O40: a waiting NOP without a wait, with one that its semaphore just meets, one that it just misses, and one with a deadline to
come; the largest fields of a header in bytes; an item whose OP names none. -/
theorem wit_start_items :
    (∀ h ∈ [({} : Header), { wv := true, wsem := 2, wval := 5 }, { wv := true, wsem := 2, wval := 6 }],
      ∃ qu, (sStart h).queues.find 1 = some qu ∧ qu.items = [nop0 h] ∧ (sStart h).headerCode qu h .nop = 0 ∧
        (sStart h).sems.find 2 = some sem5) ∧
    (∃ qu, (sStart { dline := 1 } 0).queues.find 1 = some qu ∧ (sStart { dline := 1 } 0).headerCode qu { dline := 1 } .nop = 0 ∧
      (sStart { dline := 1 } 0).clock.refc < 1) ∧
    (let h : Header := { plen := 0xFFFF, wsem := 0x3FFF, ssem := 0x3FFF }
     h.plen < 2 ^ 16 ∧ h.wsem < 2 ^ 14 ∧ h.ssem < 2 ^ 14 ∧ h.rsv = 0) ∧
    (sQ.runs = true ∧ sQ.queues.find 1 = some qctx ∧ qctx.holdsItem { plen := 3 } = true ∧ qctx.items = [] ∧ qctx.halted = false ∧
      qctx.disabled = false ∧ qctx.waitRecs = [] ∧ itemOps.contains (0xFF : Byte).toNat = false) := by
  refine ⟨?_, ⟨_, rfl, by decide, by decide⟩, by decide, by decide +kernel⟩
  intro h hh
  simp only [List.mem_cons, List.not_mem_nil, or_false] at hh
  rcases hh with e | e | e <;> subst e <;> exact ⟨_, rfl, rfl, by decide +kernel, rfl⟩

/-- 15 Table 15.6, R368: damage in row 1 of a picture of 8 rows, whose last two the time bound leaves; a picture with no reference. -/
theorem test_lost_rows :
    let r : SrecF := { srecOf 0 with h := 8, bd10 := true }
    r.lostRows true [1, 9] (some 2) = [1, 6, 7] ∧ r.lostRows false [1] none = [] ∧ r.grey 4 = [0, 2, 0, 2] := by decide +kernel

-- 13 Table 13.5: OP 0x09 in bits 63 to 56, PLEN in 47 to 32, TAG in 31 to 0; WV is bit 63, WSEM 61 to 48 of the next word.
theorem test_header : headerOf (natLe 8 0x0900000200000007 ++ natLe 8 0x8005000000000000 ++ natLe 8 6 ++ List.replicate 40 0) =
    (0x09, { plen := 2, tag := 7, wv := true, wsem := 5, wval := 6 }) := by decide +kernel

/-- O41: a latency-critical item a count before its deadline, at it, and at it under DPOL 1 and 2; its queue holds it alone. -/
theorem wit_miss :
    let s (c : W64) (dpol : Nat) : State := { sQ with
      queues := [(1, { qctx with items := [nop0 { dline := 9 }], attrs := { cls := 0, dpol } })], clock := { refc := c } }
    (∀ dpol ∈ [0, 1, 2, 3], ∃ qu, (s 9 dpol).queues.find 1 = some qu ∧ qu.item 4 = some (nop0 { dline := 9 }) ∧
      ((nop0 { dline := 9 }).attrsIn qu).dpol = dpol ∧ ((nop0 { dline := 9 }).attrsIn qu).cls = 0 ∧ qu.items = [nop0 { dline := 9 }] ∧
      (nop0 { dline := 9 }).missed = false ∧ (9 : W64) ≤ (s 9 dpol).clock.refc ∧ (s 9 dpol).framed 1 4 = false ∧ qu.halted = false ∧
      qu.waitRecs = [] ∧ ((s 9 dpol).launches.map (·.1)).Nodup) ∧
    ¬ (9 : W64) ≤ (s 8 0).clock.refc := by
  refine ⟨?_, by decide⟩
  intro d hd
  simp only [List.mem_cons, List.not_mem_nil, or_false] at hd
  rcases hd with e | e | e | e <;> subst e <;>
    exact ⟨_, rfl, by decide +kernel, rfl, rfl, rfl, rfl, by decide, by decide +kernel, rfl, rfl, by decide⟩

/-- The job at its first row, of two rows. -/
def spin2 : SpinJob := { spin0 with job := jobW, stop := false }
def gJ : JobD :=
  ⟨descOf (descIm 1 3 0x10800 1 [1, 1, 4] [4, 4, 1]), descOf (descCopy (descIm 1 3 0x10A00 1 [1, 1, 4] [4, 4, 1])),
    descOf (descIm 1 3 0x10C00 1 [1, 1, 1, 1] [1, 1, 1, 1]), none⟩
def sJob (x : SpinJob) : State :=
  { sQ ctxJ with spin := [(0, [x])], dies := [(0, { present := true, spinCur := some (1, 5) })]
                 queues := [(0, qadm), (1, { qctx with items := [{ id := 5, hdr := {}, body := .spindleRun jobW, st := .started }] })] }

def fillJ (x : SpinJob) : State × AccR × SpinBuf := (sJob x).spinFill 0 ctxJ (jobOf jobW) gJ x [0] 0
def elemsJ (s : State) (b : SpinBuf) : State × AccR × Cnt :=
  State.spinElems { s with spinBuf := s.spinBuf.put 0 b } ctxJ (jobOf jobW) gJ b 0 0 [(0, 0), (0, 1), (0, 2), (0, 3)] {}

/-- O42: the row of a job that stops after it, and of one that goes on to the row, strip or group behind it; a die without a job, and
one whose engine is out. -/
theorem wit_spindle_row :
    (∀ x ∈ [spin0, spin2], (sJob x).runs = true ∧ (sJob x).spinJob 0 = some (0, x) ∧ (sJob x).ctxs.find 0 = some ctxJ ∧
      ((sJob x).die 0).spindleOut = false ∧ ((sJob x).die 0).failed = false) ∧
    (∀ x ∈ [spin0, spin2], ∃ s0 b, fillJ x = (s0, .ok, b) ∧ ∃ s1 k, elemsJ s0 b = (s1, .ok, k)) ∧
    (sQ.spin.get [] 0 = [] ∧ (({ sQ with dies := [(0, { present := true, spindleOut := true })] } : State).die 0).spindleOut = true) := by
  have h : ∀ x ∈ [spin0, spin2], (fillJ x).2.1 = .ok ∧ (elemsJ (fillJ x).1 (fillJ x).2.2).2.1 = .ok := by decide +kernel
  refine ⟨by decide +kernel, fun x hx => ?_, by decide +kernel⟩
  exact triple_with (fillJ x) .ok (h x hx).1 (fun s0 b => ∃ s1 k, elemsJ s0 b = (s1, .ok, k)) (triple_of _ _ (h x hx).2)
/-! ### Contexts, saves, disables -/

theorem spans_lt (f : Nat) : ∀ a n, ∀ e ∈ spansF f a n, e.1 < a + n := by
  induction f with
  | zero => intro a n e h; simp [spansF] at h
  | succ f ih =>
    intro a n e h
    unfold spansF at h
    split at h
    · simp at h
    · rcases List.mem_cons.mp h with h | h
      · subst h; simp only; omega
      · have := ih _ _ e h; omega

/-- The one allocation of a context, mapped from 0 on with pages of 2 MiB onto a host, is what its walk finds. -/
theorem walk_host {c : Ctx} {a : Alloc} {p b va : Nat} (hc : c.allocs = [(1, a)]) (hk : a.kind = .host p b) (hv : a.va = 0)
    (hg : a.page = 0x200000) (hlt : va < a.size) (h48 : va < 2 ^ 48) :
    c.walk va = some (.host p (b + va), a.wr && !a.locked) := by
  have here (l : Nat) (hl : 0 < pageSpan l) : c.allocs.filter (fun e =>
      e.2.va < va / pageSpan l * pageSpan l + pageSpan l && va / pageSpan l * pageSpan l < e.2.va + e.2.size) = [(1, a)] := by
    have h : va / pageSpan l * pageSpan l ≤ va := Nat.div_mul_le_self _ _
    rw [hc, List.filter_cons_of_pos]
    · rfl
    · simp only [hv, Bool.and_eq_true, decide_eq_true_eq]
      omega
  have up (l : Nat) (hl : 0 < pageSpan l) (h4 : (l == 4) = false) (h3 : (l == 3) = false) :
      c.pte l va = { v := true, addr := c.tables.get 0 (tableKey (l + 1) (va / pageSpan l * pageSpan l)) } := by
    unfold Ctx.pte
    simp only [here l hl, h4, h3]
    rfl
  have leaf : c.pte 3 va = a.leaf (va / pageSpan 3 * pageSpan 3) := by
    unfold Ctx.pte
    simp only [here 3 (by decide)]
    simp [hg]
  have hl : a.leaf (va / pageSpan 3 * pageSpan 3) =
      { v := true, kind := 2, wr := a.wr && !a.locked, port := p, addr := b + va / pageSpan 3 * pageSpan 3 } := by
    unfold Alloc.leaf Alloc.loc
    simp only [hk, hv, Nat.sub_zero]
  have hs : b + va / pageSpan 3 * pageSpan 3 + va % pageSpan 3 = b + va := by
    rw [Nat.add_assoc, Nat.div_add_mod']
  unfold Ctx.walk
  rw [if_pos h48]
  simp only [Ctx.walkF, up 1 (by decide) rfl rfl, up 2 (by decide) rfl rfl, leaf, hl, hs]
  rfl

/-- A write to a host allocation of an active port succeeds, whatever its bytes. -/
theorem host_write (c : Ctx) (a : Alloc) (p b : Nat) (hc : c.allocs = [(1, a)]) (hk : a.kind = .host p b) (hv : a.va = 0)
    (hg : a.page = 0x200000) (hs : a.size ≤ 2 ^ 48) (hw : (a.wr && !a.locked) = true) : ∀ (l : List (Nat × Nat)) (bs : List Byte) (s : State),
    (s.port p).active = true → (∀ e ∈ l, e.1 < a.size) → (s.ctxWriteF c l bs).2 = .ok := by
  intro l
  induction l with
  | nil => intro bs s _ _; rfl
  | cons e l ih =>
    obtain ⟨va, n⟩ := e
    intro bs s hp hl
    have hlt : va < a.size := hl (va, n) (by simp)
    have hwalk := walk_host hc hk hv hg hlt (by omega)
    rw [hw] at hwalk
    unfold State.ctxWriteF
    rw [hwalk]
    simp only [hp, Bool.not_true, Bool.false_eq_true, if_false]
    exact ih _ _ hp (fun e h => hl e (List.mem_cons_of_mem _ h))

def hostAl : Alloc := { va := 0, size := 2 ^ 44, page := 0x200000, kind := .host 0 0, wr := true, runs := [] }
/-- The dictionary of a module whose partition 0 has two of everything and 64 frames on a stack of each die. -/
def two : DictSt :=
  { eff := [(okey 0x4010 1, .num 1), (okey 0x4011 1, .num 2), (okey 0x4012 1, .num 3), (okey 0x4013 1, .num 2), (okey 0x4015 1, .num 0x0300),
      (okey 0x4016 1, .arr [64, 5 * 2 ^ 56 + 64, 10 * 2 ^ 56 + 64, 15 * 2 ^ 56 + 64])] }
def sA (cs : Tab Ctx := [(0, ctxT [])]) (ls : Tab Launch := []) : State :=
  { base with
    ctxs := cs, queues := [(0, qadm), (1, qctx)], launches := ls, dict := two
    dies := [(0, { present := true, mask := 0xFF00 }), (1, { present := true }), (2, { present := true }), (3, { present := true })] }

def foot (n : Nat) : List Nat := [n, 0, 0, 0]
def slice0 : List W16 := [0, 0, 0, 0]
def slice8 : List W16 := [0x0100, 0, 0, 0]

/-- O43: a context that fits; with bring-up on; at the partition's count; a footprint past 384; one whose save area finds no room. -/
theorem wit_ctx_create :
    inAdm sA (.ctxCreate (foot 384) slice0) (sA.start.bringUp != 1 && sA.openCtxs 0 < sA.cfg 0x4011 1 && sA.footOk 0 (foot 384) slice0 &&
      (sA.takeSave 0 (foot 384) slice0).isSome && sA.ctxs.free 0 16383 == some 1) = true ∧
    (let s : State := { sA with start := { sA.start with bringUp := 1 } }
     inAdm s (.ctxCreate (foot 1) slice8) = true) ∧
    (let s := sA [(0, ctxT []), (1, ctxT [])]
     inAdm s (.ctxCreate (foot 1) slice8) (s.cfg 0x4011 1 ≤ s.openCtxs 0) = true) ∧
    inAdm sA (.ctxCreate (foot 385) slice8) (!sA.footOk 0 (foot 385) slice8) = true ∧
    (let s : State := { sA with dict := { eff := two.eff.take 5 } }
     inAdm s (.ctxCreate (foot 1) slice8) (s.footOk 0 (foot 1) slice8 && (s.takeSave 0 (foot 1) slice8).isNone &&
       s.openCtxs 0 < s.cfg 0x4011 1) = true) ∧
    (sA.takeSave 0 (foot 384) slice0).any (fun areas =>
      let y : Ctx := { part := 0, fsr := foot 384, slices := slice0, slotBase := sA.newSlots (foot 384), saveAreas := areas }
      (({ sA with ctxs := sA.ctxs.put 1 y } : State).tablesFor 0 y).isSome) = true := by decide +kernel

/-- O43: a context that no queue uses, idle and with a launch that runs, and one that a queue uses. -/
theorem wit_ctx_destroy :
    (let s : State := { sA with queues := [(0, qadm)] }
     inAdm s (.ctxDestroy 0) (s.queuesOf 0 == [] && (s.ctxOf 0 0).isSome && s.scopeIdle (.ctx 0) && s.disables.isEmpty && s.codecs.isEmpty) =
       true ∧
     (let s : State := { s with launches := [(0, launch0)] }
      inAdm s (.ctxDestroy 0) (s.queuesOf 0 == [] && (s.ctxOf 0 0).isSome && !s.scopeIdle (.ctx 0)) = true)) ∧
    inAdm sA (.ctxDestroy 0) (sA.queuesOf 0 != [] && (sA.ctxOf 0 0).isSome) = true := by decide +kernel

/-- Context 0 with an allocation on the host behind port 0, not resident; the port's link is up. -/
def ctxH : Ctx := { ctxT [] with allocs := [(1, hostAl)], resident := [] }
def sH (c : Ctx := ctxH) (ls : Tab Launch := []) : State := { sA [(0, c)] ls with ports := [(0, { state := 4 })] }

theorem host_save (s : State) (bs : List Byte) (h : ∀ e ∈ spans hostAl.va bs.length, e.1 < hostAl.size)
    (hp : (s.port 0).active = true := by decide +kernel) : ∃ s2, s.ctxWrite (ctxH.unlocked 1) hostAl.va bs = (s2, .ok) :=
  ⟨(s.ctxWrite (ctxH.unlocked 1) hostAl.va bs).1, Prod.ext rfl
    (host_write (ctxH.unlocked 1) { hostAl with locked := false, wr := true } 0 0 rfl rfl rfl rfl (by decide) rfl _ bs s hp h)⟩

/-- O43: a save refused for its context's mark and for an open record, one that asks a running launch to part, and one that writes its
image, whatever its length and bytes. -/
theorem wit_ctx_save :
    (let c : Ctx := { ctxH with notRestorable := true }
     inAdm (sH c) (.ctxSave 0 1) ((sH c).ctxOf 0 0 == some c && c.afterSave.isEmpty) = true) ∧
    (let s : State := { sH with kv := { recs := [(0, kvR)] } }
     inAdm s (.ctxSave 0 1) (s.saveBusy 0 && !ctxH.notRestorable) = true) ∧
    (let s := sH ctxH [(0, launch0)]
     inAdm s (.ctxSave 0 1) (!s.saveBusy 0 && s.moving 0) = true) ∧
    inAdm sH (.ctxSave 0 1) (!sH.saveBusy 0 && !sH.moving 0 && ctxH.resident.isEmpty && (sH.ctxOf 0 0 == some ctxH) &&
      ctxH.allocs.find 1 == some hostAl) = true ∧
    4096 * (Config.freeNat sH.fresh (2 ^ 32) % (2 ^ 32 - 1) + 1) ≤ hostAl.size ∧
    (let len := Config.freeNat sH.fresh (2 ^ 32) % (2 ^ 32 - 1) + 1
     let body := natLe 8 sH.unitMap.toNat ++ Config.freeBytes sH.fresh (4096 * len - 0x48)
     let h := hdrOf (.ctxSave 0 1)
     ∃ s2, ((sH.begun 0 h (.ctxSave 0 1) qadm).draw.2).ctxWrite (ctxH.unlocked 1) hostAl.va (sH.imageHead ctxH len ++ sha3_256 body ++ body) =
       (s2, .ok)) := by
  refine ⟨by decide +kernel, by decide +kernel, by decide +kernel, by decide +kernel, ?_, ?_⟩
  · have := Nat.mod_lt (Config.freeNat sH.fresh (2 ^ 32)) (show 2 ^ 32 - 1 > 0 by decide)
    simp only [hostAl]
    omega
  · intro len body h
    have hd : (sha3_256 body).length ≤ 32 :=
       Nat.le_of_eq (natLe_length _ _)
    have hb : body.length ≤ 4096 * len := by
      simp only [body, List.length_append, natLe_length, Config.freeBytes, List.length_map, List.length_range]
      omega
    have hh : (sH.imageHead ctxH len).length = 32 := by
      simp only [State.imageHead, List.length_append, natLe_length]
      rfl
    have hn : len < 2 ^ 32 := by
      have := Nat.mod_lt (Config.freeNat sH.fresh (2 ^ 32)) (show 2 ^ 32 - 1 > 0 by decide)
      omega
    exact host_save _ _ (by
      intro e he
      have := spans_lt _ _ _ e he
      simp only [List.length_append, hh, hostAl] at this ⊢
      omega)

/-! A saved image of one page in the slice that allocation 1 maps: its header, and zeros. -/

def zeros : List Byte := List.replicate 4032 0
/-- SHA3-256 of the 4,032 zeros. -/
def dg0 : List Byte := natLe 32 0xe49f79decaa7bca45fd9ebb411ecbad4bf0fc9cd96cc1b581154784795ce1c78

def cellsAt (a : Nat) (bs : List Byte) : List Host.Cell :=
  ((List.zip (List.range bs.length) bs).filter (fun e => e.2 != 0)).map (fun e => (a + e.1, e.2))
def saved0 : Saved :=
  { digest := dg0, ctx := { ctxT [] with fsr := foot 2, slices := slice0, allocs := [(1, { hostAl with size := 0x200000 })] }, launches := [launch0], slots := [],
    clean := true, unitmap := 0 }
def sR (dg : List Byte) : State :=
  { sA with
    mem := { cells := cellsAt (slmBase + sliceBytes * 8) (natLe 8 (2 * 2 ^ 48 + 1) ++ natLe 8 2 ++ List.replicate 16 0 ++ dg) }
    saved := [saved0] }
def resB : ItemBody := .ctxRestore 1 0
def bR (dg : List Byte) : State := (sR dg).begun 0 (hdrOf resB) resB qadm

/-- The pieces of a read lie past the listed cells of device memory. -/
def past (s : State) (c : Ctx) (ps : List (Nat × Nat)) : Bool :=
  s.mem.junk.isEmpty && ps.all (fun p => match c.walk p.1 with
    | some (.dev x, _) => s.mem.cells.all (fun e => e.1 < x)
    | some (.host _ _, _) => false
    | none => true)

theorem past_zeros {s : State} {c : Ctx} {a n : Nat} (h : past s c (spans a n) = true) (hn : (s.ctxRead c a n).2.2.length = n) :
    (s.ctxRead c a n).2.2 = List.replicate n 0 := by
  simp only [past, Bool.and_eq_true, List.isEmpty_iff, List.all_eq_true] at h
  refine List.eq_replicate_iff.mpr ⟨hn, ctxReadF_past c (spans a n) s h.1 (fun p hp => ?_)⟩
  have := h.2 p hp
  split <;> rename_i e <;> rw [e] at this
  · simpa using this
  · exact absurd this (by simp)
  · trivial

def hdR (dg : List Byte) : State × AccR × List Byte := (bR dg).ctxRead (ctxT []) 0x10000 0x48
def bodyR (dg : List Byte) : State × AccR × List Byte := (hdR dg).1.ctxRead (ctxT []) 0x10040 4032

/-- O44: the image's header, its geometry and the bounds of its body, with the digest of its bytes and with another. -/
theorem wit_restore_reads : ∀ dg ∈ [dg0, zeros.take 32], inAdm (sR dg) resB ((hdR dg).2.1 == .ok &&
    leNat ((hdR dg).2.2.take 8) == 2 * 2 ^ 48 + 1 && ((hdR dg).2.2.drop 0x20).take 0x20 == dg && (bodyR dg).2.1 == .ok &&
    (bodyR dg).2.2.length == 4032 && past (hdR dg).1 (ctxT []) (spans 0x10040 4032) &&
    !(hdR dg).1.geometryBad (leNat ((hdR dg).2.2.take 8)) (leNat (((hdR dg).2.2.drop 8).take 8))
      (BitVec.ofNat 64 (leNat ((hdR dg).2.2.drop 0x40)))) = true := by decide +kernel

/-- O44: the digest of the image is that of its body; the other is not. -/
theorem wit_restore_digest : (bodyR dg0).2.2 = zeros ∧ sha3_256 zeros = dg0 ∧ dg0 ≠ zeros.take 32 :=
  ⟨past_zeros (by decide +kernel) (by decide +kernel), by decide +kernel, by decide +kernel⟩

/-- The state with the restored context entered. -/
def withCtx (s : State) (areas : List (List (Nat × Nat))) : State :=
  let c : Ctx := { part := 0, fsr := saved0.ctx.fsr, slices := saved0.ctx.slices, slotBase := s.newSlots saved0.ctx.fsr, saveAreas := areas }
  { s with ctxs := s.ctxs.put 1 c }

/-- What a restore builds one on another: the allocations, the slots, the programs, and at last the page tables. -/
def restoreRoom (s : State) (areas : List (List (Nat × Nat))) : Option (List Nat) :=
  let hold : Ctx := { part := 0, fsr := saved0.ctx.fsr, slices := saved0.ctx.slices, slotBase := s.newSlots saved0.ctx.fsr, saveAreas := areas }
  (State.remap (withCtx s areas) 0 saved0.ctx.allocs).bind fun (s3, allocs) =>
    (({ s3 with ctxs := s3.ctxs.filter (fun e => e.1 < 100000) }).placeSlots 1 0 saved0.slots).bind fun (s4, nums) =>
      (s4.placeProgs 1 (saved0.rebuilt hold allocs nums) (saved0.programs hold)).bind fun z =>
        (({ s4 with ctxs := s4.ctxs.put 1 z }).tablesFor 0 z).map fun _ => [nums.length]

/-- O44: the room the restored context finds. -/
theorem wit_restore_room :
    let s := (bodyR dg0).1
    (s.saved.find? (fun e => e.digest == dg0)) = some saved0 ∧ s.openCtxs 0 < s.cfg 0x4011 1 ∧
      s.footOk 0 saved0.ctx.fsr saved0.ctx.slices = true ∧ s.foreignPort 0 saved0.ctx.allocs = false ∧
      s.ctxs.free 0 16383 = some 1 ∧
      ∃ areas, s.takeSave 0 saved0.ctx.fsr saved0.ctx.slices = some areas ∧
        (restoreRoom s areas).isSome = true :=
  ⟨by decide +kernel, by decide +kernel, by decide +kernel, by decide +kernel, by decide +kernel,
    [[(0x7E80000, 0x180000)], [(5 * stackRange + 0x7F00000, 0x100000)], [(10 * stackRange + 0x7F00000, 0x100000)],
      [(15 * stackRange + 0x7F00000, 0x100000)]],
    by decide +kernel, by decide +kernel⟩
/-! ### Disables, queues, objects, memory, codec streams -/

def sems2 : Tab Sem := [(2, sem5), (3, { part := 1, value := 0, failed := 0 })]
/-- A CTX-SAVE of context 0 that has started, in another admin queue. -/
def saveItem : QItem := { id := 9, hdr := hdrOf (.ctxSave 0 1), body := .ctxSave 0 1, st := .started }

/-- O44: a context disable with its fence, while a save is in progress, and one whose fence is another partition's; a queue disable. -/
theorem wit_disable_items :
    (let s : State := { sA with queues := [(0, qadm)], sems := sems2 }
     inAdm s (.ctxDisable 0 2 7) ((s.ctxOf 0 0).isSome && !s.saving 0 && s.queuesOf 0 == []) = true ∧
     inAdm s (.ctxDisable 0 3 7) ((s.ctxOf 0 0).isSome) = true ∧ (∃ m, s.sems.find 3 = some m ∧ m.part ≠ 0)) ∧
    (let s : State := { sA [(0, { ctxT [] with notRestorable := true })] with sems := sems2 }
     inAdm s (.ctxDisable 0 2 7) ((s.ctxOf 0 0).any (·.notRestorable)) = true ∧ inAdm s (.qDisable 1 2 7) (s.spoilt (some 0)) = true ∧
       inAdm s (.qSet 1 {} true) (s.spoilt (some 0)) = true ∧ inAdm s (.memFree 0 1) ((s.ctxOf 0 0).any (·.notRestorable)) = true) ∧
    (let s : State := { sA with queues := [(0, qadm), (4, { qadm with items := [saveItem] })], sems := sems2 }
     inAdm s (.ctxDisable 0 2 7) (s.saving 0 && (s.ctxOf 0 0).isSome) = true) ∧
    (let s : State := { sA with sems := sems2 }
     inAdm s (.qDisable 1 2 7) ((s.queueOf 0 1) == some qctx && !s.saving 0) = true ∧ inAdm s (.qDisable 1 3 7) = true ∧ s.spoilt (some 0) = false) := by
  exact ⟨⟨by decide +kernel, by decide +kernel, _, rfl, by decide⟩, by decide +kernel, by decide +kernel, by decide +kernel, by decide +kernel⟩

/-- O45: a queue's disable whose queue is idle, one that still has an item at 2 ms less one count, and one at 2 ms. -/
theorem wit_disables :
    let d : Disable := { scope := .queue 1, fence := some (2, 7), at' := 0 }
    let s (items : List QItem) (now : W64) : State :=
      { sA with disables := [(0, d)], queues := [(0, qadm), (1, { qctx with items })], clock := { refc := now }, sems := sems2 }
    (s [] 0).disables.find 0 = some d ∧ (s [] 0).scopeIdle d.scope = true ∧ (s [] 0).innerDisables d.scope = [] ∧
    (s [nop0 {}] 199999).scopeIdle d.scope = false ∧ (s [nop0 {}] 199999).now < 0 + 200000 ∧
    0 + 200000 ≤ (s [nop0 {}] 200000).now ∧ (s [nop0 {}] 200000).scopeIdle d.scope = false ∧ d.timedOut = false ∧
    (∀ e ∈ (s [nop0 {}] 200000).queues, ∀ i ∈ e.2.items, (s [nop0 {}] 200000).late e.2 i = false) ∧ (∀ c, d.scope ≠ .ctx c) :=
  ⟨by decide +kernel, by decide +kernel, by decide +kernel, by decide +kernel, by decide +kernel, by decide +kernel, by decide +kernel,
    rfl, by decide +kernel, fun _ h => by cases h⟩

/-- O46: queues created, at the partition's count, with a bad attribute and in a context marked not restorable; set, with a bad
attribute, and while disabled; destroyed when disabled and not; objects created, at the count, destroyed, and another partition's. -/
theorem wit_queue_items :
    (let b (s : State) : Nat := (s.begun 0 (hdrOf (.qCreate 0 {} tr0)) (.qCreate 0 {} tr0) qadm).openQueues 0
     inAdm sA (.qCreate 0 {} tr0) ((sA.ctxOf 0 0).isSome && ({} : QAttrs).ok && tr0.ok ({} : QAttrs).depth && b sA < sA.cfg 0x4012 1 &&
       sA.queues.free 0 65535 == some 2) = true ∧
     (let s : State := { sA with queues := sA.queues ++ [(2, qctx)] }
      inAdm s (.qCreate 0 {} tr0) (s.cfg 0x4012 1 ≤ b s) = true)) ∧
    inAdm sA (.qCreate 0 { age := 9999 } tr0) (!({ age := 9999 } : QAttrs).ok) = true ∧
    (let s := sA [(0, { ctxT [] with notRestorable := true })]
     inAdm s (.qCreate 0 {} tr0) ((s.ctxOf 0 0).map (·.notRestorable) == some true) = true) ∧
    inAdm sA (.qSet 1 {} true) (sA.queueOf 0 1 == some qctx && !sA.disabling 1 && ({} : QAttrs).depth ≤ 2 ^ qctx.tr.cqlog) = true ∧
    inAdm sA (.qSet 1 { bt := 129 } true) (!({ bt := 129 } : QAttrs).ok) = true ∧
    (let s : State := { sA with disables := [(0, { scope := .queue 1, fence := none, at' := 0 })] }
     inAdm s (.qSet 1 {} false) (s.disabling 1) = true ∧ inAdm s (.qDestroy 1) (s.disabling 1) = true) ∧
    inAdm sA (.qDestroy 1) (!qctx.disabled) = true ∧
    (let s : State := { sA with queues := [(0, qadm), (1, { qctx with disabled := true })] }
     inAdm s (.qDestroy 1) ((s.queueOf 0 1).isSome && !s.disabling 1) = true) ∧
    (let s : State := { sA with sems := sems2 }
     inAdm s (.semCreate 5) (s.sems.free 0 16383 == some 0 && s.cfg 0x4013 1 == 2) = true ∧ inAdm s (.semDestroy 2) = true ∧
       inAdm s (.semDestroy 3) = true) ∧
    (let s : State := { sA with sems := sems2 ++ [(4, sem5)] }
     inAdm s (.semCreate 5) ((s.sems.filter (fun e => e.2.part == 0)).length == 2) = true) := by decide +kernel

/-- O46: device memory to the last page, more than there is, a slice of the footprint and one that is not, an overlap, a bad base; an
allocation that nothing names and one that a descriptor names. -/
theorem wit_mem_items :
    let c : Ctx := { ctxT [] with slices := [0x0100, 0, 0, 0], allocs := [(1, alloc0), (2, { alloc0 with va := 0x40000 })] }
    let s := sA [(0, c)]
    let dev (size : Nat) : ItemBody := .memAlloc 0 0x200000 size 0x200000 (.device 1) true
    let room (size : Nat) : Option (List (Nat × Nat)) := takePages 0x200000 (s.freeRanges 0 (fun k => flag (1 : BitVec 20) k)) size
    inAdm s (dev 0x8000000) (s.allocOk 0 0x200000 0x8000000 0x200000 (.device 1) && (room 0x8000000).isSome &&
      c.allocs.free 1 0xFFFFFFFF == some 3 && ({ sA [(0, { c with allocs := [] })] with dict := two }.tablesFor 0
        { c with allocs := [(3, { alloc0 with va := 0x200000, size := 0x200000, page := 0x200000 })] }).isSome) = true ∧
    inAdm s (dev 0x8200000) ((room 0x8200000).isNone && s.allocOk 0 0x200000 0x8200000 0x200000 (.device 1)) = true ∧
    inAdm s (.memAlloc 0 0x200000 0x10000 0x10000 (.slice 0 8) true) (s.allocOk 0 0x200000 0x10000 0x10000 (.slice 0 8) &&
      flag (c.slices.getD 0 0) 8) = true ∧
    inAdm s (.memAlloc 0 0x200000 0x10000 0x10000 (.slice 0 9) true) (!flag (c.slices.getD 0 0) 9) = true ∧
    inAdm s (.memAlloc 0 0x10000 0x10000 0x10000 (.device 1) true) (c.allocs.any (fun e => e.2.va < 0x20000 && 0x10000 < e.2.va + e.2.size))
      = true ∧
    inAdm s (.memAlloc 0 1 0x10000 0x10000 (.device 1) true) (!s.allocOk 0 1 0x10000 0x10000 (.device 1)) = true ∧
    inAdm s (.memFree 0 2) (!s.allocNamed 0 2 { c with descs := s.keptDescs 0 c } { alloc0 with va := 0x40000 }) = true ∧
    inAdm s (.memFree 0 1) (s.allocNamed 0 1 { c with descs := s.keptDescs 0 c } alloc0) = true := by decide +kernel

/-- A decoding stream of 64 by 64 with two buffers, in device memory. -/
def decW : BitVec 512 := BitVec.ofNat 512 (2 * 2 ^ 62 + 2 ^ 60 + 2 ^ 52 + 64 * 2 ^ 36 + 64 * 2 ^ 22)
def pool2 : List (W64 × W64) := [(0x100000, BitVec.ofNat 64 (2 ^ 32)), (0x110000, BitVec.ofNat 64 (2 ^ 32))]
def stream0 : Stream :=
  { ctx := 0, queue := 1, srec := decW, pool := [{ base := 0x100000, pitch := 256 }, { base := 0x110000, pitch := 256, out := true }] }
def ctxC : Ctx :=
  { ctxT [] with
    allocs := [(1, { va := 0x100000, size := 0x100000, page := 0x10000, kind := .device 1, wr := true, runs := [(0, 0x100000)] })] }
def frameW (strm : Nat) : BitVec 512 := BitVec.ofNat 512 (strm * 2 ^ 56)
def frame0 : FrameRun := { stream := 0, queue := 1, item := 4, startAt := 0, buf := some 0, stop := true }
def cItem : QItem := { id := 4, hdr := hdrOf (.codecFrame (frameW 0)), body := .codecFrame (frameW 0), st := .started }
def sC (g : Engine) : State :=
  { sA [(0, ctxC)] with codecs := [(0, g)], dies := (List.range 6).map (fun d => (d, { present := true })) }

/-- O47: streams opened, in bring-up, with a bad record, over the same buffer twice; a frame good and bad, on the last handle of engine 0; a
release; a close without a frame in progress and with one. -/
theorem wit_codec_items :
    inCtx (sC {}) (.codecOpen decW pool2) (fun c => (sC {}).engineServes 0 && (srecOf decW).ok && pool2.length == (srecOf decW).nbuf &&
      match poolsOf (srecOf decW) pool2 with
      | some bs => bs.all (fun b => c.devWritable b.base (b.size 64)) && disjointAll 64 bs
      | none => false) = true ∧
    (let s : State := { sC {} with start := { (sC {}).start with bringUp := 1 } }
     inCtx s (.codecOpen decW pool2) (fun _ => s.start.bringUp == 1) = true) ∧
    inCtx (sC {}) (.codecOpen decW (pool2.take 1)) (fun _ => (srecOf decW).nbuf != 1) = true ∧
    inCtx (sC {}) (.codecOpen decW (pool2.take 1 ++ pool2.take 1)) (fun _ => match poolsOf (srecOf decW) (pool2.take 1 ++ pool2.take 1) with
      | some bs => !disjointAll 64 bs
      | none => false) = true ∧
    (let s := sC { streams := [(63, stream0)] }
     inCtx s (.codecFrame (frameW 63)) (fun c => s.streamOf 0 63 == some stream0 && (srecOf decW).sourceOk c (frameOf (frameW 63)) &&
       (frameOf (frameW 63)).rsv == 0 && (frameOf (frameW 63)).rep % 32 == 0) = true ∧
     inCtx s (.codecFrame (frameW 63 + BitVec.ofNat 512 (2 ^ 127))) (fun c => !(srecOf decW).sourceOk c (frameOf (frameW 63 + BitVec.ofNat 512
       (2 ^ 127))) && (frameOf (frameW 63 + BitVec.ofNat 512 (2 ^ 127))).rsv == 0) = true ∧
     inCtx s (.codecRelease 63 2) (fun _ => (s.streamOf 0 63).isSome) = true ∧
     inCtx s (.codecClose 63) (fun _ => stream0.ready.isEmpty && (s.engine 0).cur.isNone) = true) ∧
    (let s := sC { streams := [(0, stream0)], cur := some frame0 }
     inCtx s (.codecClose 0) (fun _ => (s.engine 0).cur == some frame0) = true) := by decide +kernel

/-- O47: a ready frame on a free engine; a decode in progress, at its time bound and a count before; a stopped frame that ends. -/
theorem wit_codec_frames :
    (let x : Stream := { stream0 with ready := [(1, 4, 0)] }
     let s := sC { streams := [(0, x)] }
     (s.engine 0).cur = none ∧ s.engineServes 0 = true ∧ s.runs = true ∧ (s.engine 0).choose (s.cfg 0x7011 1) s.now = some 0 ∧
       (s.engine 0).streams.find 0 = some x) ∧
    (let s : State := { sC { streams := [(0, stream0)], cur := some frame0 } with queues := [(0, qadm), (1, { qctx with items := [cItem] })] }
     (s.engine 0).cur = some frame0 ∧ (s.engine 0).streams.find 0 = some stream0 ∧ (srecOf stream0.srec).encodes = false ∧
       s.item 1 4 = some cItem ∧ s.ctxs.find 0 = some ctxC ∧ frame0.stop = true ∧
       2 * (srecOf stream0.srec).w * (srecOf stream0.srec).h + 5 * fld (frameOf (frameW 0)).src2 31 0 + 240000 = 248192 ∧
       40 * (({ s with clock := { refc := 6204 } } : State).now - frame0.startAt.toNat) < 248192 ∧
       248192 ≤ 40 * (({ s with clock := { refc := 6205 } } : State).now - frame0.startAt.toNat)) := by decide +kernel
/-! ### Ports, mailbox, sessions -/

/-- Port 0 belongs to partition 0, which has 128 frames on stack 0; its first decoder covers 256 MiB from 0. -/
def dictP : DictSt := { eff := [(okey 0x4010 1, .num 1), (okey 0x4016 1, .arr [128])] }
def port0 : Port := { state := 3, hdm0 := { base := 0, size := 0x10000000, committed := true } }
def sP (x : Port := port0) : State :=
  { base with dict := dictP, ports := [(0, x)], queues := [(0, qadm)] }
def qdb (items : List QItem := []) : Queue := { qctx with tr := tr0, consumed := 5, tail := 0, items }
def sDb (x : Queue) (y : Port := port0) : State := { sP y with queues := [(0, qadm), (1, x)] }

/-- O48: doorbells: misaligned, for no queue, with a tail that the ring just does not hold, with the last it holds, and of a port that
quiesces; a queue whose CTIME has just not passed, and one whose CTIME has. -/
theorem wit_doorbells :
    let off := 0x100008
    ((sDb (qdb)).runs = true ∧ port0.active = true ∧ port0.quiesced = false ∧ (off - 0x100000) / 8 % 0x20000 = 1) ∧
    ((off + 4) % 8 ≠ 0 ∧ (0x17FFF8 - 0x100000) / 8 % 0x20000 = 0xFFFF ∧ (sDb (qdb)).queues.find 0xFFFF = none) ∧
    ((sDb (qdb)).queues.find 1 = some (qdb) ∧ (sDb (qdb)).partOfPort 0 = some 0 ∧ 2 ^ (tr0.sqlog - 6) = 1024) ∧
    (let x := qdb [{ nop0 {} with st := .started }]
     (sDb x).queues.find 1 = some x ∧ x.waitRecs = [] ∧ ∀ i ∈ x.items, i.st = .started) ∧
    ((sDb (qdb) { port0 with quiescing := true }).port 0).quiescing = true ∧
    (∀ now ∈ [99, 100],
      let x : Queue := { qdb with unsig := 1, unsigAt := 0, tr := { tr0 with w3 := tr0.w3 + BitVec.ofNat 64 (3 * 2 ^ 43 + 2 ^ 25) } }
      let s : State := { sDb x with clock := { refc := BitVec.ofNat 64 now } }
      s.queues.find 1 = some x ∧ 0 < x.unsig ∧ x.tr.vec ≠ 0 ∧ (s.now < 0 + 100 * x.tr.ctime ∨ 0 + 100 * x.tr.ctime ≤ s.now)) := by
  decide +kernel

/-- O48: host accesses that no decoder covers, that reach a stack, and that meet a stack action; a frame in host bias; decoders that commit,
do not, and go second; bias changes to the last frame and past it. -/
theorem wit_host_mem :
    ((sP).runs = true ∧ ((sP).port 0).active = true ∧ (sP).hpaAddr 0 0x10000000 = none) ∧
    (∃ n off, (sP).hpaAddr 0 0x40 = some (0, 0x40) ∧ (sP).region 0x40 = .stack n off ∧ (sP).acting 0x40 = false ∧ ((sP).stack n).bad = [] ∧
      (sP).memOk = true ∧ ((sP).cache (n / (sP).spd)).lines = []) ∧
    (∃ s1 bs, (sP).devRead 0x40 64 false = (s1, .ok, bs)) ∧
    (let s : State := { sP with bias := [(0, [0])] }
     s.hpaAddr 0 0x40 = some (0, 0x40) ∧ s.hostBias 0x40 = some 0) ∧
    (let s : State := { sP with hbm := [(0, { acting := true })] }
     s.hpaAddr 0 0x40 = some (0, 0x40) ∧ s.acting 0x40 = true) ∧
    (let s : State := { sP with ctxs := [(0, { ctxT [] with allocs := [(1, { alloc0 with kind := .device 1, locked := true, runs := [(0, 0x10000)] })] })] }
     s.lockedLine 0x40 = true ∧ (sP).lockedLine 0x40 = false) ∧
    (let s : State := sP { port0 with biasJob := some { next := 127, left := 1, toHost := true } }
     (s.port 0).biasJob = some { next := 127, left := 1, toHost := true } ∧ 127 < s.partBytes 0 / 0x200000 ∧ ((sP).port 0).biasJob = none) ∧
    ((sP).partOfPort 0 = some 0 ∧ (sP).partBytes 0 / 0x200000 = 128) := by
  refine ⟨by decide +kernel, ⟨0, 0x40, by decide +kernel, by decide +kernel, by decide +kernel, by decide +kernel, by decide +kernel, by decide +kernel⟩,
    triple_of _ _ (by decide +kernel), by decide +kernel, by decide +kernel, by decide +kernel, by decide +kernel, by decide +kernel⟩

def sMb (x : Port := { port0 with admin := some 0 }) : State := { sP x with queues := [(0, qadm), (1, qctx)] }

theorem okOf {α : Type} (x : Except Nat α) (h : (match x with | .ok _ => true | .error _ => false) = true) : ∃ v, x = .ok v := by
  cases x with
  | ok v => exact ⟨v, rfl⟩
  | error _ => cases h

theorem errOf {α : Type} (x : Except Nat α) (h : (match x with | .ok _ => false | .error _ => true) = true) : ∃ e, x = .error e := by
  cases x with
  | ok _ => cases h
  | error e => exact ⟨e, rfl⟩

def auth0 : AuthCmd := { ctrl := 1, kind := 1, counter := 1, body := [], check := [] }

/-- O49: a port that serves its mailbox; a read; writes of the nonce by the owner's port and another; the command queue with room for one,
and full; admin transports good and bad, and a module held; event rings at the largest size and past it; quiesces of a port without queues,
with one and while one is in progress. -/
theorem wit_mailbox :
    (sMb).mailboxOk 0 = true ∧
    (∃ bs, (sMb).objRead 1 0x3030 1 false = .ok bs) ∧
    ((sMb).own.claims = [] ∧ (sMb).leaseOver = false ∧ (sMb).windowOver = false ∧ (sMb).own.owner ≠ some 1 ∧
      { (sMb) with own := { (sMb).own with owner := some 1 } }.own.owner = some 1) ∧
    (∀ n ∈ [15, 16], (List.replicate n ({ path := 1, broadcast := false, cmd := auth0 } : QueuedCmd)).length = n) ∧
    (((sMb).port 0).admin = some 0 ∧ (sMb).queues.find 0 = some qadm ∧ tr0.ok qadm.attrs.depth = true ∧
      ({ tr0 with w3 := tr0.w3 + 1 } : Transport).ok qadm.attrs.depth = false ∧ (sMb).start.held = false) ∧
    (((sMb).partOfPort 0).isSome = true ∧ 0x1000 % 16 = 0) ∧
    (let s : State := { sMb with queues := [(0, qadm)] }
     (s.port 0).quiescing = false ∧ s.homed 0 = []) ∧
    ((sMb).homed 0 = [1] ∧ (sMb).launches = [] ∧ (sMb).spin = [] ∧ (sMb).codecs = [] ∧ qctx.items = []) := by
  refine ⟨by decide +kernel, okOf _ (by decide +kernel), by decide +kernel, by decide +kernel, by decide +kernel, by decide +kernel, by decide +kernel,
    by decide +kernel⟩

/-- O50: ports that can lose their link and that cannot; one 10 ms in Recovery, less a count; an idle one that waits, in L1 and not trained;
one quiesced. -/
theorem wit_links :
    ({} : Port).losable = false ∧ port0.losable = true ∧ ({ port0 with quiesced := true }).losable = false ∧
    ({ port0 with state := 7 }).losable = true ∧
    (let s (now : W64) : State := { sP { port0 with recovering := some 0 } with clock := { refc := now } }
     (s 999999).now < 0 + 1000000 ∧ 0 + 1000000 ≤ (s 1000000).now ∧ ((s 0).port 0).recovering = some 0) ∧
    (0 < (sP).portCount ∧ 7 < (sP).portCount ∧ ((sP).port 7).failed = false ∧ ∀ st ∈ [1, 2, 4, 5], ((sP { port0 with state := st }).port 0).state = st) ∧
    (([4, 8, 16] : List Nat).contains 4 = true ∧ ([4, 8, 16] : List Nat).contains 2 = false) := by decide +kernel

def sess0 (fin : Bool) : Session := { ctrl := 1, secret := [], t := [], finished := fin }
def sD (fin : Bool) (state : Nat := 3) : State :=
  { sP { port0 with state := state, session := some (sess0 fin) } with sec := { ctl := [(1, { key := some [1] })] } }

/-- O51: a port that serves DOE, also while it waits for IDE; a session with its controller's key; a sequence number that is not the next.
Whether a message opens and what it spells are constants of no value here: each is one of the cases. -/
theorem wit_doe :
    (sD false).doeOk 0 = true ∧ (sD false 7).doeOk 0 = true ∧ ((sD false).port 0).session = some (sess0 false) ∧
    (((sD false).ctlOf 1).key = some [1]) ∧ (List.replicate 1088 (0 : Byte)).length = 1088 ∧ (5 : W64) ≠ (sess0 true).rxSeq ∧
    ∀ ct tag, Config.gcmOpen ((sess0 true).keyOf "REQ") (gcmNonce 0) [] ct tag = none ∨
      ∃ bs, Config.gcmOpen ((sess0 true).keyOf "REQ") (gcmNonce 0) [] ct tag = some bs := by
  refine ⟨by decide +kernel, by decide +kernel, by decide +kernel, by decide +kernel, by decide +kernel, by decide +kernel, ?_⟩
  intro ct tag
  cases Config.gcmOpen ((sess0 true).keyOf "REQ") (gcmNonce 0) [] ct tag with
  | none => exact Or.inl rfl
  | some bs => exact Or.inr ⟨bs, rfl⟩
/-! ### The ring -/

/-- A frame with a good CRC. -/
def frameOk (ty : Byte) (dst : Byte) (payload : List Byte) : Frame :=
  let f : Frame := { dst, payload, crc := 0 }
  { f with crc := crc32 (f.body ty) }

theorem frameOk_good (ty dst : Byte) (p : List Byte) (h : p.length ≤ 256) : (frameOk ty dst p).good ty = true := by
  have e : (frameOk ty dst p).body ty = ({ dst, payload := p, crc := 0 } : Frame).body ty := rfl
  have l : (frameOk ty dst p).payload.length = p.length := rfl
  unfold Frame.good
  rw [e, l]
  simp [h, frameOk]

/-- A payload of n bytes with some of them set. -/
def payload (n : Nat) (xs : List (Nat × Byte)) : List Byte := xs.foldl (fun p x => putAt p x.1 [x.2]) (List.replicate n 0)
def sN (a : Nat) : State := { base with ring := { addr := a, inserted := true } }

/-- O52: a good frame and a damaged one, for an inserted node and one that is not; ENUM of each kind at the first and last address; a full
table of addresses. -/
theorem wit_enum :
    (State.reset.ring.inserted = false ∧ (sN 1).ring.inserted = true ∧ ({ dst := 255, payload := [], crc := 0 } : Frame).good 1 = false) ∧
    (∀ p ∈ [payload 68 [(0, 0), (1, 1)], payload 68 [(0, 0), (0x23, 4)], payload 68 [(0, 0)], payload 68 [(0, 1), (2, 250)]],
      p.length = 68) ∧
    ((sN 250).cfg 0x2010 2 = 0 ∧ byteAt (payload 68 [(0, 0), (1, 1)]) 1 % 2 = 1 ∧ mapBit (payload 68 [(0, 0), (0x23, 4)]) 4 250 = true ∧
      mapBit (payload 68 [(0, 0)]) 4 250 = false ∧ byteAt (payload 68 [(0, 1), (2, 250)]) 2 = 250 ∧
      mapBit (payload 68 [(0, 1), (2, 250)]) 4 250 = false) ∧
    (let p := [1, 0, 1, 0] ++ List.replicate 64 (0xFF : Byte)
     p.length = 68 ∧ byteAt p 0 = 1 ∧ ∀ m, m ≤ 250 → 1 ≤ m → mapBit p 4 m = true) := by
  refine ⟨by decide +kernel, by decide +kernel, by decide +kernel, by decide +kernel, by decide +kernel, ?_⟩
  intro m hm
  have : ∀ m ∈ List.range 251, 1 ≤ m → mapBit ([1, 0, 1, 0] ++ List.replicate 64 (0xFF : Byte)) 4 m = true := by decide +kernel
  exact this m (List.mem_range.mpr (by omega))

/-- An access block of count n. -/
def acc (idx sub n : Nat) (data : List Byte) : List Byte := natLe 2 idx ++ natLe 1 sub ++ [0] ++ natLe 2 0 ++ natLe 2 n ++ natLe 4 n ++ data

/-- O52: CYCLE of 48 bytes; READ one byte too short, of no object, of an object; WRITE short, repeated, good; WRITE-AUTH at its least
length, short, and to all; EVENT of the right length and not. -/
theorem wit_node :
    ((payload 48 []).length = 48 ∧ (sN 0).ring.addr = 0 ∧ (sN 250).ring.addr ≠ 0) ∧
    (let p := acc 0x3030 1 2 []
     p.length = 12 ∧ (payload 11 []).length < 12 ∧ (accessOf p).rsv = 0 ∧ (accessOf p).index = 0x3030 ∧
       (∃ bs, (sN 1).objRead 0 0x3030 1 false = .ok bs)) ∧
    (∃ e, (sN 1).objRead 0 0xFFFF 1 false = .error e) ∧
    (let p := acc 0x1012 1 2 [1, 2]
     p.length = 12 + (accessOf p).cnt ∧ (accessOf p).rsv = 0 ∧ (accessOf p).stg = false ∧ (accessOf p).off = 0 ∧ (accessOf p).size = 2 ∧
       (sN 1).ring.lastWrite = none ∧ (sN 1).own.claims = [] ∧ (sN 1).leaseOver = false ∧ (sN 1).windowOver = false) ∧
    ((payload 28 []).length = 28 ∧ (payload 27 []).length < 28 ∧ (sN 1).sec.queue.length < 16 ∧
      60 ≤ (payload 60 [(33, 0x13)]).length ∧ (authOf ((payload 60 [(33, 0x13)]).drop 32)).kind = 0x13) ∧
    ((payload 232 []).length = 232 ∧ (sN 1).ring.inBatch = 0) ∧
    (let s : State := { sN 1 with ring := { addr := 1, inserted := true, queue := [{ cause := 0x40 }], batch := 0, inBatch := 1 } }
     0 < s.ring.inBatch ∧ leNat ((payload 232 []).take 2) = s.ring.batch) ∧
    ((sN 1).now < 0 + 30000000 ∧ ({ sN 1 with clock := { refc := 30000000 } } : State).now = 30000000) := by
  refine ⟨by decide +kernel, ⟨by decide +kernel, by decide +kernel, by decide +kernel, by decide +kernel, okOf _ (by decide +kernel)⟩,
    errOf _ (by decide +kernel), by decide +kernel, by decide +kernel, by decide +kernel, by decide +kernel, by decide +kernel⟩

theorem digest_length (s : State) : s.digest.length = 32 := natLe_length _ _

/-- O52: a SWEEP that agrees with a node, whatever the node's configuration, and one that does not. -/
theorem wit_sweep (s : State) :
    let pre := s.digest.take 8
    let ep := natLe 8 s.dict.epoch.toNat
    let p := List.replicate 8 0 ++ pre ++ ep ++ List.replicate 232 0
    p.length = 256 ∧ byteAt p 0 = 0 ∧ byteAt p 2 = 0 ∧ (p.drop 8).take 8 = pre ∧ (p.drop 16).take 8 = ep := by
  have h1 : (s.digest.take 8).length = 8 := by rw [List.length_take, digest_length]; rfl
  have h2 : (natLe 8 s.dict.epoch.toNat).length = 8 := natLe_length _ _
  refine ⟨by simp only [List.length_append, List.length_replicate, h1, h2], rfl, rfl, ?_, ?_⟩
  · rw [List.append_assoc, List.append_assoc, List.drop_left' (by rw [List.length_replicate]), List.take_left' h1]
  · rw [List.append_assoc, List.drop_left' (by rw [List.length_append, List.length_replicate, h1]), List.take_left' h2]

theorem wit_sweep_differs : natLe 8 ((sN 1).dict.epoch.toNat) ≠ ((payload 256 [(16, 1)]).drop 16).take 8 ∧
    (payload 256 [(16, 1)]).length = 256 := by decide +kernel
/-! ### Authenticated commands -/

/-- A command of controller 1 with the right check, for the key of one byte 1. -/
def cmdOk (kind : Nat) (counter : W64) (body : List Byte) (rsv : Nat := 0) : QueuedCmd :=
  let a : AuthCmd := { ctrl := 1, kind, rsv, counter, body, check := [] }
  { path := 1, broadcast := false, cmd := { a with check := checkOf [1] false a } }

/-- The module with that command at the head; L is 5. -/
def sAu (q : QueuedCmd) (o : Option Nat := some 1) (k : Ctl := { l := 5 }) (dict : DictSt := {}) : State :=
  { base with
    dict
    sec := { queue := [q], ctl := [(1, { k with key := some [1] }), (2, { key := some [2] })] }
    own := { owner := o, leaseLen := 600 } }

theorem au_heads (q : QueuedCmd) (o : Option Nat) (k : Ctl) (t : DictSt) : (sAu q o k t).heads q.cmd.kind q [] :=
  ⟨rfl, rfl, rfl, fun _ h => (by cases h), by cases o <;> rfl, rfl⟩

theorem au_check (kind : Nat) (n : W64) (b : List Byte) (r : Nat) (o : Option Nat) (k : Ctl) (t : DictSt) :
    (sAu (cmdOk kind n b r) o k t).checkOk (cmdOk kind n b r) = true := by
  have e : ((sAu (cmdOk kind n b r) o k t).ctlOf 1).key = some [1] := rfl
  unfold State.checkOk
  simp only [Bool.and_eq_true, decide_eq_true_eq]
  refine ⟨rfl, ?_⟩
  rw [show (cmdOk kind n b r).path = 1 from rfl, e]
  exact beq_self_eq_true _

/-- A command of every kind executes: right check, counter above L. -/
theorem au_executes (kind : Nat) (b : List Byte) (o : Option Nat) (t : DictSt := {}) :
    (sAu (cmdOk kind 6 b) o { l := 5 } t).executes kind (cmdOk kind 6 b) [] :=
  ⟨au_heads _ _ _ _, rfl, au_check _ _ _ _ _ _ _, show (5 : W64) < 6 by decide, rfl⟩

/-- O53: a controller locked out; a wrong check; a command repeated, one at L with another check, one just above L with a reserved field; a
command of another controller than the owner. -/
theorem wit_auth (kind : Nat) (b : List Byte) :
    ((sAu (cmdOk kind 6 b) (some 1) { lockedUntil := some 1 }).heads kind (cmdOk kind 6 b) [] ∧
      (sAu (cmdOk kind 6 b) (some 1) { lockedUntil := some 1 }).lockedOut 1 = true) ∧
    (let q : QueuedCmd := { path := 1, broadcast := false, cmd := { ctrl := 2, kind, counter := 6, body := b, check := [] } }
     (sAu q).heads kind q [] ∧ (sAu q).lockedOut 1 = false ∧ (sAu q).checkOk q = false) ∧
    (let q := cmdOk kind 5 b
     let s := sAu q (some 1) { l := 5, check := q.cmd.check }
     s.heads kind q [] ∧ s.lockedOut 1 = false ∧ s.checkOk q = true ∧ q.cmd.counter = (s.ctlOf 1).l ∧ q.cmd.check = (s.ctlOf 1).check) ∧
    (let q := cmdOk kind 4 b
     let s := sAu q
     s.heads kind q [] ∧ s.checkOk q = true ∧ q.cmd.counter ≤ (s.ctlOf 1).l ∧ q.cmd.counter ≠ (s.ctlOf 1).l) ∧
    (let q := cmdOk kind 6 b 1
     let s := sAu q
     s.heads kind q [] ∧ s.checkOk q = true ∧ (s.ctlOf 1).l < q.cmd.counter ∧ q.cmd.rsv ≠ 0) ∧
    ((sAu (cmdOk kind 6 b) (some 2)).executes kind (cmdOk kind 6 b) [] ∧ (sAu (cmdOk kind 6 b) (some 2)).own.owner ≠ some 1) ∧
    ((sAu (cmdOk kind 6 b)).executes kind (cmdOk kind 6 b) [] ∧ (sAu (cmdOk kind 6 b)).own.owner = some 1) :=
  ⟨⟨au_heads _ _ _ _, rfl⟩, ⟨au_heads _ _ _ _, rfl, rfl⟩, ⟨au_heads _ _ _ _, rfl, au_check _ _ _ _ _ _ _, rfl, rfl⟩,
    ⟨au_heads _ _ _ _, au_check _ _ _ _ _ _ _, show (4 : W64) ≤ 5 by decide, show (4 : W64) ≠ 5 by decide⟩,
    ⟨au_heads _ _ _ _, au_check _ _ _ _ _ _ _, show (5 : W64) < 6 by decide, show (1 : Nat) ≠ 0 by decide⟩,
    ⟨au_executes _ _ _, show (some 2 : Option Nat) ≠ some 1 by decide⟩, ⟨au_executes _ _ _, rfl⟩⟩

/-- O53: object writes: too short, of no object, of an object that takes no authenticated write, of a value in range and out of it, with the
wrong length; claims: of the wrong length, of priority 15 and 16, of 5 and 601 s, of a module without an owner, of one with another; releases
to nobody, to a controller without a key, to one with a claim. -/
theorem wit_auth_bodies :
    let q (kind : Nat) (b : List Byte) : QueuedCmd := cmdOk kind 6 b
    (∀ b ∈ [acc 0x2020 2 2 [30, 0], acc 0x2020 2 2 [1, 0], acc 0x2020 2 1 [30], acc 0x3030 1 1 [0], acc 0xFFFF 1 1 [0]],
      let s := sAu (q 1 b)
      b.length = 12 + (accessOf b).cnt ∧ (accessOf b).rsv = 0 ∧ (accessOf b).stg = false ∧ (accessOf b).off = 0 ∧
        (accessOf b).size = (accessOf b).cnt ∧ (accessOf b).cnt ≤ 216 ∧
        (if (accessOf b).index = 0xFFFF then s.lookup 0xFFFF 1 = none else (s.lookup (accessOf b).index (accessOf b).sub).isSome = true)) ∧
    (let s := sAu (q 1 (acc 0x2020 2 2 [30, 0]))
     (s.lookup 0x2020 2).map (fun o => (o.acc.admits .auth, o.cls)) = some (true, .config) ∧
       (s.lookup 0x3030 1).map (fun o => o.acc.admits .auth) = some false ∧
       ((s.lookup 0x2020 2).bind (fun o => decodeVal o.ty [30, 0])) = some (.num 30) ∧
       ((s.lookup 0x2020 2).bind (fun o => decodeVal o.ty [30])) = none ∧
       s.stageStatus 0x2020 2 (.num 30) = 0 ∧ s.stageStatus 0x2020 2 (.num 1) ≠ 0) ∧
    (let s := sAu (q 0x10 [15, 0, 5, 0]) none
     s.own.owner = none ∧ s.heldBack 1 = false ∧ (5 : Byte).toNat + 256 * (0 : Byte).toNat = 5 ∧ (0x59 : Byte).toNat + 256 * (2 : Byte).toNat = 601) ∧
    ((sAu (q 0x10 [15, 0, 5, 0]) (some 2)).own.owner ≠ none ∧ some 1 ≠ (sAu (q 0x10 [15, 0, 5, 0]) (some 2)).own.owner) ∧
    (let s : State := { sAu (q 0x11 [2]) with own := { owner := some 1, leaseLen := 600, claims := [(2, ⟨3, 30, 0⟩)] } }
     (s.ctlOf 2).key ≠ none ∧ (s.ctlOf 3).key = none ∧ s.own.claims.find 2 = some ⟨3, 30, 0⟩ ∧ s.own.claims.find 4 = none ∧
       (∀ e ∈ s.own.claims, e.2.lapsed s.now = false)) := by decide +kernel

/-- The staged copy that an ACTIVATE of epoch 1 puts in force. -/
def sAct (idx sub n : Nat) : State :=
  sAu (cmdOk 0x13 6 (natLe 8 1)) (some 1) { l := 5 } { staged := [(okey idx sub, .num n)] }

/-- O53: activations: a plain value; while not ready, and while one is in progress; with the epoch in force; and each object that acts. -/
theorem wit_activate :
    (∀ e ∈ [(0x2020, 2, 40), (0x3010, 1, 3000), (0x4036, 1, 0), (0x4036, 8, 1), (0x4035, 1, 1), (0x4035, 8, 0), (0x5010, 1, 0x0FF0), (0x5010, 4, 0xFFFF),
        (0x6020, 1, 1), (0x6020, 4, 0), (0x7010, 1, 1), (0x7010, 4, 0)],
      let s := sAct e.1 e.2.1 e.2.2
      s.accepted s.dict.staged = [(okey e.1 e.2.1, .num e.2.2)] ∧ s.notReady = false ∧ s.dict.act = none ∧ s.dict.epoch < 1 ∧
        (natLe 8 1).length = 8 ∧ s.launches = [] ∧ s.homed 7 = [] ∧ (s.die 3).disabled = false ∧ (s.engine 3).streams = [] ∧
        (s.engine 3).disabled = false) ∧
    (actingKey (okey 0x2020 2) = false ∧ actingKey (okey 0x4036 1) = true ∧ actingKey (okey 0x3010 1) = false ∧
      governorKey (okey 0x3010 1) = true ∧ governorKey (okey 0x2020 2) = false ∧ base.gov.ladder = 0) ∧
    ((sAct 0x5010 1 0x0FF0).die 0).mask.toNat ≠ 0x0FF0 ∧
    (let s : State := { sAct 0x2020 2 40 with start := { base.start with phase := 7 } }
     s.notReady = true) ∧
    (let s : State := { sAct 0x4035 1 1 with ports := [(0, { state := 6 })] }
     (s.port 0).state = 6) := by decide +kernel

/-- O54: a lease that has just run out with two claims of one priority, one of which has just lapsed; a lockout that has just ended; a
preferred owner's window that has just closed. -/
theorem wit_owner_time :
    (let s (n : Nat) : State := { base with
       own := { owner := some 1, leaseLen := 5, claims := [(2, ⟨3, 30, 0⟩), (4, ⟨3, 5, 0⟩), (7, ⟨3, 600, 0⟩)] }
       clock := { refc := BitVec.ofNat 64 n } }
     (s 499999999).leaseOver = false ∧ (s 500000000).leaseOver = true ∧ (s 999999999).now < 0 + 200000000 * 5 ∧
       0 + 200000000 * 5 ≤ (s 1000000000).now ∧
       (s 1000000000).leaseEnd = 500000000 ∧ ((s 1000000000).own.claims.filter (fun e => !e.2.lapsed (s 1000000000).leaseEnd)).length = 3 ∧
       (s 1000000000).own.claims.filter (fun e => !e.2.lapsed (s 1000000000).now) = [(2, ⟨3, 30, 0⟩), (7, ⟨3, 600, 0⟩)]) ∧
    (let s : State := { base with own := { owner := some 1, leaseLen := 5 }, clock := { refc := 500000000 } }
     s.leaseOver = true ∧ s.own.claims = []) ∧
    (let s (n : Nat) : State := { base with sec := { ctl := [(8, { lockedUntil := some 100 })] }, clock := { refc := BitVec.ofNat 64 n } }
     ((s 99).ctlOf 8).lockedUntil = some 100 ∧ (s 99).now < 100 ∧ 100 ≤ (s 100).now) ∧
    (let s (n : Nat) (o : Option Nat) (c : Bool) : State := { base with
       start := { base.start with prefWindow := true, prefClaimed := c }, own := { owner := o, leaseLen := 600 }
       clock := { refc := BitVec.ofNat 64 n } }
     (s 999999999 none false).windowOver = false ∧ (s 1000000000 none false).windowOver = true ∧ (s 1000000000 (some 1) true).windowOver = true) := by
  decide +kernel

/-- 17 Table 17.13 order 4: a power cap that waits for the gate pulse is not in force before it. -/
theorem test_late :
    let a : Activation := { epoch := 1, set := [(okey 0x3010 1, .num 3000)], before := [], late := [(okey 0x3010 1, .num 3000)] }
    let s : State := { base with dict := { act := some a } }
    s.activationDone a = false ∧ s.cfg 0x3010 1 = 3600 ∧ s.applyLate.cfg 0x3010 1 = 3000 ∧
      s.applyLate.activationDone { a with late := [] } = true := by decide +kernel

/-- O54: an activation that is done and one that waits for a mask; a mask that may change and one that a running launch holds back. -/
theorem wit_activation_time :
    let a : Activation := { epoch := 1, set := [(okey 0x5010 1, .num 0x0FF0)], before := [] }
    let s (m : Bool) (ls : Tab Launch) : State :=
      { base with dict := { act := some a }, dies := [(0, { present := true, masking := m })], launches := ls }
    (s false []).dict.act = some a ∧ (s false []).activationDone a = true ∧ (s true []).activationDone a = false ∧
      ((s true []).die 0).masking = true ∧ (s true []).runningOn 0 = [] ∧ (s true [(0, launch0)]).runningOn 0 ≠ [] := by decide +kernel
/-! ### Object writes, updates, starts, memory and environment -/

/-- The owner, controller 1 on port 0, writes; `bring` is the bring-up mode. -/
def sW (bring : Nat := 1) (fw : Firmware := {}) : State :=
  { base with own := { owner := some 1, leaseLen := 600 }, start := { base.start with bringUp := bring }, fw }

theorem sW_writes (b : Nat) (f : Firmware) : (sW b f).ownerWrites 1 := ⟨rfl, ⟨fun _ h => (by cases h), rfl, rfl⟩, rfl⟩

/-- O55: the owner and another controller; every rung asked for; an update that may start, of a bad range, while one runs; the modes of
bring-up; actions on the last stack, past it, with a reserved field, while one runs and outside bring-up; sweeps of one point and of none. -/
theorem wit_object_writes :
    (sW 0).ownerWrites 1 ∧ (sW 0).own.owner ≠ some 2 ∧
    (∀ l ∈ [0, 3, 4], ({ sW 0 with gov := { ladder := l } } : State).gov.ladder = l) ∧
    ((sW 0 { updAddr := 0x1000, updLen := 0x1000 }).imageRange 0x1000 0x1000 = true ∧ (sW 0).imageRange 0 0 = false ∧
      (sW 0 { updState := 2 }).fw.updState = 2) ∧
    ((sW 0).bringBusy = false ∧ (sW 0).notReady = false ∧ (sW 0 { stackState := 1 }).bringBusy = true ∧ (sW 0).ctxs = [] ∧
      ({ sW 0 with ctxs := [(0, ctxT [])] } : State).ctxs ≠ []) ∧
    ((sW 1).bringUpFree ∧ (sW 1).stackCount = 20 ∧ ((sW 1).stack 19).state ≠ 3 ∧ (5 * 2 ^ 23) % 2 ^ 23 = 0 ∧ 1 % 2 ^ 23 ≠ 0) ∧
    (repairOk 0 = true ∧ repairOk (2 ^ 32 - 1) = false) ∧
    ((sweepReq (550 * 2 ^ 40 + 550 * 2 ^ 24 + 10)).ok = true ∧ (sweepReq (551 * 2 ^ 40 + 550 * 2 ^ 24 + 10)).ok = false ∧
      ((sW 1).die 0).present = true) ∧
    (∃ o, (sW 0).lookup 0x2020 2 = some o ∧ o.cls = .config ∧ o.acc = .rwa ∧ decodeVal o.ty [30, 0] = some (.num 30)) :=
  ⟨sW_writes 0 {}, by decide +kernel, by decide +kernel, by decide +kernel, by decide +kernel,
    ⟨⟨rfl, by decide +kernel⟩, by decide +kernel, by decide +kernel, by decide +kernel, by decide +kernel⟩, by decide +kernel,
    by decide +kernel, ⟨0x2020, 2, 2, 0x03, .rwa, .config, 30⟩, by decide +kernel, rfl, rfl, by decide +kernel⟩

/-- A package header of a type, and nothing else: it fails the first check. -/
def pkgBad (ty : Nat) : List Byte := natLe 8 (0x4B445850 * 2 ^ 32 + ty * 2 ^ 24 + 1)

/-- O56: packages of both enrolments that fail, for a module without an owner and by its owner; updates in each state; stack actions; a bundle
that is built. Whether a signature holds is a constant of no value here: the code of a package is 0 or it is not. -/
theorem wit_updates :
    (∀ ty ∈ [3, 4], (pkgOf (pkgBad ty)).ty = ty ∧ base.pkgCode [3, 4] 4096 false (pkgBad ty) ≠ 0 ∧ base.own.owner = none ∧ base.runs = true) ∧
    ({} : Firmware).updState = 0 ∧
    (let s : State := { base with fw := { updState := 1, updImage := [1], updFrom := 0x1000 } }
     s.fw.updState = 1 ∧ s.mem.read s.fw.updFrom 1 ≠ s.fw.updImage) ∧
    (let s : State := { base with fw := { updState := 1, updImage := pkgBad 1 }, mem := { cells := cellsAt 0 (pkgBad 1) } }
     s.mem.read s.fw.updFrom 8 = s.fw.updImage ∧ s.pkgCode [1, 2] 0x4000000 false s.fw.updImage ≠ 0) ∧
    (∀ a ∈ [1, 2, 3, 4], let s : State := { base with fw := { stackState := 1, stackReq := BitVec.ofNat 64 (19 * 2 ^ 56 + a * 2 ^ 48) } }
      s.runs = true ∧ s.fw.stackState = 1 ∧ (stackReq s.fw.stackReq.toNat).action = a) ∧
    (∀ st ∈ [2, 3], ({ base with fw := { updState := st, buildState := 1 } } : State).fw.buildState = 1) ∧
    ∀ (s : State) (bs : List Byte), s.pkgCode [3, 4] 4096 false bs = 0 ∨ s.pkgCode [3, 4] 4096 false bs ≠ 0 :=
  ⟨by decide +kernel, rfl, by decide +kernel, by decide +kernel, by decide +kernel, by decide +kernel, fun _ _ => Nat.decEq _ _ |>.em⟩

def cold : ColdReport := { dies := List.replicate 6 {} }

/-- O57: starts from reset: the input bad, stack 0 bad, every die bad, an I/O die without a trim, everything good with and without a
record carried, three watchdog expiries and two; a reset asked for
1 ms ago less a count, and 1 ms ago; an input loss; a stop of block 25 of die 0; a first and a third watchdog expiry, one that restarts; trial
banks 30 s after power-up. -/
theorem wit_starts :
    (State.reset.start.power = .reset ∧ State.reset.start.held = false ∧ State.reset.start.fail = 0 ∧ State.reset.log = {} ∧
      State.reset.fw.fwBanks = [(0, { mark := .active, factory := true })] ∧ State.reset.fw.cfgBanks = [(0, { mark := .active, factory := true })] ∧
      State.reset.start.carried = none ∧ cold.overrun = none ∧ cold.watchdog = 0) ∧
    (∀ d ∈ [4, 5], (cold.dies.getD d {}).trimOk = true) ∧
    (State.reset.dieCount = 6 ∧ (State.reset.die 5).failed = false ∧
      (([{}, {}, {}, {}, {}, { trimOk := false }] : List DieTest).getD 5 {}).trimOk = false) ∧
    (State.reset.start.wdTimes = [] ∧ 3 ≤ 0 + 3 ∧ 0 + 2 < 3) ∧
    (∀ d, d < 4 → ((cold.dies.getD d {}).ok && (cold.dies.getD d {}).memCtlOk && (cold.dies.getD d {}).trimOk) = true) ∧
    (∀ d, d < 4 → (((List.replicate 4 ({ ok := false } : DieTest)).getD d {}).ok &&
      ((List.replicate 4 ({ ok := false } : DieTest)).getD d {}).memCtlOk && ((List.replicate 4 ({ ok := false } : DieTest)).getD d {}).trimOk) =
      false) ∧
    (∀ n ∈ [99999, 100000],
      let s : State := { base with start := { base.start with resetAt := some 0 }, clock := { refc := BitVec.ofNat 64 n } }
      s.start.resetAt = some 0 ∧ s.now = n ∧ s.start.power ≠ .off ∧ s.fw.updState ≠ 2 ∧ s.fw.buildState ≠ 1) ∧
    (base.runs = true ∧ stopsModule 0 25 = true ∧ base.blockPresent 0 25 = true ∧ base.start.wdRestarting = false) ∧
    (∀ ts ∈ [1, 2], let s : State := { base with start := { base.start with wdTimes := List.replicate ts 0 } }
      (s.start.wdTimes.filter (fun t => s.now < t.toNat + 360000000000)).length = ts) ∧
    (({ base with start := { base.start with wdRestarting := true } } : State).start.wdRestarting = true) ∧
    (∀ n ∈ [2999999999, 3000000000], let s : State := { base with
        start := { base.start with fail := 0x31, powerUpAt := 0 }, clock := { refc := BitVec.ofNat 64 n }, fw := { cfgBanks := [(0, { mark := .trial })] } }
      s.start.fail ≠ 0 ∧ 2 ≤ s.start.phase ∧ s.start.tripped = false ∧ s.fw.onTrial = true ∧ s.now = n) := by
  exact ⟨by decide +kernel, by decide +kernel, by decide +kernel, by decide +kernel, by decide +kernel, by decide +kernel, by decide +kernel,
    by decide +kernel, by decide +kernel, by decide +kernel, by decide +kernel⟩

/-- O58: a stack in service at the last burst of its walk; patrol off; a word with one bit upset and one with two; a second with 1,001
corrections; readings just inside and just outside Table 22.1, at the absolute maxima and past them. -/
theorem wit_memory :
    (let s : State := { base with hbm := [(19, { state := 1, walk := 402653183 })] }
     s.stackUp 19 = true ∧ s.cfg 0x5020 1 ≠ 0 ∧ s.gov.ladder ≤ 1 ∧ (s.stack 19).acting = false ∧ (s.stack 19).bad = []) ∧
    (({ base with dict := { eff := [(okey 0x5020 1, .num 0)] } } : State).cfg 0x5020 1 = 0) ∧
    ((base.die 0).present = true ∧ base.cfg 0x5020 3 ≠ 0 ∧ (base.die 0).badWords = [] ∧ upsetSynd 0 = .clean ∧
      (upsetSynd 1).isDetected = false ∧ upsetSynd 1 ≠ .clean ∧ (upsetSynd 3).isDetected = true ∧ base.cacheWord 0 3 7 = false ∧
      (∀ k ∈ List.range 39, (upsetSynd (BitVec.ofNat 39 (2 ^ k))).isDetected = false)) ∧
    (let s : State := { base with dies := [(0, { present := true, scrub := (3, 7) })] }
     s.scrubAt 0 = (3, 7) ∧ s.scrubAt 0 ≠ (3, 8) ∧ base.scrubAt 0 = (0, 0)) ∧
    (let s : State := { base with hbm := [(0, { state := 1 })], wq := [(31, List.replicate 65 ⟨0, 64, 0⟩)] }
     s.wq.get [] 31 ≠ [] ∧ s.wq.get [] 30 = [] ∧ s.stackUp 0 = true) ∧
    (let c : Cache := { lines := [⟨0, 0, 0, 0, true, 0, {}⟩] }
     (({ base with caches := [(0, c)] } : State).cache (0 / base.spd)).lines.any (fun l => l.line == 0 / 256 && l.dirty) = true) ∧
    (let s : State := { base with dies := [(0, { present := true, corrected := 1001 })], clock := { refc := 100000000 } }
     (s.die 0).corrSec < s.now / 100000000 ∧ (s.die 0).markSec < s.now / 100000000 ∧
      (s.die 0).corrected - (s.die 0).corrMark = 1001 ∧ (s.die 0).corrDue = []) ∧
    (let s : State := { base with
        dies := [(0, { present := true, corrected := 1500, corrMark := 1001, markSec := 1, corrDue := [1001] })]
        clock := { refc := 100000000 } }
     (s.die 0).corrSec < s.now / 100000000 ∧ ¬(s.die 0).markSec < s.now / 100000000 ∧ (s.die 0).corrDue = [1001]) ∧
    (∀ v ∈ [5000, 5800, 4999, 5801, 6000, 6001], base.start.power ≠ .off ∧ (v ≤ 6000 ∨ 6000 < v)) ∧
    (let s : State := { base with env := { outAt := some 0 } }
     s.env.outAt = some 0 ∧ s.now < 0 + 1000000000) := by decide +kernel

/-- O59: the machine right after reset is in bounds; O2: its queue is empty. -/
theorem wit_bounds : State.reset.addrOk = true ∧ State.reset.ownerOk = true ∧ State.reset.cfg 0x2010 2 ≤ 250 ∧
    State.reset.sec.queue.length ≤ 16 ∧ State.reset.ring.queue.length ≤ 512 ∧ State.reset.own.claims = [] ∧ State.reset.pending = [] := by
  decide +kernel
end Sys2Proof.Tests
end

/-! The scalar instructions that write the value of an integer function or an immediate to one s register (05 R128, 06 R156,
R157): O6 and O7. -/
namespace Sys2Proof.Machine

/-- A one-word instruction that writes v to the s register n and issues undisturbed leaves v there, and nothing but its pair and
its launch differs. -/
theorem leavesS_issue_of_retireS {s : State} {i : Issue} {z : Instr} {a : Site} {f : Site → State} {n : Nat} {v : W64}
    (h : s.issues i z a) (hu : i.upset = 0) (hz : zlen z = 1) (hf : f a = s.retireS a i z n (a.p.bank.sset n v)) :
    s.leavesS (s.issue i z f) a n v := by
  obtain ⟨-, hp, -, hx, -⟩ := site_some h.1
  have hv : (a.p.bank.sset n v).sget n = v := by simp [Bank.sset, Bank.sget]
  rw [issue_of_issues h, hf, State.retireS, retire_of_ok hu, hv, Site.after, hz]
  exact (retired_bank hp hx _ _ _).symm

/-! ### The scalar functions as numbers (06 R157, Table 6.4) -/

/-- A choice by < is the choice by ≤ where it makes no difference at a tie. -/
theorem ite_lt_eq_ite_le {lt le : Prop} [Decidable lt] [Decidable le] {x y : W64} (hle : lt → le)
    (htie : le → ¬ lt → x = y) : (if lt then x else y) = if le then x else y := by
  by_cases h : lt
  · rw [if_pos h, if_pos (hle h)]
  · by_cases h' : le
    · rw [if_neg h, if_pos h', htie h' h]
    · rw [if_neg h, if_neg h']

/-- SRA divides toward minus infinity. -/
theorem sshiftRight_eq_ofInt_fdiv (a : W64) (n : Nat) : a.sshiftRight n = BitVec.ofInt 64 (a.toInt.fdiv (2 ^ n)) := by
  have hpos : (0 : Int) ≤ 2 ^ n := Int.le_of_lt (Int.pow_pos (by decide))
  refine congrArg (BitVec.ofInt 64) ?_
  calc a.toInt >>> n = a.toInt / ((2 ^ n : Nat) : Int) := Int.shiftRight_eq_div_pow _ _
    _ = a.toInt / 2 ^ n := congrArg (a.toInt / ·) (Int.natCast_pow 2 n)
    _ = a.toInt.fdiv (2 ^ n) := (Int.fdiv_eq_ediv_of_nonneg _ hpos).symm

/-- Table 6.4: every scalar integer function gives the value its row states of the operands as numbers. -/
theorem ialuFn_eq_ialuRule (fn : IaluFn) (a b : W64) : ialuFn fn a b = ialuRule fn a b := by
  cases fn with
  | add => exact BitVec.eq_of_toInt_eq ((BitVec.toInt_add a b).trans (BitVec.toInt_ofInt _).symm)
  | sub => exact BitVec.eq_of_toInt_eq (BitVec.toInt_sub.trans (BitVec.toInt_ofInt _).symm)
  | mul => exact BitVec.eq_of_toInt_eq ((BitVec.toInt_mul a b).trans (BitVec.toInt_ofInt _).symm)
  | mulhs => exact congrArg (BitVec.ofInt 64) (Int.fdiv_eq_ediv_of_nonneg _ (by decide)).symm
  | mulhu | and | or | xor => rfl
  | divs =>
    by_cases hb : b = 0
    · simp only [ialuFn, ialuRule, hb, if_true]
      exact BitVec.sdiv_zero
    · simp only [ialuFn, ialuRule, hb, if_false]
      exact BitVec.eq_of_toInt_eq ((BitVec.toInt_sdiv a b).trans (BitVec.toInt_ofInt _).symm)
  | divu => simp only [ialuFn, ialuRule, BitVec.udiv_def]
  | rems =>
    by_cases hb : b = 0
    · simp only [ialuFn, ialuRule, hb, if_true]
      exact BitVec.srem_zero
    · simp only [ialuFn, ialuRule, hb, if_false, ← BitVec.toInt_srem, BitVec.ofInt_toInt]
  | remu => simp only [ialuFn, ialuRule, BitVec.umod_def]
  | shl =>
    apply BitVec.eq_of_toNat_eq
    simp only [ialuFn, ialuRule, BitVec.toNat_shiftLeft, BitVec.toNat_ofNat, Nat.shiftLeft_eq]
  | shr =>
    simp only [ialuFn, ialuRule, ← Nat.shiftRight_eq_div_pow, ← BitVec.toNat_ushiftRight, BitVec.ofNat_toNat,
      BitVec.setWidth_eq]
  | sra => exact sshiftRight_eq_ofInt_fdiv a (b.toNat % 64)
  | mins =>
    simp only [ialuFn, ialuRule, BitVec.slt_iff_toInt_lt]
    exact ite_lt_eq_ite_le Int.le_of_lt fun hle hlt => BitVec.eq_of_toInt_eq (by omega)
  | maxs =>
    simp only [ialuFn, ialuRule, BitVec.slt_iff_toInt_lt]
    exact ite_lt_eq_ite_le Int.le_of_lt fun hle hlt => BitVec.eq_of_toInt_eq (by omega)
  | minu =>
    simp only [ialuFn, ialuRule, BitVec.lt_def]
    exact ite_lt_eq_ite_le Nat.le_of_lt fun hle hlt => BitVec.eq_of_toNat_eq (by omega)
  | maxu =>
    simp only [ialuFn, ialuRule, BitVec.lt_def]
    exact ite_lt_eq_ite_le Nat.le_of_lt fun hle hlt => BitVec.eq_of_toNat_eq (by omega)
  | seq | sne => simp [ialuFn, ialuRule, bool64, BitVec.toNat_inj]
  | slts | sles => simp [ialuFn, ialuRule, bool64, BitVec.slt_eq_decide]
  | sltu | sleu => simp [ialuFn, ialuRule, bool64, BitVec.lt_def]

/-- Settles O6: the retirement of a write of one s register, with the value of Table 6.4 as a number. -/
theorem ialuWritesItsValue : Obligations.IaluWritesItsValue := by
  unfold Obligations.IaluWritesItsValue
  intro i rd ra rb fn s a h hu
  have hv := ialuFn_eq_ialuRule fn (srcVal a.x.params a.p.bank ra) (srcVal a.x.params a.p.bank rb)
  exact ⟨_, rfl, leavesS_issue_of_retireS h hu rfl (by rw [← hv]; rfl)⟩

/-! ### The scalar instructions with an immediate (06 R156, R157) -/

/-- An S-I instruction that issues undisturbed leaves the value of its function in RD. -/
theorem leavesS_runImm {s : State} {i : Issue} {z : Instr} {a : Site} (h : s.issues i z a) (hu : i.upset = 0) (hz : zlen z = 1)
    (fn : IaluFn) (rd : Fin 32) (ra : Src) (imm : W64) :
    s.leavesS (s.runImm i z fn rd ra imm) a rd.val (ialuRule fn (srcVal a.x.params a.p.bank ra) imm) :=
  leavesS_issue_of_retireS h hu hz (by rw [← ialuFn_eq_ialuRule]; rfl)

/-- The shift distance an immediate of 6 bits gives. -/
theorem toNat_zeroExtend_mod (sh : BitVec 6) : (sh.zeroExtend 64).toNat % 64 = sh.toNat := by
  simp [Nat.mod_eq_of_lt sh.isLt]

/-- 06 R156: MOVZ's value holds IMM in the 16 bits at position HW and zeros elsewhere. -/
theorem getLsbD_movzVal (hw : Fin 4) (imm : W16) {k : Nat} (hk : k < 64) :
    (movzVal hw imm).getLsbD k = if k / 16 = hw.val then imm.getLsbD (k % 16) else false := by
  have hb : (movzVal hw imm).getLsbD k = (!decide (k < 16 * hw.val) && imm.getLsbD (k - 16 * hw.val)) := by
    simp [movzVal, hk]
  rw [hb]
  split
  case isTrue h =>
    have hlow : ¬ k < 16 * hw.val := by omega
    have hsub : k - 16 * hw.val = k % 16 := by omega
    simp [hlow, hsub]
  case isFalse h =>
    rcases Nat.lt_or_ge k (16 * hw.val) with hlow | hhigh
    · simp [hlow]
    · simp [BitVec.getLsbD_of_ge imm (k - 16 * hw.val) (by omega)]

/-- 06 R156: MOVK's value holds IMM in the 16 bits at position HW and RD's old bits elsewhere. -/
theorem getLsbD_movkVal (old : W64) (hw : Fin 4) (imm : W16) {k : Nat} (hk : k < 64) :
    (movkVal old hw imm).getLsbD k = if k / 16 = hw.val then imm.getLsbD (k % 16) else old.getLsbD k := by
  have hm : 0xFFFF#64 <<< (16 * hw.val) = movzVal hw (BitVec.allOnes 16) := rfl
  rw [movkVal, hm, BitVec.getLsbD_or, BitVec.getLsbD_and, BitVec.getLsbD_not, getLsbD_movzVal hw _ hk, getLsbD_movzVal hw _ hk,
    BitVec.getLsbD_allOnes]
  split <;> simp [hk, Nat.mod_lt]

/-- Settles O7: each instruction is the write of one s register, with its function's value as a number or its bits. -/
theorem scalarImmediates : Obligations.ScalarImmediates := by
  unfold Obligations.ScalarImmediates
  refine ⟨fun i rd ra imm s a hu => ?signed, fun i rd ra sh s a hu => ?shifts, fun i rd hw imm s a hu => ?moves⟩
  case signed =>
    exact ⟨fun h => ⟨_, rfl, leavesS_runImm h hu rfl .add rd ra _⟩,
      fun h => ⟨_, rfl, leavesS_runImm h hu rfl .and rd ra _⟩,
      fun h => ⟨_, rfl, leavesS_runImm h hu rfl .or rd ra _⟩,
      fun h => ⟨_, rfl, leavesS_runImm h hu rfl .xor rd ra _⟩,
      fun h => ⟨_, rfl, leavesS_runImm h hu rfl .slts rd ra _⟩⟩
  case shifts =>
    rw [← toNat_zeroExtend_mod sh]
    exact ⟨fun h => ⟨_, rfl, leavesS_runImm h hu rfl .shl rd ra _⟩,
      fun h => ⟨_, rfl, leavesS_runImm h hu rfl .shr rd ra _⟩,
      fun h => ⟨_, rfl, leavesS_runImm h hu rfl .sra rd ra _⟩⟩
  case moves =>
    exact ⟨fun h => ⟨_, _, rfl, leavesS_issue_of_retireS h hu rfl rfl, fun _ => getLsbD_movzVal hw imm⟩,
      fun h => ⟨_, _, rfl, leavesS_issue_of_retireS h hu rfl rfl, fun _ => getLsbD_movkVal _ hw imm⟩⟩

end Sys2Proof.Machine

/-! SUPPORT. The pairwise tree over a power of two of elements (06 R163). -/
namespace Sys2Proof

section
variable {α : Type} (f : α → α → α)

theorem length_pairUp : ∀ xs : List α, (pairUp f xs).length = (xs.length + 1) / 2
  | [] | [_] => by simp [pairUp]
  | a :: b :: t => by simp only [pairUp, List.length_cons, length_pairUp t]; omega

/-- 06 R163: result k of a level combines results 2k and 2k + 1 of the level below. -/
theorem getD_pairUp (d : α) : ∀ (xs : List α) (k : Nat), 2 * k + 1 < xs.length →
    (pairUp f xs).getD k d = f (xs.getD (2 * k) d) (xs.getD (2 * k + 1) d)
  | [], _, hk | [_], _, hk => by simp at hk
  | _ :: _ :: _, 0, _ => rfl
  | a :: b :: t, k + 1, hk => by
    simp only [List.length_cons] at hk
    simpa only [pairUp, Nat.mul_succ, List.getD_cons_succ] using getD_pairUp d t k (by omega)

/-- Level n of the tree over the elements xs, which are its level 0. -/
def treeLevel (xs : List α) : Nat → List α
  | 0 => xs
  | n + 1 => pairUp f (treeLevel xs n)

theorem treeLevel_succ (xs : List α) (n : Nat) : treeLevel f xs (n + 1) = pairUp f (treeLevel f xs n) := rfl

theorem treeLevel_pairUp (xs : List α) : ∀ n, treeLevel f (pairUp f xs) n = treeLevel f xs (n + 1)
  | 0 => rfl
  | n + 1 => congrArg (pairUp f) (treeLevel_pairUp xs n)

theorem length_treeLevel {xs : List α} {m n : Nat} (h : xs.length = 2 ^ (m + n)) : (treeLevel f xs n).length = 2 ^ m := by
  induction n generalizing m with
  | zero => exact h
  | succ n ih =>
    have hl : (treeLevel f xs n).length = 2 ^ (m + 1) := ih (by rw [h]; congr 1; omega)
    rw [treeLevel_succ, length_pairUp, hl, Nat.pow_succ]
    omega

/-- 06 R163: on every level of the tree but the last, results combine in pairs. -/
theorem getD_treeLevel_succ (d : α) {xs : List α} {m n k : Nat} (h : xs.length = 2 ^ (m + 1 + n)) (hk : k < 2 ^ m) :
    (treeLevel f xs (n + 1)).getD k d = f ((treeLevel f xs n).getD (2 * k) d) ((treeLevel f xs n).getD (2 * k + 1) d) := by
  have hl : (treeLevel f xs n).length = 2 ^ m * 2 := length_treeLevel f h
  rw [treeLevel_succ]
  exact getD_pairUp f d _ _ (by omega)

/-- With fuel for n levels, the tree over 2^n elements ends at level n. -/
theorem treeF_eq_treeLevel {n fuel : Nat} (hf : n ≤ fuel) {xs : List α} (h : xs.length = 2 ^ n) :
    treeF f fuel xs = treeLevel f xs n := by
  induction n generalizing fuel xs with
  | zero => cases fuel <;> simp [treeF, treeLevel, h]
  | succ n ih =>
    obtain ⟨fuel, rfl⟩ := Nat.exists_eq_add_of_le' (Nat.lt_of_lt_of_le n.succ_pos hf)
    have hpos := Nat.two_pow_pos n
    have hp : (pairUp f xs).length = 2 ^ n := by rw [length_pairUp, h, Nat.pow_succ]; omega
    have h1 : ¬ xs.length ≤ 1 := by rw [h, Nat.pow_succ]; omega
    rw [treeF, if_neg h1, ih (by omega) hp, treeLevel_pairUp]

theorem tree_eq_treeLevel (d : α) {n : Nat} (hn : n ≤ 64) {xs : List α} (h : xs.length = 2 ^ n) :
    tree f d xs = (treeLevel f xs n).getD 0 d := by
  rw [tree, treeF_eq_treeLevel f hn h, List.headD_eq_head?_getD, List.getD_eq_getElem?_getD, List.head?_eq_getElem?]

end

end Sys2Proof

/-! SUPPORT. VRED (06 R163): its lanes, its operations and its words. -/
namespace Sys2Proof.Machine

theorem length_mixLanes {p : Option (List Bool)} {old new : Lanes} {n : Nat} (ho : old.length = n) (hn : new.length = n)
    (hp : ∀ q, p = some q → q.length = n) : (mixLanes p old new).length = n := by
  cases p with
  | none => exact hn
  | some q => simp [mixLanes, ho, hn, hp q rfl]

theorem getD_mixLanes_some {q : List Bool} {old new : Lanes} {k : Nat} (hq : k < q.length) (ho : k < old.length)
    (hn : k < new.length) : (mixLanes (some q) old new).getD k 0 = if q.getD k false then new.getD k 0 else old.getD k 0 := by
  simp only [mixLanes, List.getD_eq_getElem?_getD, List.getElem?_zipWith, List.getElem?_eq_getElem hq, List.zip,
    List.getElem?_eq_getElem ho, List.getElem?_eq_getElem hn, Option.getD_some]

/-- The lanes a VRED reduces: the identity stands where the predicate is 0. -/
def vredLanes (fn : VredFn) (p : Option (List Bool)) (va : Lanes) : Lanes :=
  mixLanes p (List.replicate laneCount (vredId fn)) va

theorem length_vredLanes (fn : VredFn) {p : Option (List Bool)} {va : Lanes} (hv : va.length = laneCount)
    (hp : ∀ q, p = some q → q.length = laneCount) : (vredLanes fn p va).length = 2 ^ 9 :=
  length_mixLanes List.length_replicate hv hp

theorem getD_vredLanes_some (fn : VredFn) {q : List Bool} {va : Lanes} {k : Nat} (hv : va.length = laneCount)
    (hq : q.length = laneCount) (hk : k < laneCount) :
    (vredLanes fn (some q) va).getD k 0 = if q.getD k false then va.getD k 0 else vredId fn := by
  have hid : (List.replicate laneCount (vredId fn)).getD k 0 = vredId fn := by
    simp [List.getD_eq_getElem?_getD, hk]
  rw [vredLanes, getD_mixLanes_some (by rwa [hq]) (by rwa [List.length_replicate]) (by rwa [hv]), hid]

/-- The value of a VRED over 512 lanes is that of level 9 of its tree, as wide as its function has it. -/
theorem vredVal_eq (fn : VredFn) {p : Option (List Bool)} {va : Lanes} (hv : va.length = laneCount)
    (hp : ∀ q, p = some q → q.length = laneCount) :
    vredVal fn p va =
      let r := (treeLevel (vredOp fn) (vredLanes fn p va) 9).getD 0 0
      match fn with
      | .fsum | .fmax | .fmin => r.zeroExtend 64
      | .isum | .imax | .imin => r.signExtend 64 := by
  have ht := tree_eq_treeLevel (vredOp fn) 0 (by omega) (length_vredLanes fn hv hp)
  rw [← ht]
  cases fn <;> rfl

theorem toInt_vredOp_imax (x y : W32) : (vredOp .imax x y).toInt = max x.toInt y.toInt := by
  simp only [vredOp, BitVec.slt_iff_toInt_lt]
  split <;> omega

theorem toInt_vredOp_imin (x y : W32) : (vredOp .imin x y).toInt = min x.toInt y.toInt := by
  simp only [vredOp, BitVec.slt_iff_toInt_lt]
  split <;> omega

/-- 06 R163: a word of operation code 0x27 is no instruction or a VRED of the function its bits 4 to 0 code. -/
theorem zdecode_opcode_vred {w : W32} (rest : List W32) (h : w.toNat / 2 ^ 24 = 0x27) :
    zdecode (w :: rest) = none ∨
      ∃ sd va p fn, vredAll[w.toNat % 32]? = some fn ∧ zdecode (w :: rest) = some (.vred noIssue sd va p fn, 1) := by
  have hop : bits w.toNat 31 24 = 0x27 := by unfold bits; rw [Nat.shiftRight_eq_div_pow]; omega
  have hshort : isLong w = false := by simp [isLong, fld, hop]
  have hfn : bits w.toNat 4 0 = w.toNat % 32 := rfl
  have hz : zdecode (w :: rest) = (zdec1 w.toNat).map (·, 1) := by simp [zdecode, hshort]
  have hf : zfields1 w.toNat = (vredAll[w.toNat % 32]?).map
      (.vred noIssue (sreg w.toNat 19) (sreg w.toNat 14) (predOf w.toNat)) := by
    simp only [zfields1, hop, hfn]
  rw [hz, zdec1, hf]
  cases vredAll[w.toNat % 32]? with
  | none => exact .inl rfl
  | some fn =>
    simp only [Option.map_some]
    split
    · exact .inr ⟨_, _, _, fn, rfl, rfl⟩
    · exact .inl rfl

/-- The function that a code names has that code. -/
theorem idxOf_vredAll {c : Nat} {fn : VredFn} (h : vredAll[c]? = some fn) : vredAll.idxOf fn = c := by
  obtain ⟨hc, rfl⟩ := List.getElem?_eq_some_iff.mp h
  exact List.Nodup.idxOf_getElem (by decide) c hc

/-- Settles O15: the levels are those of the model's tree over the mixed lanes. -/
theorem vredReducesAsATree : Obligations.VredReducesAsATree := by
  unfold Obligations.VredReducesAsATree
  refine ⟨fun i sd va p fn s a h hu hv hq => ?run, fun x y => ?ops, fun w rest hw => ?codes, fun w rest hw hc => ?undefined⟩
  case run =>
    have hp : ∀ q, predLanes a.p.bank p = some q → q.length = laneCount := by
      cases p with
      | none => simp [predLanes]
      | some q => simp [predLanes, hq, laneCount]
    let lanes := vredLanes fn (predLanes a.p.bank p) (a.p.bank.vget va.val)
    have hlen : lanes.length = 2 ^ 9 := length_vredLanes fn hv hp
    refine ⟨_, _, fun n k => (treeLevel (vredOp fn) lanes n).getD k 0, rfl, leavesS_issue_of_retireS h hu rfl rfl,
      ?lanes, ?levels, vredVal_eq fn hv hp⟩
    case lanes =>
      intro k hk
      cases p with
      | none => rfl
      | some q =>
        refine (getD_vredLanes_some fn hv (hq q.val) hk).trans ?_
        cases fn <;> rfl
    case levels =>
      intro n k hn hk
      exact getD_treeLevel_succ _ _ (by rw [hlen]; congr 1; omega) hk
  case ops =>
    exact ⟨rfl, rfl, rfl, BitVec.toNat_add x y, toInt_vredOp_imax x y, toInt_vredOp_imin x y⟩
  case codes =>
    obtain hz | ⟨sd, va, p, fn, hfn, hz⟩ := zdecode_opcode_vred rest hw
    · rw [hz]; trivial
    · rw [hz]
      cases fn <;> exact (idxOf_vredAll hfn).symm
  case undefined =>
    obtain hz | ⟨sd, va, p, fn, hfn, hz⟩ := zdecode_opcode_vred rest hw
    · exact hz
    · exact absurd (hfn.symm.trans (List.getElem?_eq_none hc)) (Option.some_ne_none fn)

end Sys2Proof.Machine
